-- ==== Sys2Proof/Word.lean ====
section
/-! DEFINITION. The words of the device and its tables: a table is a list of (number, value) pairs, numbers
rising, in which a number that is not listed stands for a default. -/

namespace Sys2Proof

/-- One byte. -/
abbrev Byte := BitVec 8

/-- A register is 64 bits wide (R9). -/
abbrev Word := BitVec 64

/-- The 64 bytes of a line (R13); byte b is bits [8b+7:8b]. -/
abbrev LineData := BitVec 512

/-- A sparse table: numbers rising, each with its value. -/
abbrev Tab (α : Type) := List (Nat × α)

/-- The value listed for a number. -/
def Tab.find {α : Type} : Tab α → Nat → Option α
  | [], _ => none
  | (k, v) :: t, n => if k = n then some v else Tab.find t n

/-- The value of a number, `d` where it is not listed. -/
def Tab.get {α : Type} (d : α) (t : Tab α) (n : Nat) : α := (Tab.find t n).getD d

/-- Lists a value for a number, in its place. -/
def Tab.insert {α : Type} : Tab α → Nat → α → Tab α
  | [], n, v => [(n, v)]
  | (k, w) :: t, n, v =>
    if n < k then (n, v) :: (k, w) :: t
    else if n = k then (n, v) :: t
    else (k, w) :: Tab.insert t n v

/-- Removes a number from the list. -/
def Tab.erase {α : Type} : Tab α → Nat → Tab α
  | [], _ => []
  | (k, w) :: t, n => if k = n then Tab.erase t n else (k, w) :: Tab.erase t n

/-- Writes a value whose default is `d`: the default is never listed. -/
def Tab.put {α : Type} [DecidableEq α] (d : α) (t : Tab α) (n : Nat) (v : α) : Tab α :=
  if v = d then Tab.erase t n else Tab.insert t n v

/-- The entries whose value is not the default of their number. -/
def Tab.trim {α : Type} [DecidableEq α] (d : Nat → α) (t : Tab α) : Tab α := t.filter fun e => decide (e.2 ≠ d e.1)

/-- Every number of the table is at least `n` and they rise. -/
def Tab.above {α : Type} : Nat → Tab α → Bool
  | _, [] => true
  | n, (k, _) :: t => decide (n ≤ k) && Tab.above (k + 1) t

/-- The canonical form: the numbers rise strictly. -/
def Tab.wf {α : Type} (t : Tab α) : Bool := Tab.above 0 t

/-- No listed value is the default of its number. -/
def Tab.lean {α : Type} [DecidableEq α] (d : Nat → α) : Tab α → Bool
  | [] => true
  | (k, v) :: t => decide (v ≠ d k) && Tab.lean d t

end Sys2Proof
end

