-- ==== Sys2Proof/Packet.lean ====
section
/-! DEFINITION. What travels: packets (Tables 12.4, 12.5, 13.3), the status codes (Table 8.4), the sources of a
command and what leaves the device. -/

namespace Sys2Proof

/-- The completion status codes of Table 8.4. -/
inductive Status where
  | ok | okShort | okRetried | pendingEnable | poisoned | targetDead | stateLost | staleMap
  | atomicUnknown | tierFailed | conflict | staleVersion | diverged | protection | xlatFault
  | qpAborted | brownout | timeout | malformed
deriving DecidableEq, Repr, Inhabited

/-- Where a packet enters: a UCIe site or a fabric link. -/
inductive Port where
  | site (s : Fin 4)
  | link (l : Fin 16)
deriving DecidableEq, Repr

/-- A packet of the fabric (Table 12.4 and the bodies of Table 12.5) or of the site protocol (R415). `mask` is the
byte mask of WR_MASKED, `opA` and `opB` are the atomic operands (`opA` the result of ATOMIC_RESULT), `value` the
register value, `list` the constituents of a COMBINED packet, `body` the bytes of every other body. -/
structure Packet where
  ptype : BitVec 8 := 0
  flags : BitVec 8 := 0
  len : BitVec 16 := 2
  srcNode : BitVec 16 := 0
  dstNode : BitVec 16 := 0
  tag : BitVec 32 := 0
  part : BitVec 8 := 0
  epoch : BitVec 8 := 0
  jobKey : BitVec 16 := 0
  addr : Word := 0
  counter : BitVec 16 := 0
  code : BitVec 8 := 0
  aux : BitVec 8 := 0
  grantId : BitVec 32 := 0
  checks : List (BitVec 32) := []
  mask : Word := 0
  data : List LineData := []
  opA : BitVec 128 := 0
  opB : BitVec 128 := 0
  value : Word := 0
  list : List (BitVec 16 × BitVec 32) := []
  body : List Byte := []
deriving DecidableEq, Repr, Inhabited

/-- A transient fault on the die that has not struck yet (log 45): the next read of a line from the stack finds a check that differs in
the bits of `flip`, and its retry is good (R147); the two computations of the new check of a line's next merge disagree, once, or twice
with `again` (R117, R339); the comparison at the next hand-off of an entry that touches a line fails, once or twice: the LOCATION of
producer and consumer and the bits in which the check found differs (R145, R146, Table 5.3). -/
inductive Upset where
  | read (line : Nat) (flip : BitVec 32)
  | merge (line : Nat) (again : Bool)
  | handOff (addr : Word) (producer consumer : BitVec 8) (flip : BitVec 32) (again : Bool)
deriving DecidableEq, Repr, Inhabited

/-- Who writes or reads a register: the Ringmaster's firmware, a site through the configuration class, or a node
of the fabric through the management class (R505). -/
inductive Writer where
  | ringmaster
  | site (s : Fin 4)
  | fabric (l : Fin 16) (node : BitVec 16) (part : Fin 32)
deriving DecidableEq, Repr

/-- A management transport (R503). -/
inductive Transport where
  | i3c
  | sideband (s : Fin 4)
  | mailbox (p : Fin 32)
deriving DecidableEq, Repr

/-- What a link end sends in EXCHANGE (R376): the lanes that pass, its node or port identifier, its port, its kind, its stepping and its
COMPAT_A level, and its credits by class; of a training as the physical layer reports it, the lanes that passed at both ends, what the
peer sent, and what the lock of this end found: the lanes of inverted polarity, the reversal of the lane order and the largest
lane-to-lane skew in symbols (R370). -/
structure Exchange where
  lanes : BitVec 8
  node : BitVec 16
  port : BitVec 8
  device : Bool
  stepping : BitVec 16
  compatA : Bool
  credits : List (Nat × Nat)
  inverted : BitVec 8
  reversed : Bool
  skew : Nat
deriving DecidableEq, Repr

/-- One cycle of TCK at the test port: the levels of TRST_N, TMS and TDI, and those on the lands that have boundary cells, in the order of
Table 18.2: RESET_N, WAKE_N, PWRGD_OUT, COMPAT_A, SITE_POP0, SITE_POP1, I3C_SCL, I3C_SDA, XSPI_CLK, XSPI_CS_N, XSPI_DQS, XSPI_RESET_N,
XSPI_IO0 to XSPI_IO7 (R525, log 48). -/
structure TapPins where
  trst : Bool
  tms : Bool
  tdi : Bool
  lands : BitVec 20
deriving DecidableEq, Repr

/-- What leaves the device. -/
inductive Out where
  /-- A packet to a site die. -/
  | site (s : Nat) (p : Packet)
  /-- A packet on a fabric link. -/
  | link (l : Nat) (p : Packet)
  /-- A flit on a fabric link: its sequence number, the sequence it acknowledges, whether it carries NAK, and the levels each active
  lane sends. -/
  | flit (l : Nat) (seq ack : Nat) (nak : Bool) (lanes : List (List Int))
  /-- What this end of a fabric link sends in EXCHANGE. -/
  | exchange (l : Nat) (x : Exchange)
  /-- A Waigor vendor-defined sideband message to a site die (R420). -/
  | sideband (s : Nat) (name : String)
  /-- The endpoint ID that the Ringmaster assigns to a site die over its sideband (R420). -/
  | endpoint (s : Nat) (eid : Byte)
  /-- A management message: its transport, its name, its result code and its data. -/
  | mgmt (t : Transport) (name : String) (code : Nat) (data : List Byte)
  /-- A PLDM platform event to the registered event receiver (R506, R507). -/
  | event (name : String) (data : List Byte)
  /-- The level of TDO while a register of the test port shifts (R525). -/
  | tdo (level : Bool)
deriving DecidableEq, Repr

/-- A command in flight in a Booth, by its queue pair and the free-running count of its submission entry. -/
structure CmdRef where
  qp : Fin 4096
  count : BitVec 32
deriving DecidableEq, Repr

/-- The raw read of the block of a line: its eight granules of 32 bytes, each with the word on its check-bit lanes
(R104, R106, R124). -/
structure RawLine where
  granules : List (BitVec 256 × BitVec 32)
deriving DecidableEq, Repr

end Sys2Proof
end

