-- ==== Sys2Proof/Syntax.lean ====
section
/-! DEFINITION. The commands: one constructor of `Instr` per row of spec/opcode_table.json. The operands are those
the manual gives the operation: the packet with its port, the register value with its writer, or the thing an event
happens to with what the environment supplies. -/

namespace Sys2Proof

/-- A pending wait on an arrival counter: a COUNTER_WAIT command or a site's request by its tag (R219, R220). -/
inductive WaitRef where
  | cmd (c : CmdRef)
  | site (s : Fin 4) (tag : BitVec 16)
deriving DecidableEq, Repr

/-- The causes of a partition fault raised by hardware (R444, Table 14.9). -/
inductive PartCause where
  | boothState | keySlot | bankState
deriving DecidableEq, Repr

/-- The causes of a halt of the Ringmaster (R494, Table 16.9). -/
inductive HaltCause where
  | watchdog | trap | sramCheck | romSelfTest
deriving DecidableEq, Repr

/-- A transaction-state entry whose check fails on two reads (Table 14.6). -/
inductive LostEntry where
  | coherence | mirrorHold | burstHold | farAtomic | hotLine
deriving DecidableEq, Repr

/-- The algorithms a requester offers in NEGOTIATE_ALGORITHMS: whether each of the device's four is among them (R498). -/
structure Algorithms where
  ed25519 : Bool
  sha384 : Bool
  secp384r1 : Bool
  aes256Gcm : Bool
deriving DecidableEq, Repr

/-- One telemetry sample (R506, Table 16.6): temperatures in 0.1 °C of the hub, the stacks and the power companion dies, P48V, input power, core current. -/
structure Telemetry where
  hub : Int
  stackTemps : List Int
  dies : List Int
  inputMv : BitVec 16
  inputW : BitVec 16
  coreA : BitVec 16
deriving DecidableEq, Repr

/-- What a narrow write meets on the die: whether the stack returns the old line later, and the faults announced with it (log 45). -/
structure Course where
  later : Bool
  ups : List Upset
deriving DecidableEq, Repr

/-- The straps latched at the rise of RESET_N (R531). -/
structure Straps where
  compatA : Bool
  sitePop : BitVec 2
deriving DecidableEq, Repr

/-- The commands of the device: one constructor per row of spec/opcode_table.json. -/
inductive Instr where
  /-- REGISTER_WRITE (R10). -/
  | registerWrite (w : Writer) (addr : BitVec 24) (v : Word)
  /-- RD (R86). -/
  | rd (port : Port) (p : Packet) (later : Bool) (ups : List Upset)
  /-- RD_BURST (R210). -/
  | rdBurst (port : Port) (p : Packet)
  /-- RD_STREAM (R382). -/
  | rdStream (port : Port) (p : Packet)
  /-- WR (R28). -/
  | wr (port : Port) (p : Packet) (ups : List Upset)
  /-- WR_MASKED (R116). -/
  | wrMasked (port : Port) (p : Packet) (on : Course)
  /-- WR_BURST (R210). -/
  | wrBurst (port : Port) (p : Packet)
  /-- WR_STREAM (R211). -/
  | wrStream (port : Port) (p : Packet)
  /-- ATOMIC_FAR (R231). -/
  | atomicFar (port : Port) (p : Packet)
  /-- PUBLISH_COMMIT (R365). -/
  | publishCommit (l : Fin 16) (p : Packet)
  /-- REG_RD (R505). -/
  | regRd (port : Port) (p : Packet)
  /-- REG_WR (R505). -/
  | regWr (port : Port) (p : Packet)
  /-- RD_SHARED (R192). -/
  | rdShared (port : Port) (p : Packet)
  /-- RD_OWN (R192). -/
  | rdOwn (port : Port) (p : Packet)
  /-- UPGRADE (R192). -/
  | upgrade (port : Port) (p : Packet)
  /-- WRITEBACK (R196). -/
  | writeback (port : Port) (p : Packet)
  /-- RD_NC (R192). -/
  | rdNc (s : Fin 4) (p : Packet)
  /-- WR_NC (R192). -/
  | wrNc (s : Fin 4) (p : Packet)
  /-- COMPLETE (R193). -/
  | complete (port : Port) (p : Packet) (lost : Option LostEntry)
  /-- SNP_INV (R190). -/
  | snpInv (l : Fin 16) (p : Packet)
  /-- SNP_FWD_S (R191). -/
  | snpFwdS (l : Fin 16) (p : Packet)
  /-- SNP_FWD_O (R191). -/
  | snpFwdO (l : Fin 16) (p : Packet)
  /-- SNP_RECALL (R191). -/
  | snpRecall (l : Fin 16) (p : Packet)
  /-- AGENT_LOST (R199). -/
  | agentLost (l : Fin 16) (p : Packet)
  /-- RING_HELLO (R182). -/
  | ringHello (l : Fin 16) (p : Packet)
  /-- DATA_S (R191). -/
  | dataS (port : Port) (p : Packet)
  /-- DATA_O (R191). -/
  | dataO (port : Port) (p : Packet)
  /-- GRANT (R191). -/
  | grant (l : Fin 16) (p : Packet)
  /-- ACK (R196). -/
  | ack (port : Port) (p : Packet)
  /-- ACK_DATA (R192). -/
  | ackData (port : Port) (p : Packet)
  /-- WB_ACK (R191). -/
  | wbAck (l : Fin 16) (p : Packet)
  /-- COHERENCE_RETRY (R195). -/
  | coherenceRetry (l : Fin 16) (p : Packet)
  /-- ERROR (R189). -/
  | error (l : Fin 16) (p : Packet)
  /-- MIRROR_WR (R157). -/
  | mirrorWr (l : Fin 16) (p : Packet)
  /-- MIRROR_META (R155). -/
  | mirrorMeta (l : Fin 16) (p : Packet)
  /-- MIRROR_RD (R163). -/
  | mirrorRd (l : Fin 16) (p : Packet)
  /-- PAIR_OPEN (R543). -/
  | pairOpen (l : Fin 16) (p : Packet)
  /-- PAIR_CLOSE (R359). -/
  | pairClose (l : Fin 16) (p : Packet)
  /-- MIRROR_ACCEPT (R157). -/
  | mirrorAccept (l : Fin 16) (p : Packet)
  /-- MIRROR_DATA (R163). -/
  | mirrorData (l : Fin 16) (p : Packet)
  /-- FABRIC_ACK (R29). -/
  | fabricAck (l : Fin 16) (p : Packet)
  /-- DATA (R392). -/
  | data (l : Fin 16) (p : Packet)
  /-- ATOMIC_RESULT (R232). -/
  | atomicResult (l : Fin 16) (p : Packet)
  /-- PUBLISH_RESULT (R367). -/
  | publishResult (l : Fin 16) (p : Packet)
  /-- STATUS (R88). -/
  | status (l : Fin 16) (p : Packet)
  /-- RETRY (R399). -/
  | retry (l : Fin 16) (p : Packet)
  /-- RESEND_GRANT (R397). -/
  | resendGrant (l : Fin 16) (p : Packet)
  /-- CHECK_RESEND (R392). -/
  | checkResend (l : Fin 16) (p : Packet)
  /-- REG_RESULT (R505). -/
  | regResult (l : Fin 16) (p : Packet)
  /-- CREDIT (R385). -/
  | credit (port : Port) (p : Packet)
  /-- NULL (R377). -/
  | null (l : Fin 16)
  /-- NODE_UNREACHABLE (R390). -/
  | nodeUnreachable (l : Fin 16) (node : BitVec 16)
  /-- NODE_REACHABLE (R390). -/
  | nodeReachable (l : Fin 16) (node : BitVec 16)
  /-- SITE_FENCE (R224). -/
  | siteFence (s : Fin 4) (p : Packet)
  /-- SITE_COUNTER_WAIT (R220). -/
  | siteCounterWait (s : Fin 4) (p : Packet)
  /-- XLAT_REPLY (R97). -/
  | xlatReply (s : Fin 4) (p : Packet)
  /-- XLAT_INVALIDATE (R98). -/
  | xlatInvalidate (s : Fin 4) (p : Packet)
  /-- XLAT_ACKNOWLEDGE (R98). -/
  | xlatAcknowledge (s : Fin 4) (invalId : BitVec 8)
  /-- XLAT_MISS_TIMEOUT (R97). -/
  | xlatMissTimeout (b : Fin 40) (slot : Fin 16)
  /-- LINK_FLIT (R377). -/
  | linkFlit (l : Fin 16) (lanes : List (List Byte))
  /-- LINK_ACK_TIMEOUT (R377). -/
  | linkAckTimeout (l : Fin 16)
  /-- LINK_FAST_RETRAIN (R378). -/
  | linkFastRetrain (l : Fin 16) (x : Exchange)
  /-- LANE_LOCK_LOST (R378). -/
  | laneLockLost (l : Fin 16) (lane : Fin 8) (x : Exchange)
  /-- LINK_TRAINING_PHASE_DONE (R374). -/
  | linkTrainingPhaseDone (l : Fin 16) (x : Exchange)
  /-- TRAINING_PHASE_TIMEOUT (R374). -/
  | trainingPhaseTimeout (l : Fin 16)
  /-- LINK_DOWN_RETRY (R374). -/
  | linkDownRetry (l : Fin 16)
  /-- CREDIT_RETURN_TIMER (R385). -/
  | creditReturnTimer (port : Port)
  /-- BOUNCE_GRANT (R397). -/
  | bounceGrant (pt : Fin 8) (slice : Fin 8)
  /-- GRANT_HOLD_EXPIRY (R397). -/
  | grantHoldExpiry (pt : Fin 8) (grantId : BitVec 32)
  /-- FABRIC_TIMEOUT (R401). -/
  | fabricTimeout (tag : BitVec 20)
  /-- MIRROR_TIMEOUT (R159). -/
  | mirrorTimeout (tag : BitVec 20)
  /-- ATOMIC_RESEND_TIMER (R232). -/
  | atomicResendTimer (tag : BitVec 20)
  /-- ATOMIC_RETENTION_EXPIRY (R232). -/
  | atomicRetentionExpiry (tag : BitVec 20)
  /-- REPLAY_ENTRY_EXPIRY (R230). -/
  | replayEntryExpiry (node : BitVec 16) (tag : BitVec 20)
  /-- NOP (R254). -/
  | nop (c : CmdRef)
  /-- FILL (R342). -/
  | fill (c : CmdRef)
  /-- COPY (R343). -/
  | copy (c : CmdRef)
  /-- COMPARE (R344). -/
  | compare (c : CmdRef)
  /-- REDUCE_LOCAL (R347). -/
  | reduceLocal (c : CmdRef)
  /-- REDUCE_REMOTE (R349). -/
  | reduceRemote (c : CmdRef)
  /-- ATTN_DECODE (R276). -/
  | attnDecode (c : CmdRef)
  /-- ATTN_MERGE (R294). -/
  | attnMerge (c : CmdRef)
  /-- KV_APPEND (R295). -/
  | kvAppend (c : CmdRef)
  /-- SEARCH (R315). -/
  | search (c : CmdRef)
  /-- SEARCH_INSERT (R324). -/
  | searchInsert (c : CmdRef)
  /-- SEARCH_DELETE (R325). -/
  | searchDelete (c : CmdRef)
  /-- SEARCH_EPOCH_ADVANCE (R326). -/
  | searchEpochAdvance (c : CmdRef)
  /-- PREFETCH_RUN (R352). -/
  | prefetchRun (c : CmdRef)
  /-- TIER_MOVE (R357). -/
  | tierMove (c : CmdRef)
  /-- HINT (R362). -/
  | hint (c : CmdRef)
  /-- PUBLISH (R365). -/
  | publish (c : CmdRef)
  /-- SCRUB (R170). -/
  | scrub (c : CmdRef)
  /-- MIRROR_RESYNC (R162). -/
  | mirrorResync (c : CmdRef)
  /-- MIRROR_PROMOTE (R165). -/
  | mirrorPromote (c : CmdRef)
  /-- COUNTER_WAIT (R219). -/
  | counterWait (c : CmdRef)
  /-- FENCE (R222). -/
  | fence (c : CmdRef)
  /-- ATOMIC (R227). -/
  | atomic (c : CmdRef)
  /-- COUNTER_WAIT_TIMEOUT (R221). -/
  | counterWaitTimeout (r : WaitRef)
  /-- PREFETCH_STEP_TIMEOUT (R354). -/
  | prefetchStepTimeout (c : CmdRef)
  /-- BATCH_WINDOW_EXPIRY (R331). -/
  | batchWindowExpiry (b : Fin 40)
  /-- QP_SQ_DOORBELL (R246). -/
  | qpSqDoorbell (w : Writer) (q : Fin 4096) (v : Word)
  /-- QP_CQ_DOORBELL (R247). -/
  | qpCqDoorbell (w : Writer) (q : Fin 4096) (v : Word)
  /-- QP_ENABLE (R258). -/
  | qpEnable (w : Writer) (q : Fin 4096)
  /-- QP_DISABLE (R258). -/
  | qpDisable (w : Writer) (q : Fin 4096)
  /-- QP_ABORT (R258). -/
  | qpAbort (w : Writer) (q : Fin 4096)
  /-- QP_RESET (R259). -/
  | qpReset (w : Writer) (q : Fin 4096)
  /-- QP_QUIESCENT (R258). -/
  | qpQuiescent (q : Fin 4096)
  /-- QP_NOTIFY (R252). -/
  | qpNotify (q : Fin 4096)
  /-- SQ_ENTRY_ARRIVAL (R252). -/
  | sqEntryArrival (q : Fin 4096)
  /-- COMMAND_ACCESS_COMPLETE (R261). -/
  | commandAccessComplete (c : CmdRef)
  /-- CQ_PAIR_HOLD_EXPIRY (R245). -/
  | cqPairHoldExpiry (q : Fin 4096)
  /-- CQ_WRITE_DONE (R263). -/
  | cqWriteDone (q : Fin 4096)
  /-- FULL_IMAGE_APPLY (R48). -/
  | fullImageApply (image : List Byte)
  /-- SEGMENT_PRESENT (R61). -/
  | segmentPresent (image : List Byte)
  /-- SEGMENT_SWITCH (R61). -/
  | segmentSwitch
  /-- EPOCH_RETIRE (R63). -/
  | epochRetire
  /-- DRAIN_LIMIT_EXPIRY (R64). -/
  | drainLimitExpiry
  /-- GROUP_CLEAR_DONE (R59). -/
  | groupClearDone (g : Fin 80)
  /-- XLAT_EPOCH_UPDATE (R101). -/
  | xlatEpochUpdate (w : Writer) (v : Word)
  /-- MEM_PAGE_ATTR (R138). -/
  | memPageAttr (w : Writer) (k : Fin 20) (page : Fin 256) (v : Word)
  /-- MEM_COUNT_CLEAR (R137). -/
  | memCountClear (w : Writer) (k : Fin 20) (v : Word)
  /-- INTEG_COUNT_CLEAR (R176). -/
  | integCountClear (w : Writer) (v : Word)
  /-- INTEG_POISON (R177). -/
  | integPoison (w : Writer) (v : Word)
  /-- INTEG_INSPECT_CTRL (R178). -/
  | integInspectCtrl (w : Writer) (v : Word)
  /-- INSPECT_READ_DONE (R178). -/
  | inspectReadDone (raw : Option RawLine)
  /-- CAROUSEL_READ_RETURN (R147). -/
  | carouselReadReturn (line : BitVec 36) (raw : RawLine)
  /-- LINE_RETRY_READ_RETURN (R147). -/
  | lineRetryReadReturn (line : BitVec 36) (raw : RawLine)
  /-- CHANNEL_TRAINING_DONE (R105). -/
  | channelTrainingDone (k : Fin 20) (up : BitVec 32)
  /-- HOME_TIMEOUT (R198). -/
  | homeTimeout (slice : Fin 8) (idx : Fin 1024)
  /-- AGENT_SWEEP_DONE (R200). -/
  | agentSweepDone (a : Fin 32)
  /-- WAITER_RESERVATION_EXPIRY (R195). -/
  | waiterReservationExpiry (line : BitVec 36)
  /-- HOT_LINE_FLUSH (R202). -/
  | hotLineFlush (line : BitVec 36)
  /-- HOT_LINE_CLOSE (R202). -/
  | hotLineClose (line : BitVec 36)
  /-- HOME_AGENT_REVIVE (R201). -/
  | homeAgentRevive (w : Writer) (v : Word)
  /-- HOME_COUNT_CLEAR (R204). -/
  | homeCountClear (w : Writer) (v : Word)
  /-- ORDER_COUNT_WRITE (R217). -/
  | orderCountWrite (w : Writer) (n : Fin 2048) (v : Word)
  /-- ORDER_CONSUME (R217). -/
  | orderConsume (w : Writer) (v : Word)
  /-- ORDER_COUNT_CLEAR (R237). -/
  | orderCountClear (w : Writer) (v : Word)
  /-- ORDER_CTRL (R213). -/
  | orderCtrl (w : Writer) (v : Word)
  /-- BOOTH_COUNT_CLEAR (R302). -/
  | boothCountClear (w : Writer) (b : Fin 40) (v : Word)
  /-- BOOTH_SEARCH_COUNT_CLEAR (R335). -/
  | boothSearchCountClear (w : Writer) (b : Fin 40) (v : Word)
  /-- FAB_TRAIN (R406). -/
  | fabTrain (w : Writer) (pt : Fin 8) (v : Word)
  /-- FAB_COUNT_CLEAR (R409). -/
  | fabCountClear (w : Writer) (pt : Fin 8) (v : Word)
  /-- UCIE_RESET_SITE (R428). -/
  | ucieResetSite (w : Writer) (s : Fin 4)
  /-- UCIE_TRAIN (R428). -/
  | ucieTrain (w : Writer) (s : Fin 4)
  /-- UCIE_COUNT_CLEAR (R431). -/
  | ucieCountClear (w : Writer) (s : Fin 4) (v : Word)
  /-- SITE_TRAINING_DONE (R413). -/
  | siteTrainingDone (s : Fin 4) (modules : Nat) (rate : Nat) (repaired : Nat)
  /-- SITE_RATE_DROP (R414). -/
  | siteRateDrop (s : Fin 4)
  /-- SITE_LINK_ERROR (R423). -/
  | siteLinkError (s : Fin 4)
  /-- SITE_SELF_RESET (R423). -/
  | siteSelfReset (s : Fin 4)
  /-- RESET_REQUEST (R420). -/
  | resetRequest (s : Fin 4)
  /-- SITE_RESET_AFTER_NOTICE (R420). -/
  | siteResetAfterNotice (s : Fin 4)
  /-- SITE_DOWN_RETRY (R425). -/
  | siteDownRetry (s : Fin 4)
  /-- SITE_POWER_WINDOW (R422). -/
  | sitePowerWindow (s : Fin 4) (average : BitVec 16)
  /-- PART_START (R435). -/
  | partStart (w : Writer) (p : Fin 32)
  /-- PART_STOP (R438). -/
  | partStop (w : Writer) (p : Fin 32)
  /-- PART_CLEAR_FAULT (R435). -/
  | partClearFault (w : Writer) (p : Fin 32)
  /-- PART_STARTING_DONE (R437). -/
  | partStartingDone (p : Fin 32)
  /-- PART_QUIESCENT (R435). -/
  | partQuiescent (p : Fin 32)
  /-- PARTITION_FAULT (R444). -/
  | partitionFault (p : Fin 32) (cause : PartCause) (place : BitVec 8)
  /-- PART_EVENT_CFG (R455). -/
  | partEventCfg (w : Writer) (p : Fin 32) (v : Word)
  /-- PART_EVENT_PTR (R455). -/
  | partEventPtr (w : Writer) (p : Fin 32) (v : Word)
  /-- BARKER_MGMT_PTR (R456). -/
  | barkerMgmtPtr (w : Writer) (v : Word)
  /-- BARKER_TICKET_RETURN (R448). -/
  | barkerTicketReturn (block : BitVec 8)
  /-- METER_WINDOW_END (R510). -/
  | meterWindowEnd (n : Fin 32)
  /-- PWRCLK_CURTAIN (R463). -/
  | pwrclkCurtain (w : Writer) (p : Fin 32)
  /-- PWRCLK_WAKE (R465). -/
  | pwrclkWake (w : Writer) (p : Fin 32)
  /-- PWRCLK_DARK (R467). -/
  | pwrclkDark (w : Writer)
  /-- CURTAIN_ENTRY_DONE (R464). -/
  | curtainEntryDone (p : Fin 32)
  /-- CURTAIN_EXIT (R466). -/
  | curtainExit (p : Fin 32)
  /-- DARK_ENTRY_DONE (R468). -/
  | darkEntryDone
  /-- DARK_EXIT (R470). -/
  | darkExit
  /-- TURNSTILE_SLOT (R474). -/
  | turnstileSlot
  /-- WAKE_N (R476). -/
  | wakeN (edge : Bool) (inWindow : Bool)
  /-- I3C_WAKE (R469). -/
  | i3cWake
  /-- LANE_SIGNAL_DETECT (R469). -/
  | laneSignalDetect (pt : Fin 8)
  /-- BOOTH_INTERVAL_ENTRY (R461). -/
  | boothIntervalEntry (b : Fin 40)
  /-- CLOCK_GATE_IDLE (R462). -/
  | clockGateIdle (d : Fin 18)
  /-- BROWNOUT (R480). -/
  | brownout
  /-- BROWNOUT_KEEP_ALIVE (R481). -/
  | brownoutKeepAlive
  /-- POWER_LOSS (R459). -/
  | powerLoss
  /-- REFCLK_LOST (R534). -/
  | refclkLost
  /-- TRIP_LATCH_CLEAR (R538). -/
  | tripLatchClear
  /-- COLD_POWER_UP (R532). -/
  | coldPowerUp
  /-- WARM_RESET (R530). -/
  | warmReset
  /-- RESET_N_RISE (R531). -/
  | resetNRise (straps : Straps) (scan : List TapPins)
  /-- PLL_LOCK (R484). -/
  | pllLock
  /-- PLL_LOCK_RETRY (R530). -/
  | pllLockRetry
  /-- TELEMETRY_SAMPLE (R506). -/
  | telemetrySample (t : Telemetry)
  /-- BOOT_CHAIN (R489). -/
  | bootChain (selfTest : Bool) (flashAnswers : Bool)
  /-- WATCHDOG_EXPIRY (R493). -/
  | watchdogExpiry
  /-- RINGMASTER_HALT (R494). -/
  | ringmasterHalt (cause : HaltCause)
  /-- REQUEST_UPDATE (R492). -/
  | requestUpdate (t : Transport)
  /-- PASS_COMPONENT_TABLE (R490). -/
  | passComponentTable (t : Transport) (component : BitVec 16)
  /-- VERIFY_COMPLETE (R490). -/
  | verifyComplete (t : Transport) (image : List Byte)
  /-- APPLY_COMPLETE (R492). -/
  | applyComplete (t : Transport) (readBack : Bool)
  /-- ACTIVATE_FIRMWARE (R492). -/
  | activateFirmware (t : Transport)
  /-- MCTP_CONTROL (R503). -/
  | mctpControl (t : Transport) (command : BitVec 8) (eid : BitVec 8)
  /-- SET_SENSOR_THRESHOLDS (R506). -/
  | setSensorThresholds (t : Transport) (sensor : BitVec 16) (low : Int) (high : Int)
  /-- PLATFORM_EVENT_ACK (R507). -/
  | platformEventAck
  /-- MAILBOX_GO (R512). -/
  | mailboxGo (w : Writer) (p : Fin 32) (v : Word)
  /-- GET_VERSION (R498). -/
  | getVersion (t : Transport)
  /-- GET_CAPABILITIES (R498). -/
  | getCapabilities (t : Transport)
  /-- NEGOTIATE_ALGORITHMS (R498). -/
  | negotiateAlgorithms (t : Transport) (offer : Algorithms)
  /-- GET_DIGESTS (R498). -/
  | getDigests (t : Transport)
  /-- GET_CERTIFICATE (R497). -/
  | getCertificate (t : Transport) (slot : BitVec 4) (offset : BitVec 16) (length : BitVec 16)
  /-- CHALLENGE (R499). -/
  | challenge (t : Transport) (slot : BitVec 4) (nonce : List Byte)
  /-- GET_MEASUREMENTS (R500). -/
  | getMeasurements (t : Transport) (index : BitVec 8) (signed : Bool) (nonce : List Byte)
  /-- KEY_EXCHANGE (R499). -/
  | keyExchange (t : Transport) (slot : BitVec 4) (sessionId : BitVec 16) (exchange : List Byte)
  /-- FINISH (R498). -/
  | finish (t : Transport) (verified : Bool)
  /-- HEARTBEAT (R498). -/
  | heartbeat (t : Transport)
  /-- KEY_UPDATE (R498). -/
  | keyUpdate (t : Transport)
  /-- END_SESSION (R498). -/
  | endSession (t : Transport)
  /-- CHUNK_SEND (R498). -/
  | chunkSend (t : Transport) (seqNo : BitVec 16) (last : Bool) (bytes : List Byte)
  /-- CHUNK_GET (R498). -/
  | chunkGet (t : Transport) (seqNo : BitVec 16)
  /-- PQ_SIGNATURE (R499). -/
  | pqSignature (t : Transport)
  /-- SET_KEY (R502). -/
  | setKey (t : Transport) (slot : BitVec 8) (key : BitVec 512)
  /-- CLEAR_KEY (R502). -/
  | clearKey (t : Transport) (slot : BitVec 8)
  /-- TAG_REUSE_HOLD_EXPIRY (R232). -/
  | tagReuseHoldExpiry (tag : BitVec 20)
  /-- EVENT_RECEIVER_REGISTRATION (R507). -/
  | eventReceiverRegistration (t : Transport)
deriving DecidableEq, Repr

end Sys2Proof
end

