-- ==== Sys2Proof/Machine/Bits.lean ====
section
/-! DEFINITION. Bit fields, byte orders and saturating counts, over which every operation is written. -/

namespace Sys2Proof.Machine

/-- The field of `w` bits at bit `lo` of a word. -/
def bits (v lo w : Nat) : Nat := (v >>> lo) % 2 ^ w

/-- A word from its fields (low bit, width, value). -/
def pack : List (Nat × Nat × Nat) → Nat
  | [] => 0
  | (lo, w, v) :: t => ((v % 2 ^ w) <<< lo) ||| pack t

/-- A Bool as a bit. -/
def bit (b : Bool) : Nat := if b then 1 else 0

/-- A counter of `w` bits that saturates at all ones (R134 and the other counters). -/
def satAdd (w v n : Nat) : Nat := min (v + n) (2 ^ w - 1)

/-- A counter of `w` bits increased by 1, saturating. -/
def satInc (w v : Nat) : Nat := satAdd w v 1

/-- A flag at bit `i` of a set held as a number. -/
def setBit (v i : Nat) (b : Bool) : Nat :=
  if b then v ||| (1 <<< i) else if v.testBit i then v ^^^ (1 <<< i) else v

/-- The numbers below `n` whose bit is set, rising. -/
def setBits (v n : Nat) : List Nat := (List.range n).filter v.testBit

/-- The number of set bits among the `n` low bits. -/
def popCount (v n : Nat) : Nat := (setBits v n).length

/-- The `n` bytes of a number, least significant first. -/
def leBytes : Nat → Nat → List Byte
  | 0, _ => []
  | n + 1, v => BitVec.ofNat 8 v :: leBytes n (v / 256)

/-- The number whose bytes, least significant first, are given. -/
def ofLe : List Byte → Nat
  | [] => 0
  | b :: t => b.toNat + 256 * ofLe t

/-- The number whose bytes, most significant first, are given. -/
def ofBe (l : List Byte) : Nat := ofLe l.reverse

/-- The `n` bytes of a number, most significant first. -/
def beBytes (n v : Nat) : List Byte := (leBytes n v).reverse

/-- The field of `n` bytes at offset `o`, little-endian; bytes past the end read as 0. -/
def leAt (l : List Byte) (o n : Nat) : Nat := ofLe ((l.drop o).take n)

/-- Whether every byte of a range is zero. -/
def zeroAt (l : List Byte) (o n : Nat) : Bool := ((l.drop o).take n).all (· == 0)

/-- The bytes of a line, byte 0 first. -/
def lineBytes (d : LineData) : List Byte := leBytes 64 d.toNat

/-- The line whose bytes are given, byte 0 first. -/
def lineOf (l : List Byte) : LineData := BitVec.ofNat 512 (ofLe (l.take 64))

/-- The field of `n` bytes at byte `o` of a line, little-endian. -/
def lineField (d : LineData) (o n : Nat) : Nat := bits d.toNat (8 * o) (8 * n)

/-- A line in which the `n` bytes at byte `o` take the bytes of `v`. -/
def lineSet (d : LineData) (o n v : Nat) : LineData :=
  let m : Nat := (2 ^ (8 * n) - 1) <<< (8 * o)
  (d &&& ~~~ (BitVec.ofNat 512 m)) ||| BitVec.ofNat 512 ((v % 2 ^ (8 * n)) <<< (8 * o))

/-- All 512 bits one, as a refused load returns (R86, R154). -/
def allOnes : LineData := BitVec.allOnes 512

/-- The bits of a byte mask: 255 in each byte whose bit is set, over the bytes below `n`. -/
def maskNat (mask : Nat) : Nat → Nat
  | 0 => 0
  | n + 1 => maskNat mask n ||| (if mask.testBit n then 255 <<< (8 * n) else 0)

/-- The byte mask of a narrow write as a mask of bits (R116). -/
def maskBits (mask : Word) : LineData := BitVec.ofNat 512 (maskNat mask.toNat 64)

/-- The masked bytes taken from the write, the others from the old line (step 5 of Table 4.4). -/
def mergeLine (old new : LineData) (mask : Word) : LineData :=
  (new &&& maskBits mask) ||| (old &&& ~~~ (maskBits mask))

/-- The byte mask of `n` bytes at byte `o`. -/
def rangeMask (o n : Nat) : Word := BitVec.ofNat 64 ((2 ^ n - 1) <<< o)

/-- Replaces the entry of a list at a place. -/
def setAt {α : Type} (l : List α) (i : Nat) (v : α) : List α := l.set i v

/-- Cuts a list into pieces of `n`, with fuel. -/
def chunks {α : Type} (n : Nat) : Nat → List α → List (List α)
  | 0, _ => []
  | f + 1, l => if l.isEmpty then [] else l.take n :: chunks n f (l.drop n)

/-- The insertion of an entry in a list kept in order, before the first entry that is not less. -/
def insertBy {α : Type} (lt : α → α → Bool) (a : α) : List α → List α
  | [] => [a]
  | b :: t => if lt a b then a :: b :: t else b :: insertBy lt a t

/-- A list in order; equal entries keep their order. -/
def sortBy {α : Type} (lt : α → α → Bool) (l : List α) : List α :=
  l.foldr (fun a acc => insertBy (fun x y => !lt y x) a acc) []

/-- Ceiling of the quotient. -/
def ceilDiv (a b : Nat) : Nat := (a + b - 1) / b

/-- The bits needed to write a number: 0 for 0. -/
def bitLength : Nat → Nat → Nat
  | 0, _ => 0
  | f + 1, v => if v = 0 then 0 else bitLength f (v / 2) + 1

end Sys2Proof.Machine
end

