-- ==== Sys2Proof/Machine/Aes.lean ====
section
/-! DEFINITION. AES-256-XTS as IEEE 1619 defines it, over data units of whole 16-byte blocks (R114). -/

namespace Sys2Proof.Machine

/-- Multiplication by x in GF(2^8) under x^8 + x^4 + x^3 + x + 1. -/
def aesX (a : Nat) : Nat := if a < 128 then 2 * a else (2 * a) ^^^ 0x11B

/-- Multiplication in GF(2^8), over the `n` low bits of the second factor. -/
def aesMul : Nat → Nat → Nat → Nat
  | 0, _, _ => 0
  | n + 1, a, b => (if b.testBit 0 then a else 0) ^^^ aesMul n (aesX a) (b / 2)

/-- The n-th power in GF(2^8). -/
def aesPow (a : Nat) : Nat → Nat
  | 0 => 1
  | n + 1 => aesMul 8 (aesPow a n) a

/-- The inverse in GF(2^8), 0 for 0: the 254th power. -/
def aesInv (a : Nat) : Nat :=
  let a2 := aesMul 8 a a
  let a3 := aesMul 8 a2 a
  let a6 := aesMul 8 a3 a3
  let a12 := aesMul 8 a6 a6
  let a15 := aesMul 8 a12 a3
  let a30 := aesMul 8 a15 a15
  let a60 := aesMul 8 a30 a30
  let a120 := aesMul 8 a60 a60
  let a127 := aesMul 8 (aesMul 8 a120 a6) a
  aesMul 8 a127 a127

/-- Rotation of a byte to the left. -/
def rotl8 (v n : Nat) : Nat := ((v <<< n) ||| (v >>> (8 - n))) % 256

/-- The S-box. -/
def aesSub (a : Nat) : Nat :=
  let i := aesInv a
  i ^^^ rotl8 i 1 ^^^ rotl8 i 2 ^^^ rotl8 i 3 ^^^ rotl8 i 4 ^^^ 0x63

/-- The inverse S-box. -/
def aesUnsub (a : Nat) : Nat := aesInv (rotl8 a 1 ^^^ rotl8 a 3 ^^^ rotl8 a 6 ^^^ 0x05)

/-- Addition of two blocks. -/
def xorBytes (a b : List Nat) : List Nat := List.zipWith (· ^^^ ·) a b

/-- The key schedule: the words so far, newest first, each four bytes; `i` counts the words. -/
def aesExpand : Nat → Nat → List (List Nat) → List (List Nat)
  | 0, _, w => w
  | n + 1, i, w =>
    let t := w.getD 0 []
    let t := if i % 8 = 0 then
        xorBytes ((t.drop 1 ++ t.take 1).map aesSub) [aesPow 2 (i / 8 - 1), 0, 0, 0]
      else if i % 8 = 4 then t.map aesSub else t
    aesExpand n (i + 1) (xorBytes (w.getD 7 []) t :: w)

/-- The fifteen round keys of a 32-byte key. -/
def aesKeys (k : List Nat) : List (List Nat) :=
  let w := (aesExpand 52 8 (chunks 4 8 k).reverse).reverse
  (chunks 4 15 w).map List.flatten

/-- The rows of a block shifted, by place: byte i comes from place (5i) mod 16, or (13i) mod 16 in the inverse. -/
def aesShift (m : Nat) (b : List Nat) : List Nat := (List.range 16).map fun i => b.getD ((m * i) % 16) 0

/-- One column mixed by the coefficients of its first row. -/
def aesMix (c : List Nat) (col : List Nat) : List Nat :=
  (List.range 4).map fun r =>
    (List.range 4).foldl (fun a i => a ^^^ aesMul 8 (col.getD i 0) (c.getD ((i + 4 - r) % 4) 0)) 0

/-- Every column mixed. -/
def aesMixAll (c : List Nat) (b : List Nat) : List Nat := (chunks 4 4 b).flatMap (aesMix c)

/-- AES encryption of one block under round keys. -/
def aesEnc (ks : List (List Nat)) (b : List Nat) : List Nat :=
  match ks with
  | [] => b
  | k0 :: ks =>
    let b := (ks.dropLast).foldl
      (fun b k => xorBytes (aesMixAll [2, 3, 1, 1] (aesShift 5 (b.map aesSub))) k) (xorBytes b k0)
    xorBytes (aesShift 5 (b.map aesSub)) (ks.getLastD [])

/-- AES decryption of one block under round keys. -/
def aesDec (ks : List (List Nat)) (b : List Nat) : List Nat :=
  match ks.reverse with
  | [] => b
  | kl :: rs =>
    let b := (rs.dropLast).foldl
      (fun b k => aesMixAll [14, 11, 13, 9] (xorBytes ((aesShift 13 b).map aesUnsub) k)) (xorBytes b kl)
    xorBytes ((aesShift 13 b).map aesUnsub) (rs.getLastD [])

/-- The tweak of the next block: multiplied by x in GF(2^128), little-endian. -/
def xtsNext (t : Nat) : Nat := if t < 2 ^ 127 then 2 * t else (2 * t - 2 ^ 128) ^^^ 0x87

/-- The blocks of a data unit under a block function, each with its tweak. -/
def xtsRun (f : List Nat → List Nat) : Nat → Nat → List Nat → List Nat
  | 0, _, _ => []
  | n + 1, t, d =>
    let tb := (leBytes 16 t).map BitVec.toNat
    xorBytes (f (xorBytes (d.take 16) tb)) tb ++ xtsRun f n (xtsNext t) (d.drop 16)

/-- The halves of a 512-bit key slot: the data key in bytes 0 to 31, the tweak key in bytes 32 to 63. -/
def xtsHalves (key : BitVec 512) : List Nat × List Nat :=
  let b := (leBytes 64 key.toNat).map BitVec.toNat
  (b.take 32, b.drop 32)

/-- The first tweak of a data unit. -/
def xtsTweak (key : BitVec 512) (tweak : Word) : Nat :=
  ofLe ((aesEnc (aesKeys (xtsHalves key).2) ((leBytes 16 tweak.toNat).map BitVec.toNat)).map (BitVec.ofNat 8))

/-- Encryption of a data unit under a key slot and a tweak (R114). -/
def xtsEncrypt (key : BitVec 512) (tweak : Word) (d : List Byte) : List Byte :=
  (xtsRun (aesEnc (aesKeys (xtsHalves key).1)) (d.length / 16) (xtsTweak key tweak) (d.map BitVec.toNat)).map
    (BitVec.ofNat 8)

/-- Decryption of a data unit under a key slot and a tweak (R114). -/
def xtsDecrypt (key : BitVec 512) (tweak : Word) (d : List Byte) : List Byte :=
  (xtsRun (aesDec (aesKeys (xtsHalves key).1)) (d.length / 16) (xtsTweak key tweak) (d.map BitVec.toNat)).map
    (BitVec.ofNat 8)

end Sys2Proof.Machine
end

