-- ==== Sys2Proof/Machine/Codec.lean ====
section
/-! DEFINITION. The T1 block codec (R124 to R127): the line streams, the compressed image, its descriptor, and the
decoder with every failure it names. -/

namespace Sys2Proof.Machine

/-- An element format of Table 4.6: the elements of a line, their bits, their exponent bits. -/
structure Elem where
  n : Nat
  w : Nat
  e : Nat
deriving DecidableEq, Repr

/-- The format a TIER attribute names (Table 4.6). -/
def elemOf : Nat → Option Elem
  | 1 => some ⟨32, 16, 8⟩
  | 2 => some ⟨64, 8, 4⟩
  | 3 => some ⟨64, 8, 5⟩
  | 4 => some ⟨16, 32, 8⟩
  | _ => none

/-- Element j of a line. -/
def elemAt (f : Elem) (d : LineData) (j : Nat) : Nat := bits d.toNat (f.w * j) f.w

/-- The exponent field of an element. -/
def elemExp (f : Elem) (v : Nat) : Nat := bits v (f.w - f.e - 1) f.e

/-- The rest of an element: (sign << m) | mantissa (R125). -/
def elemRest (f : Elem) (v : Nat) : Nat :=
  let m := f.w - f.e - 1
  (bits v (f.w - 1) 1 <<< m) ||| bits v 0 m

/-- An element from its exponent field and its rest. -/
def elemMake (f : Elem) (ex rest : Nat) : Nat :=
  let m := f.w - f.e - 1
  (bits rest m 1 <<< (f.w - 1)) ||| (ex <<< m) ||| bits rest 0 m

/-- Values of `w` bits packed from bit 0 upward. -/
def packBits (w : Nat) : List Nat → Nat
  | [] => 0
  | v :: t => v + (packBits w t <<< w)

/-- The stream of one line (R125, R126). -/
def encodeLine (f : Elem) (d : LineData) : List Byte :=
  if d = 0 then [0] else
  let els := (List.range f.n).map (elemAt f d)
  let exps := els.map (elemExp f)
  let lo := exps.foldl min (2 ^ f.e - 1)
  let hi := exps.foldl max 0
  let b := bitLength 9 (hi - lo)
  let rl := ceilDiv (f.n * b) 8
  let tl := f.n * (f.w - f.e) / 8
  if 2 + rl + tl ≤ 64 then
    [BitVec.ofNat 8 (0x40 + b), BitVec.ofNat 8 lo] ++ leBytes rl (packBits b (exps.map (· - lo))) ++
      leBytes tl (packBits (f.w - f.e) (els.map (elemRest f)))
  else 0x80 :: lineBytes d

/-- The image of a block: metadata words, then the streams, padded to whole granules; none when it exceeds 6
granules (R124). -/
def encodeBlock (f : Elem) (words : List Word) (lines : List LineData) : Option (List Byte) :=
  let im := words.flatMap (fun w => leBytes 8 w.toNat) ++ lines.flatMap (encodeLine f)
  let k := ceilDiv im.length 32
  if k ≤ 6 then some (im ++ List.replicate (32 * k - im.length) 0) else none

/-- One line from its stream and the bytes left, or a decode failure (R127). -/
def decodeLine (f : Elem) (l : List Byte) : Option (LineData × List Byte) :=
  match l with
  | [] => none
  | m :: t =>
    let m := m.toNat
    let b := bits m 0 4
    if bits m 4 2 ≠ 0 then none else
    match bits m 6 2 with
    | 0 => if b = 0 then some (0, t) else none
    | 1 =>
      if b > f.e then none else
      let rl := ceilDiv (f.n * b) 8
      let tl := f.n * (f.w - f.e) / 8
      if t.length < 1 + rl + tl then none else
      let lo := leAt t 0 1
      let rs := leAt t 1 rl
      let ts := leAt t (1 + rl) tl
      let exps := (List.range f.n).map fun j => lo + bits rs (b * j) b
      if exps.any (fun x => decide (x ≥ 2 ^ f.e)) then none else
      let els := List.zipWith (elemMake f) exps ((List.range f.n).map fun j => bits ts ((f.w - f.e) * j) (f.w - f.e))
      some (BitVec.ofNat 512 (packBits f.w els), t.drop (1 + rl + tl))
    | 2 =>
      if b = 0 ∧ 64 ≤ t.length then some (lineOf t, t.drop 64) else none
    | _ => none

/-- The lines of a list of streams, and the bytes left. -/
def decodeLines (f : Elem) : Nat → List Byte → Option (List LineData × List Byte)
  | 0, l => some ([], l)
  | n + 1, l =>
    match decodeLine f l with
    | none => none
    | some (d, t) =>
      match decodeLines f n t with
      | none => none
      | some (ds, r) => some (d :: ds, r)

/-- The metadata words and the lines of an image of `k` granules, or a decode failure (R127). -/
def decodeBlock (f : Elem) (k : Nat) (im : List Byte) : Option (List Word × List LineData) :=
  if k < 2 ∨ 6 < k then none else
  let im := im.take (32 * k)
  match decodeLines f 4 (im.drop 32) with
  | none => none
  | some (ds, rest) =>
    let words : List Word := (List.range 4).map fun i => BitVec.ofNat 64 (leAt im (8 * i) 8)
    if rest.all (· == 0) && words.all (fun w => w.toNat % 4 = 0) then some (words, ds) else none

/-- The lanes of the even granules of a compressed block (Table 4.5). -/
def blockDescriptor (k : Nat) : BitVec 32 := BitVec.ofNat 32 (pack [(8, 3, k), (2, 2, 1)])

/-- The granules in a descriptor. -/
def descriptorK (l : BitVec 32) : Nat := bits l.toNat 8 3

/-- Whether the reserved bits of a descriptor are 0 (Table 4.5, R127). -/
def descriptorOk (l : BitVec 32) : Bool := l.toNat &&& 0x70C = l.toNat

/-- Whether the lanes of an even granule show a compressed block (R124). -/
def lanesCompressed (l : BitVec 32) : Bool := bits l.toNat 2 2 = 1

end Sys2Proof.Machine
end

