-- ==== Sys2Proof/Machine/Crc.lean ====
section
/-! DEFINITION. The cyclic checks: the line check CRC-32C of 05, with its seed and its affine terms, the CRC-32 of a
link flit (Table 12.1) and of the rigging image. -/

namespace Sys2Proof.Machine

/-- Steps a reflected CRC register `n` times; message bits not yet consumed stand above the register, XORed into it
(the word-at-a-time form of R142's example). -/
def crcRun (poly : Nat) : Nat → Nat → Nat
  | 0, r => r
  | n + 1, r => crcRun poly n (if r.testBit 0 then (r >>> 1) ^^^ poly else r >>> 1)

/-- The reflected polynomial of CRC-32C (Table 5.1). -/
def polyC : Nat := 0x82F63B78

/-- The reflected polynomial of CRC-32 (Table 12.1). -/
def poly32 : Nat := 0xEDB88320

/-- CRC-32C of a byte message (R139). -/
def crc32c (l : List Byte) : Nat :=
  crcRun polyC (8 * l.length) (ofLe l ^^^ 0xFFFFFFFF) ^^^ 0xFFFFFFFF

/-- CRC-32 of a byte message (Table 12.1). -/
def crc32 (l : List Byte) : Nat :=
  crcRun poly32 (8 * l.length) (ofLe l ^^^ 0xFFFFFFFF) ^^^ 0xFFFFFFFF

/-- The address seed: the register after the eight address bytes, before any final XOR (R141). -/
def addrSeed (a : Word) : Nat := crcRun polyC 64 (a.toNat ^^^ 0xFFFFFFFF)

/-- The check finished from a seed over the 64 plaintext bytes (R141). -/
def finishCheck (seed : Nat) (d : LineData) : BitVec 32 :=
  BitVec.ofNat 32 (crcRun polyC 512 (seed ^^^ d.toNat) ^^^ 0xFFFFFFFF)

/-- The line check: CRC-32C over the check address and the 64 plaintext bytes (R139). -/
def lineCheck (a : Word) (d : LineData) : BitVec 32 := finishCheck (addrSeed a) d

/-- Z of R167: the check of an address followed by 64 zero bytes. -/
def zeroCheck (a : Word) : BitVec 32 := lineCheck a 0

/-- The conversion of a carried check between two addresses by address terms only (R167). -/
def convertCheck (c : BitVec 32) (from_ dest : Word) : BitVec 32 := c ^^^ zeroCheck from_ ^^^ zeroCheck dest

/-- The second computation of a merge's new check (R117): the verified stored check, the verified carried check, and
the checks over the replaced old bytes and over zeros. -/
def mergedCheck (a : Word) (stored carried : BitVec 32) (old : LineData) (mask : Word) : BitVec 32 :=
  stored ^^^ carried ^^^ lineCheck a (old &&& maskBits mask)

end Sys2Proof.Machine
end

