-- ==== Sys2Proof/Machine/LinkCode.lean ====
section
/-! DEFINITION. The coding of a link (R370 to R373): the scrambler, the Gray levels, the spread of a flit's bytes over
the lanes, the two Reed-Solomon codewords and the flit itself. -/

namespace Sys2Proof.Machine

/-- The scrambler of lane l at entry into ACTIVE: a register of 31 bits (R370). -/
def lfsrSeed (lane : Nat) : Nat := (0x5A5A5A5A ^^^ lane) % 2 ^ 31

/-- One step of x^31 + x^28 + 1: the bit of the sequence and the next register. -/
def lfsrStep (r : Nat) : Nat × Nat :=
  let b := bits r 30 1 ^^^ bits r 27 1
  (b, ((r <<< 1) ||| b) % 2 ^ 31)

/-- `n` bits of the sequence, the earliest least significant, and the register after them. -/
def lfsrBits : Nat → Nat → Nat × Nat
  | 0, r => (0, r)
  | n + 1, r =>
    let (b, r) := lfsrStep r
    let (v, r) := lfsrBits n r
    (b + 2 * v, r)

/-- Bytes of a lane scrambled, which is also how they are descrambled, and the register after them. -/
def scramble (r : Nat) (l : List Byte) : List Byte × Nat :=
  let (v, r') := lfsrBits (8 * l.length) r
  (leBytes l.length (ofLe l ^^^ v), r')

/-- The PAM4 level of a pair of bits, the earlier bit the less significant (R370). -/
def grayLevel (pair : Nat) : Int :=
  match pair % 4 with
  | 0 => -3
  | 1 => -1
  | 3 => 1
  | _ => 3

/-- The four levels of a byte, in the order they are sent. -/
def byteLevels (b : Byte) : List Int := (List.range 4).map fun i => grayLevel (bits b.toNat (2 * i) 2)

/-- The active lane that byte i of a flit travels on, of w (R373). -/
def laneOf (w i : Nat) : Nat := (i + i / w) % w

/-- The bytes each of w lanes carries for one flit. -/
def stripe (w : Nat) (flit : List Byte) : List (List Byte) :=
  (List.range w).map fun l => (flit.zipIdx.filter fun (_, i) => laneOf w i = l).map Prod.fst

/-- The flit whose bytes the lanes carry: each byte is the next one of its lane. -/
def unstripe (w : Nat) (lanes : List (List Byte)) : List Byte :=
  (List.range 272).map fun i =>
    let l := lanes.getD (laneOf w i) []
    l.getD (i / w) 0

/-- Multiplication by α in GF(2^8) under x^8 + x^4 + x^3 + x^2 + 1 (R372). -/
def gfX (a : Nat) : Nat := if a < 128 then 2 * a else (2 * a) ^^^ 0x11D

/-- Multiplication over the `n` low bits of the second factor. -/
def gfMul : Nat → Nat → Nat → Nat
  | 0, _, _ => 0
  | n + 1, a, b => (if b.testBit 0 then a else 0) ^^^ gfMul n (gfX a) (b / 2)

/-- α to the n-th. -/
def gfExp : Nat → Nat
  | 0 => 1
  | n + 1 => gfX (gfExp n)

/-- The generator (x − α^0)(x − α^1)(x − α^2)(x − α^3) without its leading 1, highest coefficient first. -/
def rsGen : List Nat :=
  let mul (p : List Nat) (r : Nat) : List Nat :=
    List.zipWith (· ^^^ ·) (p ++ [0]) (0 :: p.map (gfMul 8 r))
  (((mul (mul (mul (mul [1] 1) 2) 4) 8)).drop 1)

/-- The remainder register after one message byte. -/
def rsStep (r : List Nat) (b : Nat) : List Nat :=
  let f := b ^^^ r.headD 0
  List.zipWith (· ^^^ ·) (r.drop 1 ++ [0]) (rsGen.map (gfMul 8 f))

/-- The four parity bytes of a message, highest coefficient first (R372). -/
def rsParity (m : List Byte) : List Byte :=
  (m.foldl (fun r b => rsStep r b.toNat) [0, 0, 0, 0]).map (BitVec.ofNat 8)

/-- The value of a word at a point, highest coefficient first. -/
def gfEval (x : Nat) (c : List Nat) : Nat := c.foldl (fun a b => gfMul 8 a x ^^^ b) 0

/-- The four syndromes of a codeword. -/
def rsSyndromes (c : List Byte) : List Nat :=
  (List.range 4).map fun j => gfEval (gfExp j) (c.map BitVec.toNat)

/-- The inverse in GF(2^8): the 254th power. -/
def gfInv (a : Nat) : Nat :=
  let a2 := gfMul 8 a a
  let a3 := gfMul 8 a2 a
  let a6 := gfMul 8 a3 a3
  let a12 := gfMul 8 a6 a6
  let a15 := gfMul 8 a12 a3
  let a30 := gfMul 8 a15 a15
  let a60 := gfMul 8 a30 a30
  let a120 := gfMul 8 a60 a60
  let a127 := gfMul 8 (gfMul 8 a120 a6) a
  gfMul 8 a127 a127

/-- Adds a value to the byte whose coefficient has a degree. -/
def rsFix (c : List Byte) (deg v : Nat) : List Byte :=
  c.set (135 - deg) (BitVec.ofNat 8 ((c.getD (135 - deg) 0).toNat ^^^ v))

/-- A codeword corrected in at most two bytes, with the number corrected, or none (R372). -/
def rsDecode (c : List Byte) : Option (List Byte × Nat) :=
  match rsSyndromes c with
  | [s0, s1, s2, s3] =>
    if s0 = 0 ∧ s1 = 0 ∧ s2 = 0 ∧ s3 = 0 then some (c, 0) else
    let det := gfMul 8 s1 s1 ^^^ gfMul 8 s0 s2
    if det = 0 then
      -- one error: its place is s1 / s0
      if s0 = 0 then none else
      let x := gfMul 8 s1 (gfInv s0)
      if gfMul 8 s1 x = s2 ∧ gfMul 8 s2 x = s3 then
        match (List.range 136).find? (fun i => gfExp i = x) with
        | some d => some (rsFix c d s0, 1)
        | none => none
      else none
    else
      -- two errors: the locator's coefficients solve the two linear equations of the syndromes
      let di := gfInv det
      let l1 := gfMul 8 (gfMul 8 s1 s2 ^^^ gfMul 8 s0 s3) di
      let l2 := gfMul 8 (gfMul 8 s2 s2 ^^^ gfMul 8 s1 s3) di
      let roots := (List.range 136).filter fun i =>
        let x := gfExp i
        gfMul 8 x x ^^^ gfMul 8 l1 x ^^^ l2 = 0
      match roots with
      | [d1, d2] =>
        let x1 := gfExp d1
        let x2 := gfExp d2
        let v2 := gfMul 8 (gfMul 8 s0 x1 ^^^ s1) (gfInv (x1 ^^^ x2))
        let v1 := s0 ^^^ v2
        some (rsFix (rsFix c d1 v1) d2 v2, 2)
      | _ => none
  | _ => none

/-- The bytes of a list at even places, or at odd ones. -/
def everyOther (odd : Bool) (l : List Byte) : List Byte :=
  (l.zipIdx.filter fun (_, i) => decide (i % 2 = bit odd)).map Prod.fst

/-- Two lists of bytes interleaved, the first at even places. -/
def interleave : List Byte → List Byte → List Byte
  | a :: t, b :: u => a :: b :: interleave t u
  | _, _ => []

/-- A flit from its LINK_CTRL and its payload: CRC and parity added (Table 12.1). -/
def makeFlit (ctrl : Nat) (payload : List Byte) : List Byte :=
  let m := leBytes 4 ctrl ++ payload
  let m := m ++ leBytes 4 (crc32 m)
  m ++ interleave (rsParity (everyOther false m)) (rsParity (everyOther true m))

/-- LINK_CTRL from its fields (Table 12.2). -/
def linkCtrl (seq ack : Nat) (nak : Bool) (ftype : Nat) : Nat :=
  pack [(20, 12, seq), (8, 12, ack), (7, 1, bit nak), (0, 4, ftype)]

/-- A flit received: the corrected bytes and the codewords with a correction, or none when a codeword does not decode
or the CRC differs (R372). The corrected count comes back in both cases. -/
def readFlit (f : List Byte) : Option (List Byte) × Nat :=
  match rsDecode (everyOther false f), rsDecode (everyOther true f) with
  | some (a, x), some (b, y) =>
    let g := interleave a b
    let n := bit (decide (0 < x)) + bit (decide (0 < y))
    if crc32 (g.take 260) = leAt g 260 4 then (some g, n) else (none, n)
  | some (_, x), none => (none, bit (decide (0 < x)))
  | none, some (_, y) => (none, bit (decide (0 < y)))
  | none, none => (none, 0)

end Sys2Proof.Machine
end

