-- ==== Sys2Proof/Config.lean ====
section
/-! DEFINITION. What the manual leaves to the part or to another standard: uninterpreted constants. Nothing is
known of their values, so a statement about one holds whatever it is (log 5, log 6). -/

namespace Sys2Proof

/-- The n-th free value the manual leaves undefined (log 5). -/
opaque Config.freeWord : Nat → Word

/-- Whether the Ed25519 signature (RFC 8032) of a message under a key verifies: key, message, signature (R14, R38; log 6). -/
opaque Config.ed25519Verify : List Byte → List Byte → List Byte → Bool

/-- Whether the ML-DSA-65 signature (FIPS 204, empty context) of a message under a key verifies (R14, R38; log 6). -/
opaque Config.mldsaVerify : List Byte → List Byte → List Byte → Bool

/-- The Ed25519 signature of a message under a key pair made from a seed (R499; log 6). -/
opaque Config.ed25519Sign : List Byte → List Byte → List Byte

/-- The ML-DSA-65 signature of a message under a key pair made from a seed (R499; log 6). -/
opaque Config.mldsaSign : List Byte → List Byte → List Byte

/-- HKDF-SHA-384 of a secret under a label, as R496 uses it (log 6). -/
opaque Config.hkdf : List Byte → String → List Byte

/-- HMAC-SHA-384 of a message under a secret, as R496 uses it (log 6). -/
opaque Config.hmacSha384 : List Byte → List Byte → List Byte

/-- The unique device secret in the fuses (R488). -/
opaque Config.udsFuse : List Byte

/-- The SHA-384 of the Ed25519 root public key, in the fuses (R488). -/
opaque Config.rootEdDigestFuse : List Byte

/-- The SHA-384 of the ML-DSA-65 root public key, in the fuses (R488). -/
opaque Config.rootMldsaDigestFuse : List Byte

/-- MIN_SVN as fused at manufacture (R488, Table 16.10). -/
opaque Config.minSvnFuse : Nat

/-- Measurement 1: the digest of the boot ROM (Table 16.4). -/
opaque Config.romDigest : List Byte

/-- The certificate of a chain as the device's identity region and its ROM make it: chain number, Alias seed (R497). -/
opaque Config.certificateChain : Nat → List Byte → List Byte

end Sys2Proof
end

