-- ==== Sys2Proof/Machine/State.lean ====
section
/-! DEFINITION. The state of the device: every register, queue, buffer, counter, mode and pin the manual gives it, as
plain data, and the queue of waiting commands. The fields' rules are listed in INVENTORY.md under '## State'. -/

namespace Sys2Proof.Machine

/-- Reasons the device stops. The manual lets no command stop the device, so there is one, and no meaning raises it. -/
inductive Fault where
  /-- Raised by no meaning: kept because the type must not be empty. Safe. -/
  | none
deriving DecidableEq, Repr

/-- Reasons a command has no meaning. -/
inductive Refusal where
  /-- Raised by exec for a command not modelled yet. Safe. -/
  | notModelled (mnemonic : String)
deriving DecidableEq, Repr

/-! ### Rigging records (Table 2.4) -/

/-- PARTITION record. -/
structure PartRec where
  enable : Bool
  mgmtPriv : Bool
  encrypt : Bool
  jobKey : Nat
  pageServer : Nat
  keySlot : Nat
  meterBank : Nat
  ceilUcie : Nat
  ceilFabin : Nat
  ceilHome : Nat
  ceilCar : Nat
deriving DecidableEq, Repr, Inhabited

/-- BOOTH_MAP record. -/
structure BoothRec where
  part : Nat
  listBatch : Bool
deriving DecidableEq, Repr, Inhabited

/-- QP_MAP record. -/
structure QpRec where
  first : Nat
  count : Nat
  part : Nat
  booth : Nat
  remote : Bool
  owner : Nat
deriving DecidableEq, Repr, Inhabited

/-- ARRIVAL_MAP record. -/
structure CtrRec where
  first : Nat
  count : Nat
  part : Nat
deriving DecidableEq, Repr, Inhabited

/-- WINDOW record: its partition and its entry (Table 3.3). -/
structure WinRec where
  part : Nat
  entry : BitVec 128
deriving DecidableEq, Repr, Inhabited

/-- MIRROR record. -/
structure MirRec where
  part : Nat
  partnerNode : Nat
  partnerGroup : Nat
  localDomain : Nat
  partnerDomain : Nat
deriving DecidableEq, Repr, Inhabited

/-- RING record. -/
structure RingRec where
  ringId : Nat
  count : Nat
  this : Nat
  nodes : List Nat
deriving DecidableEq, Repr, Inhabited

/-- PORT record. -/
structure PortRec where
  width : Nat
  enable : Bool
  share : List Nat
deriving DecidableEq, Repr, Inhabited

/-- SITE record. -/
structure SiteRec where
  enable : Bool
  passCheck : Bool
  modules : Nat
  maxRate : Nat
  powerLimit : Nat
  part : Nat
deriving DecidableEq, Repr, Inhabited

/-- XLAT_PINNED record. -/
structure PinRec where
  virtBase : Nat
  globalBase : Nat
  part : Nat
  size : Nat
  perm : Nat
deriving DecidableEq, Repr, Inhabited

/-- POWER record: FLAGS bit 0 (CURTAIN or DARK allowed), WAKE_N_WAKES, IDLE_CYCLES. -/
structure PowRec where
  sleep : Bool
  wakeN : Bool
  idle : Nat
deriving DecidableEq, Repr, Inhabited

/-- CLOCK_GATE record. -/
structure GateRec where
  gate : Bool
  idle : Nat
deriving DecidableEq, Repr, Inhabited

/-- METER record. -/
structure MeterRec where
  part : Nat
  events : Nat
  window : Nat
deriving DecidableEq, Repr, Inhabited

/-- One version of the device's structure: the records of every section, by key (Table 2.2). The device POWER record
is listed under 255. -/
structure Maps where
  parts : Tab PartRec := []
  booths : Tab BoothRec := []
  groups : Tab Nat := []
  qps : List QpRec := []
  ctrs : List CtrRec := []
  wins : Tab WinRec := []
  mirs : Tab MirRec := []
  ring : Option RingRec := none
  ports : Tab PortRec := []
  sites : Tab SiteRec := []
  pins : List PinRec := []
  pows : Tab PowRec := []
  gates : Tab GateRec := []
  meters : Tab MeterRec := []
  opts : Tab Nat := []
deriving DecidableEq, Repr, Inhabited

/-- A draining epoch: its number, its maps, the cycle S of the switch (R62). -/
structure Drain where
  epoch : Nat
  maps : Maps
  switchAt : Nat
deriving DecidableEq, Repr, Inhabited

/-- A segment whose maps stand in the inactive banks (steps 1 to 4 of Table 2.8). -/
structure Loaded where
  maps : Maps
  part : Nat
  digest : List Byte
  enable : Bool
  from_ : Option Transport
deriving DecidableEq, Repr, Inhabited

/-- The rigging of the device (02). `view` is the epoch of the request that is being executed, none between requests (R54). -/
structure Rig where
  lastResult : Nat := 0xFF
  failSection : Nat := 0xFFFF
  rigged : Bool := false
  epoch : Nat := 0
  draining : Option Drain := none
  cur : Maps := {}
  loaded : Option Loaded := none
  imageId : Word := 0
  locks : Nat := 0
  fullDigest : List Byte := List.replicate 48 0
  chainDigest : List Byte := List.replicate 48 0
  clearing : List Nat := []
  view : Option Nat := none
deriving DecidableEq, Repr, Inhabited

/-- The first failed comparison of a carried check: the address under which the line is logged, the check carried and the check computed (R145,
R152). -/
structure PathCheck where
  addr : Word
  carried : BitVec 32
  found : BitVec 32
deriving DecidableEq, Repr, Inhabited

/-! ### Requests -/

/-- Who issued an access (R205). -/
inductive Origin where
  | site (s : Nat)
  | link (l : Nat)
  | booth (qp : Nat) (count : Nat) (step : Nat)
  | roustabout
  | barker (part : Nat)
deriving DecidableEq, Repr, Inhabited

/-- Where and why a request waits: in a Carousel for a held line (R111); in its home slice for a Carousel's Ticket; in the Midway for a
home slice's; at its producer for the Midway's (R20), or behind an earlier request of its source (R206); at its producer after RETRY (R23,
R195); for a sleeping partition (R465). -/
inductive Wait where
  | line
  | slice
  | midway
  | producer
  | again
  | curtain (p : Nat)
deriving DecidableEq, Repr, Inhabited

/-- A request on its way: its origin, its packet, the partition it acts for, its epoch and its event time (R32); whether
a retry or a repair settled a read it needs, the lines it took from elsewhere than the store, each with the status of that read, and
the old value of an atomic whose write is under way; the writes that joined its merge entry, and whether it is itself such a
write (R120); whether it is sent again after RETRY, and the time of its first issue when that lies before its event time (R23); its place in
the order in which requests came to be served, and in the order in which Carousels accepted them, 0 until it has one (R111, R206); the
place whose Ticket it holds, none at its producer, and whether that is a reserved one (R20, R23); whether the Carousel of a direct path sent it on
to its home slice (R188); the life of its site that it belongs to (R423). -/
structure Req where
  origin : Origin
  pkt : Packet
  part : Nat
  epoch : Nat
  time : Nat
  retried : Bool := false
  got : List (Nat × Status × LineData) := []
  old : BitVec 128 := 0
  joins : List (LineData × Word) := []
  joined : Bool := false
  again : Bool := false
  first : Option Nat := none
  order : Nat := 0
  taken : Nat := 0
  life : Nat := 0
  place : Wait := .producer
  kept : Bool := false
  sent : Bool := false
deriving DecidableEq, Repr, Inhabited

/-- What a request ends with: its status, the lines of a read, the old value of an atomic or the value of a register. -/
structure Answer where
  status : Status
  data : List LineData := []
  old : BitVec 128 := 0
deriving DecidableEq, Repr, Inhabited

/-- What a read of one line comes to: its end, a read of the partner copy in place of an unusable channel (R105), or the
settling of a lasting mismatch first (R147). -/
inductive ReadOne where
  | done (status : Status) (data : LineData)
  | partner
  | repair
deriving DecidableEq, Repr, Inhabited

/-- A waiting request. -/
structure Parked where
  req : Req
  why : Wait
deriving DecidableEq, Repr, Inhabited

/-! ### Store and Carousels (04) -/

/-- One line of the store with its metadata word (Table 4.2). The data is the plaintext, which CHECK covers (R144); `flip`
is CHECK xor the check of the line's check address and data, so 0 in every line whose CHECK is right; `key` is the
key its stored form is encrypted under; `at_` is its check address where that is not its own global address: that of a mirrored line at
the home where it was first mirrored (R140); `fmt` is the TIER attribute in force when the first line of a compressed block was encoded,
which names the block's element format (R122, log 49). -/
structure Line where
  data : LineData := 0
  flip : BitVec 32 := 0
  seq : BitVec 12 := 0
  dir : BitVec 12 := 0
  poison : Bool := false
  reason : Nat := 0
  tier : Nat := 0
  key : Option (BitVec 512) := none
  fmt : Nat := 0
  at_ : Option Word := none
deriving DecidableEq, Repr, Inhabited

/-- MEM_PAGE_ATTR (Table 4.13). -/
structure PageAttr where
  encrypt : Bool := false
  mirror : Bool := false
  publishable : Bool := false
  hint : Nat := 0
  tier : Nat := 0
deriving DecidableEq, Repr, Inhabited

/-- The registers of one MEM instance (R133 to R136). -/
structure MemStack where
  sref : Nat := 0
  trained : Bool := false
  up : BitVec 32 := 0
  compressed : Nat := 0
  plain : Nat := 0
  merges : Nat := 0
  coalesced : Nat := 0
  mergeRetries : Nat := 0
  mergeFaults : Nat := 0
  reassigned : Nat := 0
deriving DecidableEq, Repr, Inhabited

/-- Who holds a line (Table 4.4, R148, R158, R178): a read from the stack, its retry, a repair, a mirror write, a raw read, a command that
compares or sweeps it. -/
inductive Hold where
  | stackRead
  | retry
  | repair
  | mirror
  | inspect
  | cmd (q n : Nat)
deriving DecidableEq, Repr, Inhabited

/-- A read issued to the stack, with the request it serves and, after a mismatch, the checks found first of the lines that were read (R147, R152). -/
structure StackRead where
  line : Nat
  req : Option Req
  found : Option (List (Nat × BitVec 32))
deriving DecidableEq, Repr, Inhabited

/-- A move record of a Carousel (R356, R357): first page, pages, the new attributes and the old ones of each page, the pointer P as a
line of the store, the command that moves the pages, none for pages left split (R360), the form that the move gives to a line that
nothing has written (log 2), and whether the pair has broken meanwhile (R359). -/
structure MoveRec where
  page : Nat
  pages : Nat
  attr : PageAttr
  old : List PageAttr
  ptr : Nat
  runner : Option (Nat × Nat)
  form : Line
  broke : Bool
deriving DecidableEq, Repr, Inhabited

/-- The store and its Carousels. `lines` lists the lines that differ from what their page gives an unlisted one: the form in which the last
TIER_MOVE of the page left the lines that nothing had written, under the page in `blank`. `stamp` is the last place given in the orders of
service and of acceptance (R111, R206). -/
structure Mem where
  lines : Tab Line := []
  blank : Tab Line := []
  attrs : Tab PageAttr := []
  channels : Tab MemStack := []
  holds : Tab Hold := []
  reads : List StackRead := []
  parked : List Parked := []
  moves : List MoveRec := []
  stamp : Nat := 0
deriving DecidableEq, Repr, Inhabited

/-- The lines of a page of 512 MiB. -/
def pageLines : Nat := 2 ^ 23

/-- What an unlisted line reads as: zeros with a right CHECK, SEQ 0 and state I, in the form of its page, or, below the pointer of a
move, in the one that the move gives (R357, log 2). -/
def Memory.blank (m : Mem) (l : Nat) : Line :=
  match m.moves.find? fun r => r.page ≤ l / pageLines && l / pageLines < r.page + r.pages && l < r.ptr with
  | some r => r.form
  | none => Tab.get {} m.blank (l / pageLines)

/-- The canonical form of the store: line numbers rise, and no line is listed that reads as an unlisted one does (log 2). -/
def Memory.wf (m : Mem) : Bool := Tab.wf m.lines && Tab.lean (Memory.blank m) m.lines

/-! ### Integrity and mirroring (05) -/

/-- A retry-log entry (Table 5.4). -/
structure LogEntry where
  stored : BitVec 32
  found : BitVec 32
  valid : Bool
  part : Nat
  location : Nat
  channel : Nat
  outcome : Nat
  seq : Nat
  addr : Word
  time : Nat
deriving DecidableEq, Repr, Inhabited

/-- The pair states of Table 5.7. -/
inductive Pair where
  | none | inStep | broken | resyncing | promoted
deriving DecidableEq, Repr, Inhabited

/-- INTEG_MIRROR_STATE of a group (Table 5.21), with the other side of the pair, its node and its group, and the command whose
resync holds the group (R161). -/
structure Mirror where
  state : Pair := .none
  partner : Bool := false
  highWater : Nat := 0
  node : Nat := 0
  group : Nat := 0
  resync : Option (Nat × Nat) := none
deriving DecidableEq, Repr, Inhabited

/-- What a mirror packet of the home is for. -/
inductive MirrorKind where
  | write | metadata | repair | compare | sweep | open | reopen | inspect
deriving DecidableEq, Repr, Inhabited

/-- A mirror packet of the home that awaits its answer (R157, R159), with the requests it completes and the access of a command
it is; `sent` is false while it waits for an earlier packet of its line (R158) or for a mirror Ticket of its link (R386); `again` is the first failed
comparison of its answer's check (R392), `found` the check found first of the line that it repairs (R152). -/
structure MirrorOp where
  tag : Nat
  link : Nat
  group : Nat
  kind : MirrorKind
  lines : List Nat
  sentAt : Nat
  reqs : List Req
  status : Status
  cmd : Option (Nat × Nat × Nat)
  pkt : Packet
  again : Option PathCheck
  found : BitVec 32
  sent : Bool
deriving DecidableEq, Repr, Inhabited

/-- The INTEG block. -/
structure Integ where
  log : Tab LogEntry := []
  next : Nat := 0
  overwritten : Nat := 0
  transient : Nat := 0
  lasting : Nat := 0
  repaired : Nat := 0
  poisoned : Nat := 0
  pathRetried : Nat := 0
  pathFailed : Nat := 0
  inspBusy : Bool := false
  inspResult : Nat := 0
  inspLine : Nat := 0
  inspPartner : Bool := false
  inspMeta : Word := 0
  inspData : LineData := 0
  mirrors : Tab Mirror := []
  ops : List MirrorOp := []
deriving DecidableEq, Repr, Inhabited

/-! ### Coherence (06) -/

/-- The requests of Table 6.3 that open a transaction. -/
inductive Coh where
  | shared | own | upgrade | ncRead | ncWrite
deriving DecidableEq, Repr, Inhabited

/-- A directory state with an exact sharer vector or a device mask (R184). -/
inductive Dir where
  | i
  | s (sharers : Nat)
  | o (owner : Nat)
deriving DecidableEq, Repr, Inhabited

/-- A directory-cache entry (06 "Directory states"); `masked` holds the devices whose sharers are known by device mask only (R185, R197). -/
structure DirEnt where
  line : Nat
  dir : Dir
  masked : Nat
  pinned : Bool
  used : Nat
deriving DecidableEq, Repr, Inhabited

/-- A probe that awaits its answer: the agents it stands for, the member that answers for them, when it left, and whether the
member has answered for some of them (R198). -/
structure Probe where
  agents : List Nat
  member : Nat
  sentAt : Nat
  answered : Bool
deriving DecidableEq, Repr, Inhabited

/-- A requester that met RETRY (R195): an agent, or another requester by its origin, its node and its tag. -/
inductive Waiter where
  | agent (a : Nat)
  | other (o : Origin) (node tag : Nat)
deriving DecidableEq, Repr, Inhabited

/-- An open transaction (R187, R193): `data` is the line as an owner or a sharer sent it to the home; `grant` is what the home granted, kept until
COMPLETE (R145); `sent` says that a probed agent sends the data to the requester itself (R192), `dead` that the line's owner is lost, or its data failed twice on the
way, so that the request ends with POISONED (R146, R199); `served` says that every probe is
answered, `completed` that the requester's COMPLETE has come, or that a non-coherent request has been applied or has been sent its
data. -/
structure Txn where
  slice : Nat
  idx : Nat
  line : Nat
  coh : Coh
  agent : Option Nat
  req : Req
  probes : List Probe
  granted : Option Nat
  after : Dir
  owner : Option Nat
  data : Option LineData
  grant : Option Packet
  sent : Bool
  dead : Bool
  gone : Bool
  served : Bool
  completed : Bool
  waiters : List Waiter
deriving DecidableEq, Repr, Inhabited

/-- A reservation of a line for its first waiter (R195). -/
structure Reserve where
  line : Nat
  waiter : Waiter
  until_ : Nat
  rest : List Waiter
deriving DecidableEq, Repr, Inhabited

/-- A request that was answered with RETRY and that its requester is to send again: who sent it, a site's tag, its type and line, and the time
of its first issue (R23). -/
structure Resend where
  who : Waiter
  tag : Option Nat
  ptype : Nat
  line : Nat
  first : Nat
deriving DecidableEq, Repr, Inhabited

/-- A hot-line entry (R202): the merged data and mask not flushed, the requests whose acknowledgement waits (R203), and whether a read of its line
was settled since the last flush (R149), and the epoch of the last store (R54). -/
structure Hot where
  line : Nat
  data : LineData
  mask : Word
  firstAt : Option Nat
  lastAt : Nat
  owed : List Req
  retried : Bool
  epoch : Nat
deriving DecidableEq, Repr, Inhabited

/-- A probe of another home that this member serves (R190): the sites that owe an answer, the agents that gave one, and whether a site
that owed one was lost (R198). -/
structure Served where
  home : Nat
  link : Nat
  pkt : Packet
  sites : List Nat
  answered : List Nat
  gone : Bool
  short : Bool
deriving DecidableEq, Repr, Inhabited

/-- A scan and sweep for a lost agent (R200). -/
structure Sweep where
  agent : Nat
  since : Nat
deriving DecidableEq, Repr, Inhabited

/-- The home agent. `passed` are the data messages that this device passed on to another node, kept for a resend (R145). -/
structure Home where
  sharerSource : Bool := false
  live : Nat := 0
  lost : Nat := 0
  sweeps : List Sweep := []
  retries : Nat := 0
  timeouts : Nat := 0
  ownerLost : Nat := 0
  cache : List DirEnt := []
  txns : List Txn := []
  reserves : List Reserve := []
  hot : List Hot := []
  fences : List Nat := []
  served : List Served := []
  resends : List Resend := []
  passed : List Packet := []
deriving DecidableEq, Repr, Inhabited

/-! ### Order (07) -/

/-- A replay-table entry (R229); `t0` is none while it is pending. -/
structure Replay where
  slice : Nat
  node : Nat
  tag : Nat
  op : Nat
  size : Nat
  offset : Nat
  operands : BitVec 32
  result : BitVec 128
  status : Status
  t0 : Option Nat
  waiting : List Req
deriving DecidableEq, Repr, Inhabited

/-- A pending wait on an arrival counter (R219). -/
structure CtrWait where
  qp : Option (Nat × Nat)
  site : Nat
  tag : Nat
  counter : Nat
  target : Word
  consume : Bool
  time : Nat
  limit : Nat
deriving DecidableEq, Repr, Inhabited

/-- A step of a running order that waits to fall due: its command, its counter, its threshold of this pass, since when, and whether it
has fallen due, or has passed its limit first (R351, R354). -/
structure Due where
  qp : Nat
  count : Nat
  counter : Nat
  threshold : Word
  since : Nat
  limit : Nat
  met : Bool
  expired : Bool
deriving DecidableEq, Repr, Inhabited

/-- A line in a read buffer (R212). -/
structure BufLine where
  addr : Nat
  data : LineData
  used : Nat
deriving DecidableEq, Repr, Inhabited

/-- The ORDER block and the read buffers. -/
structure Order where
  ctrs : Tab Word := []
  boothBuf : Bool := true
  siteBuf : BitVec 4 := 0xF
  replay : List Replay := []
  replayed : Nat := 0
  unknown : Nat := 0
  fullRetries : Nat := 0
  waits : List CtrWait := []
  due : List Due := []
  boothBufs : Tab (List BufLine) := []
  siteBufs : Tab (List BufLine) := []
  stamp : Nat := 0
deriving DecidableEq, Repr, Inhabited

/-! ### Translation (03) -/

/-- A translation-buffer entry (R92): epoch, window, page entry fields with the AND of the permissions. -/
structure TlbEnt where
  epoch : Nat
  window : Nat
  virt : Nat
  global : Nat
  size : Nat
  read : Bool
  write : Bool
  atomic : Bool
  used : Nat
deriving DecidableEq, Repr, Inhabited

/-- An outstanding miss (R95): its slot, its address, the commands that wait with the address of each, whether it is marked for
reissue, and the site that was asked (R100). -/
structure Miss where
  booth : Nat
  slot : Nat
  epoch : Nat
  part : Nat
  va : Nat
  access : Nat
  qp : Nat
  waiters : List (Nat × Nat × Nat)
  reissue : Bool
  site : Nat
  sentAt : Nat
deriving DecidableEq, Repr, Inhabited

/-- An invalidate not yet acknowledged (R98): the site, the accesses of commands through the removed entries. -/
structure Inval where
  site : Nat
  id : Nat
  part : Nat
  waits : List (Nat × Nat × Nat)
deriving DecidableEq, Repr, Inhabited

/-- Translation state of the Booths and their page servers. -/
structure Xlat where
  tlb : Tab (List TlbEnt) := []
  misses : List Miss := []
  invals : List Inval := []
  stamp : Nat := 0
deriving DecidableEq, Repr, Inhabited

/-! ### Queue pairs (08) and Booths (09 to 11) -/

/-- The states of Table 8.6. -/
inductive QpSt where
  | reset | running | stopping | stopped | error
deriving DecidableEq, Repr, Inhabited

/-- A completion entry (Table 8.2) but for its PHASE and its SQ_HEAD, which are taken when it is written, with the epoch of its
command and the time of its events (R32, R55). -/
structure Compl where
  count : Nat
  result : BitVec 128
  tag : BitVec 32
  sqIndex : Nat
  detail : BitVec 32
  opcode : Nat
  status : Status
  effect : Bool
  epoch : Nat
  time : Nat
deriving DecidableEq, Repr, Inhabited

/-- One queue pair (R241, R265), and the Tickets of its Booth's command queue that its commands hold (Table 1.3, R25). -/
structure Qp where
  sqBase : Nat := 0
  sqLog : Nat := 0
  cqBase : Nat := 0
  cqLog : Nat := 0
  cqCntEn : Bool := false
  cqCnt : Nat := 0
  cqPair : Bool := true
  maxInflight : Nat := 0x20
  sqTail : BitVec 32 := 0
  sqHead : BitVec 32 := 0
  cqTail : BitVec 32 := 0
  cqHead : BitVec 32 := 0
  notified : Nat := 0
  spent : Nat := 0
  held : Option Compl := none
  heldAt : Nat := 0
  writes : List (List Compl) := []
  ctl : Nat := 0xFF
  ringer : Nat := 0xFF
  st : QpSt := .reset
  latch : Bool := false
  faultIdx : Nat := 0
  faultStatus : Nat := 0
  faultOpcode : Nat := 0
  cause : Nat := 0
  aborted : Nat := 0
  cqLost : Bool := false
  cqBusy : Bool := false
  cqEnd : Option Status := none
deriving DecidableEq, Repr, Inhabited

/-- An access of a command that is issued and not ended: its number, whether its line is another node's, whether it is a plain write, its
global address and the virtual one it came through, whether its line enters the Booth's read buffer, and the list of a list batch it is
read of, for all members (R331). -/
structure Access where
  id : Nat
  remote : Bool
  write : Bool
  addr : Nat
  va : Nat
  fill : Bool
  share : Option Nat
  dst : Option Nat
deriving DecidableEq, Repr, Inhabited

/-- What an access of a command returned, by the number of the access: a line or an old value, and its status. -/
structure Fetched where
  id : Nat
  data : LineData
  status : Status
deriving DecidableEq, Repr, Inhabited

/-- What a command will say in its completion. -/
structure Done where
  status : Status
  result : BitVec 128
  detail : BitVec 32
deriving DecidableEq, Repr, Inhabited

/-- A command in flight: notified (`entry` none), fetched, begun, running, finished but for its outstanding accesses. `fetched` holds
what its accesses returned and what it observed of the device, in the order in which it took its numbers; `beganAs` counts the
beginnings; `context` is the number of the query context it holds (R269); `stream` is the part of the stream area it holds, in bytes,
`granted` says that it has been given what it needs of it, and `ready` that a block pair of it waits for the array (R270, R318); `issued` says that its program
only waits for its last access (step 3 of R261); `rows` are the rows it has issued the writes of, each with its accesses and its saturated
elements (R302); `owes` are the destinations that are poisoned before it completes (R340); `detail` is the DETAIL of a completion that is not
its own (R354). -/
structure Cmd where
  qp : Nat
  count : Nat
  booth : Nat
  part : Nat
  epoch : Nat
  order : Nat
  time : Nat
  entry : Option (BitVec 512)
  begun : Bool
  beganAs : Nat
  context : Option Nat
  stream : Nat
  granted : Bool
  ready : Bool
  issued : Bool
  rows : List (List Nat × Nat)
  owes : List Nat
  fetched : List Fetched
  access : List Access
  effect : Bool
  retried : Bool
  stop : Bool
  aborted : Bool
  fault : Option (Status × Word)
  done : Option Done
  detail : Nat
deriving DecidableEq, Repr, Inhabited

/-- A member of a closed list batch: its command, and, once it knows them, the lists that it has still to scan; whether its results are
written (R331). -/
structure Member where
  cmd : Nat × Nat
  lists : Option (List Nat)
  wrote : Bool
deriving DecidableEq, Repr, Inhabited

/-- A closed list batch that runs: its members in the order in which they began, the lists its members have asked for, the centroid table
among them as list 2^32, and the lines read for all of them, by the list, the epoch and the virtual line (R331, Table 10.13). -/
structure Batch where
  members : List Member
  lists : List Nat
  lines : List (Nat × Nat × Nat × LineData)
deriving DecidableEq, Repr, Inhabited

/-- The registers of one Booth (R302, R335), its open list batch with the index its members name and the batches that run (R331), and the
context whose block pair the array served last (R270). The 8 MiB of its store stand in its commands: a context each with what it has
read, and the bytes of the stream area each holds (R268). -/
structure BoothSt where
  gated : Bool := false
  blocksRead : Nat := 0
  blocksSkipped : Nat := 0
  rows : Nat := 0
  saturated : Nat := 0
  window : Nat := 2000
  queries : Nat := 0
  short : Nat := 0
  refused : Nat := 0
  scanned : Nat := 0
  batches : Nat := 0
  saved : Nat := 0
  batch : List (Nat × Nat) := []
  batchIndex : Nat := 0
  batchAt : Nat := 0
  closed : List Batch := []
  arrayAt : Nat := 63
  lastWork : Nat := 0
  lastQp : Nat := 4095
deriving DecidableEq, Repr, Inhabited

/-! ### Fabric (12) -/

/-- Link states (Table 12.10). -/
inductive LinkSt where
  | off | down | training | active
deriving DecidableEq, Repr, Inhabited

/-- Training phases (Table 12.3). -/
inductive Phase where
  | detect | equalise | lock | exchange
deriving DecidableEq, Repr, Inhabited

/-- One link. `lfsr` and `tx` are the scrambler registers of the lanes it receives and sends on (R370); `rxAck` is the sequence of the last
flit received whole and in order and `acked` the ACK_SEQ last received, both 0 on entry into ACTIVE (R374); `carries` gives the sequence of the
last flit and the tag of each request that flits of the retry buffer may carry (R379); `tries` counts how often each flit of the retry buffer was
replayed (R378). `was` are the lanes it had when it left ACTIVE and `usable` those that a fast retrain may take (R378). `headAt` is when the packet at
the head of its ingress came there, where it must stay there (R32, R396). -/
structure Link where
  st : LinkSt := .off
  passing : BitVec 8 := 0
  active : BitVec 8 := 0
  peerNode : Nat := 0
  peerPort : Nat := 0
  peerKind : Nat := 0
  peerStepping : Nat := 0
  peerCompatA : Bool := false
  inverted : BitVec 8 := 0
  reversed : Bool := false
  trainings : Nat := 0
  phase : Phase := .detect
  phaseAt : Nat := 0
  attempts : Nat := 0
  was : BitVec 8 := 0
  usable : BitVec 8 := 0
  fast : Bool := false
  fastTries : Nat := 0
  downAt : Nat := 0
  corrected : Nat := 0
  uncorrectable : Nat := 0
  replays : Nat := 0
  degrades : Nat := 0
  bounced : Nat := 0
  stale : Nat := 0
  timedOut : Nat := 0
  unmatched : Nat := 0
  txSeq : Nat := 0
  rxNext : Nat := 0
  rxAck : Nat := 0
  acked : Nat := 0
  ackAt : Nat := 0
  nakOwed : Bool := false
  discarding : Bool := false
  unacked : List (Nat × List Byte) := []
  tries : List Nat := []
  carries : List (Nat × Nat) := []
  badTimes : List Nat := []
  lfsr : List Nat := []
  tx : List Nat := []
  slots : List Byte := []
  ingress : List Packet := []
  headAt : Option Nat := none
  marks : List Nat := []
  waiting : List Packet := []
  turn : Nat := 0
  credits : List (Nat × Nat) := []
  sizes : List (Nat × Nat) := []
  owed : List Nat := [0, 0, 0, 0, 0]
  owedAt : Option Nat := none
deriving DecidableEq, Repr, Inhabited

/-- A bounce entry (R396, R398): on a slice's list, or on a partition's wake list; or, with `resend`, an entry that awaits
the one resend of a packet whose carried check failed, with that comparison (R392). It names the link, node, tag,
address, length and class of the packet, and when that came (R23, R381, R397). -/
structure Bounce where
  id : Nat
  link : Nat
  node : Nat
  tag : Nat
  addr : Word
  at_ : Nat
  len : Nat
  cls : Nat
  slice : Nat
  wake : Option Nat
  granted : Option Nat
  resend : Option PathCheck
deriving DecidableEq, Repr, Inhabited

/-- A port's lists. -/
structure PortSt where
  bounce : List Bounce := []
  nextId : Nat := 0
deriving DecidableEq, Repr, Inhabited

/-- A request of this device that awaits its response (R386, R401, R232), with its epoch and its event time here (R32, R55). It is
`ticketed` once it holds a request Ticket of its link, and `sent` once its packet has left; `resend` is the packet that is to leave in place of its own
when it is sent again. `unbounced` are the times of its packets that no RETRY answered, `restart` says that its times begin anew with the next one
(R399), `reread` that it was sent again under R379, `kept` that its Ticket is a reserved one (R386); `life` tells for which life of its site it is
(R423). -/
structure Outst where
  tag : Nat
  link : Nat
  part : Nat
  epoch : Nat
  time : Nat
  pkt : Packet
  origin : Origin
  siteTag : Nat
  firstAt : Nat
  lastAt : Nat
  resends : Nat
  ticketed : Bool
  kept : Bool
  sent : Bool
  grantId : Option Nat
  unbounced : List Nat
  restart : Bool
  reread : Bool
  resend : Option Packet
  again : Option PathCheck
  window : Nat
  nc : Bool
  life : Nat
deriving DecidableEq, Repr, Inhabited

/-- A tag that may not be used again before a cycle (R232, R379). -/
structure TagHold where
  tag : Nat
  until_ : Nat
deriving DecidableEq, Repr, Inhabited

/-- TARGET_DEAD faults already posted, by node and partition (R401). -/
structure DeadNote where
  node : Nat
  part : Nat
  since : Nat
  count : Nat
deriving DecidableEq, Repr, Inhabited

/-- The Trapeze ports. -/
structure Fab where
  links : Tab Link := []
  ports : Tab PortSt := []
  outst : List Outst := []
  tagHolds : List TagHold := []
  nextTag : Nat := 0
  dead : List DeadNote := []
deriving DecidableEq, Repr, Inhabited

/-! ### Sites (13) -/

/-- Site states (Table 13.6). -/
inductive SiteSt where
  | empty | reset | training | active | down
deriving DecidableEq, Repr, Inhabited

/-- One site. `held` are the packets in its ingress behind a FENCE (R224); `life` counts its entries into DOWN, so that what was asked before one is
not answered after it (R423); `windows` is the number of the windows of its rail that have ended when the last was measured (R422). -/
structure Site where
  st : SiteSt := .empty
  modules : Nat := 0
  rate : Nat := 0
  repaired : Nat := 0
  replays : Nat := 0
  retrains : Nat := 0
  rateDrops : Nat := 0
  downs : Nat := 0
  average : Nat := 0
  overs : Nat := 0
  notice : Option Nat := none
  downAt : Nat := 0
  sideband : Bool := false
  rail : Bool := false
  eid : Nat := 0
  credits : List (Nat × Nat) := []
  waiting : List Packet := []
  held : List Packet := []
  life : Nat := 0
  windows : Nat := 0
  owed : List Nat := [0, 0, 0, 0]
  owedAt : Option Nat := none
deriving DecidableEq, Repr, Inhabited

/-- A site's FENCE that is not answered yet (R224). -/
structure SiteFence where
  site : Nat
  tag : Nat
  remote : Bool
  tags : List Nat
  parked : List Nat
  pkt : Packet
deriving DecidableEq, Repr, Inhabited

/-- The UCIe adapters. -/
structure Ucie where
  sites : Tab Site := []
  fences : List SiteFence := []
deriving DecidableEq, Repr, Inhabited

/-! ### Partitions and Barker (14) -/

/-- Partition states (Table 14.1). -/
inductive PartSt where
  | unassigned | stopped | starting | running | stopping | faulted
deriving DecidableEq, Repr, Inhabited

/-- PSTATE of a partition (Table 15.18). -/
inductive PState where
  | on | entering | curtain | waking
deriving DecidableEq, Repr, Inhabited

/-- A Barker record (Table 14.4). -/
structure Rec where
  time : Nat
  addr : Word
  detail : Nat
  part : Nat
  cls : Nat
  event : Nat
  seq : Nat
  qp : Nat
  node : Nat
  status : Nat
  location : Nat
deriving DecidableEq, Repr, Inhabited

/-- One partition: PART_STATUS, the event ring's registers, the records that are posted to the ring and not written yet, whether
the first of them is being written (R449), and
PWRCLK_PART_STATUS. -/
structure Part where
  st : PartSt := .unassigned
  latch : Bool := false
  releasing : Bool := false
  ctl : Nat := 0xFF
  cause : Nat := 0
  startAt : Option Nat := none
  evBase : Nat := 0
  evLog : Nat := 0
  evCntEn : Bool := false
  evCnt : Nat := 0
  evEn : Bool := false
  evHead : BitVec 32 := 0
  evTail : BitVec 32 := 0
  evSeq : Nat := 1
  evQueue : List Rec := []
  evBusy : Bool := false
  posted : Nat := 0
  dropped : Nat := 0
  pstate : PState := .on
  pctl : Nat := 0xFF
  retired : Bool := false
  curtainAt : Nat := 0
  wakeAt : Option Nat := none
  exitAt : Option Nat := none
  released : Nat := 0
deriving DecidableEq, Repr, Inhabited

/-- The Barker. -/
structure Barker where
  head : BitVec 16 := 0
  tail : BitVec 16 := 0
  dropped : Nat := 0
  seq : Nat := 1
  queue : Tab Rec := []
  suppressed : Nat := 0
  spent : Tab Nat := []
  owed : Tab Nat := []
deriving DecidableEq, Repr, Inhabited

/-! ### Power, meters, management (15, 16) -/

/-- Where the device stands in the reset sequence (Table 15.9). -/
inductive DevPhase where
  | off | alwaysOn | strapped | clocked
deriving DecidableEq, Repr, Inhabited

/-- DARK (R467 to R470): entering it, in it, leaving it until the base allowance is admitted, and resuming work. -/
inductive DarkSt where
  | no | entering | dark | leaving | resuming
deriving DecidableEq, Repr, Inhabited

/-- A wake in the Turnstile's queue; the target is none for the device. -/
structure Wake where
  target : Option Nat
  time : Nat
  remaining : Nat
deriving DecidableEq, Repr, Inhabited

/-- A register write that waits at its block until a partition has left CURTAIN, or a STOP of that partition, with the request
it answers, and its place among what waits (Table 15.4, R466). -/
structure RegWait where
  order : Nat
  writer : Writer
  addr : Nat
  value : Word
  part : Nat
  req : Option Req
deriving DecidableEq, Repr

/-- A segment that waits for its partition to leave CURTAIN, with the transport that it came over (Table 15.4), and its place among what waits
(R466). -/
structure SegWait where
  order : Nat
  part : Nat
  from_ : Option Transport
  raw : List Byte
deriving DecidableEq, Repr

/-- The states of the test port's controller; `ir` tells an instruction register's state from a data register's (IEEE 1149.1). -/
inductive Tap where
  | reset | idle
  | select (ir : Bool) | capture (ir : Bool) | shift (ir : Bool) | exit1 (ir : Bool) | pause (ir : Bool) | exit2 (ir : Bool) | update (ir : Bool)
deriving DecidableEq, Repr, Inhabited

/-- The instructions of the test port (R525). -/
inductive TapInstr where
  | bypass | sample | extest
deriving DecidableEq, Repr, Inhabited

/-- The test port: its controller, its instruction register and the stage it shifts, the bypass bit, and the boundary cells, as they shift and
as they hold (R525). -/
structure TestPort where
  tap : Tap := .reset
  ir : TapInstr := .bypass
  irScan : BitVec 2 := 3
  bypass : Bool := false
  scan : BitVec 20 := 0
  cells : BitVec 20 := 0
deriving DecidableEq, Repr, Inhabited

/-- Straps, power, clocks and pins. -/
structure Power where
  phase : DevPhase := .alwaysOn
  compatA : Bool := false
  sitePop : BitVec 2 := 0
  pwrgd : Bool := false
  pllLocked : Bool := false
  pllTries : Nat := 0
  tripLatch : Bool := false
  tripSamples : Nat := 0
  halfRate : Bool := false
  hotStacks : List Nat := []
  darkResult : Nat := 0xFF
  i3cWake : Bool := true
  portDetect : BitVec 8 := 0
  wakeSource : Nat := 0xFF
  wakeReplayed : Bool := false
  wakeTime : Nat := 0
  brownouts : Nat := 0
  brownoutCause : Nat := 0
  running : BitVec 18 := 0x3FFFF
  inputMv : BitVec 16 := 0
  inputW : BitVec 16 := 0
  coreA : BitVec 16 := 0
  admitted : Nat := 0
  slotRise : Nat := 0
  budget : Nat := 0
  slotAt : Nat := 0
  queue : List Wake := []
  dark : DarkSt := .no
  darkAt : Nat := 0
  recovering : Bool := false
  darkWake : Option (Nat × Nat × Bool) := none
  keepAlive : Bool := true
  regWaits : List RegWait := []
  segWaits : List SegWait := []
  worked : Nat := 0
  sampled : Nat := 0
  test : TestPort := {}
deriving DecidableEq, Repr, Inhabited

/-- A meter bank (R508 to R513). -/
structure Bank where
  events : Nat := 0
  part : Nat := 0xFF
  isOpen : Bool := false
  start : Nat := 0
  from_ : Nat := 0
  window : Nat := 0
  lastIndex : Word := 0xFFFFFFFFFFFFFFFF
  lastFrom : Nat := 0
  lastEnd : Nat := 0
  cur : Tab Nat := []
  last : Tab Nat := []
deriving DecidableEq, Repr, Inhabited

/-- BOOT_STATE (Table 16.9). -/
inductive Boot where
  | rom | awaitImage | running | halted
deriving DecidableEq, Repr, Inhabited

/-- The steps of a PLDM update; the last is that of a segment whose activation waits for its partition to leave CURTAIN (R492, Table 15.4). -/
inductive UpdStage where
  | idle | requested | passed | verified | applied | activating
deriving DecidableEq, Repr, Inhabited

/-- The update in progress. -/
structure Update where
  stage : UpdStage := .idle
  component : Nat := 0
  image : List Byte := []
  transport : Option Transport := none
deriving DecidableEq, Repr, Inhabited

/-- A partition's mailbox (Table 16.11). -/
structure Mailbox where
  respLen : Nat := 0
  reqLen : Nat := 0
  msgType : Nat := 0
  st : Nat := 0
  buffer : Tab Word := []
deriving DecidableEq, Repr, Inhabited

/-- The SPDM connection of the responder with the requester of one transport (R498, R499, R503). -/
structure Spdm where
  versioned : Bool := false
  capable : Bool := false
  negotiated : Bool := false
  sessions : Bool := false
  session : Option Nat := none
  established : Bool := false
  updates : Nat := 0
  transcript : List Byte := []
  owed : Bool := false
  chunkIn : List Byte := []
  chunkSeq : Nat := 0
  chunkOut : List Byte := []
  outSeq : Nat := 0
deriving DecidableEq, Repr, Inhabited

/-- The Ringmaster and the management transports. -/
structure Mgmt where
  boot : Boot := .rom
  failCode : Nat := 0
  haltCause : Nat := 0
  halts : Nat := 0
  haltTimes : List Nat := []
  svn : Nat := 0
  minSvn : Option Nat := none
  fwDigest : List Byte := List.replicate 48 0
  rigEd : List Byte := []
  rigMldsa : List Byte := []
  raiseSvn : Bool := false
  aliasSeed : List Byte := []
  devidSeed : List Byte := []
  refreshed : Nat := 0
  fwFlash : List Byte := []
  rigFlash : List Byte := []
  keys : Tab (BitVec 512) := []
  update : Update := {}
  spdms : Tab Spdm := []
  eid : Nat := 0
  mboxes : Tab Mailbox := []
  receiver : Option Transport := none
  thresholds : Tab (Int × Int) := []
  sensors : Tab Int := []
deriving DecidableEq, Repr, Inhabited

/-! ### The device -/

/-- The state of the device. -/
structure State where
  now : Nat
  power : Power
  rig : Rig
  xlat : Xlat
  mem : Mem
  integ : Integ
  home : Home
  order : Order
  qps : Tab Qp
  cmds : List Cmd
  cmdStamp : Nat
  booths : Tab BoothSt
  fab : Fab
  ucie : Ucie
  parts : Tab Part
  barker : Barker
  banks : Tab Bank
  mgmt : Mgmt
  outbox : List Out
  upsets : List Upset
  freeCount : Nat
  pending : List Instr
deriving DecidableEq, Repr, Inhabited

/-- The device right after a cold reset: step 1 of Table 15.9, every register at its reset value. -/
def State.reset : State :=
  { now := 0, power := {}, rig := {}, xlat := {}, mem := {}, integ := {}, home := {}, order := {}, qps := [],
    cmds := [], cmdStamp := 0, booths := [], fab := {}, ucie := {}, parts := [], barker := {}, banks := [],
    mgmt := {}, outbox := [], upsets := [], freeCount := 0, pending := [] }

end Sys2Proof.Machine
end

