-- ==== Sys2Proof/Machine/Operands.lean ====
section
/-! DEFINITION. The operand forms: addresses and their placement (03, 04), windows and maps, the forms and classes of
packets (12, 13), the options in force. -/

namespace Sys2Proof.Machine

/-! ### Addresses -/

/-- NODE of a global address (Table 3.1). -/
def nodeOf (a : Nat) : Nat := bits a 42 16

/-- OFFSET of a global address (Table 3.1). -/
def offOf (a : Nat) : Nat := bits a 0 42

/-- The global address of an offset of a node (R75). -/
def globalAddr (node off : Nat) : Nat := (node <<< 42) ||| off

/-- The first offset that holds nothing (R76). -/
def storeEnd : Nat := 0x028000000000

/-- The line number of an offset: offset bits [41:6]. -/
def lineNo (off : Nat) : Nat := off / 64

/-- The channel group of a line (R103): offset bits [41:35]. -/
def groupOfLine (l : Nat) : Nat := l >>> 29

/-- The stack of a line (Table 4.1). -/
def stackOfLine (l : Nat) : Nat := l >>> 31

/-- The stack channel of a line: 8g + c (R103). -/
def channelOfLine (l : Nat) : Nat := 8 * bits l 29 2 + bits l 2 3

/-- The page of MEM_PAGE_ATTR that a line lies in, over all stacks: 256k + p (R132). -/
def pageOfLine (l : Nat) : Nat := l >>> 23

/-- The first line of a line's block (R104). -/
def blockOfLine (l : Nat) : Nat := l / 4 * 4

/-- The home slice of a line: 2q + offset bit [6] (R18). -/
def sliceOfLine (l : Nat) : Nat := 2 * (stackOfLine l / 5) + l % 2

/-- The index of a line within its channel group. -/
def lineIndex (l : Nat) : Nat := bits l 0 29

/-- The lines of `n` bytes from a line-aligned offset. -/
def linesFrom (off n : Nat) : List Nat := (List.range n).map fun i => lineNo off + i

/-! ### Options and maps -/

/-- An option of the applied image, or its default (R41). -/
def optVal (s : State) (id d : Nat) : Nat := Tab.get d s.rig.cur.opts id

/-- NODE_NUMBER of the applied image; 0 before one is applied (log 3). -/
def thisNode (s : State) : Nat := optVal s 1 0

/-- HOME_TIMEOUT (Table 2.5). -/
def homeTimeout (s : State) : Nat := optVal s 2 32000

/-- FABRIC_TIMEOUT (Table 2.5). -/
def fabricTimeout (s : State) : Nat := optVal s 3 128000

/-- REPLAY_RETENTION in force: 32,000 under COMPAT_A (R230). -/
def retention (s : State) : Nat := if s.power.compatA then 32000 else optVal s 4 50000

/-- SHADOW_MIN (Table 2.5). -/
def shadowMin (s : State) : Nat := optVal s 5 128000

/-- DRAIN_LIMIT (Table 2.5). -/
def drainLimit (s : State) : Nat := optVal s 8 5000000

/-- The maps of a live epoch: the current one or the draining one (R53). -/
def mapsOf (s : State) (epoch : Nat) : Option Maps :=
  if s.rig.rigged && s.rig.epoch = epoch then some s.rig.cur else
    match s.rig.draining with
    | some d => if d.epoch = epoch then some d.maps else none
    | none => none

/-- The maps under which a request of an epoch runs; the current ones once its epoch has retired. -/
def mapsAt (s : State) (epoch : Nat) : Maps := (mapsOf s epoch).getD s.rig.cur

/-- The partition that owns a channel group. -/
def groupOwner (m : Maps) (g : Nat) : Option Nat := Tab.find m.groups g

/-- The QP_MAP record of a queue pair (R238). -/
def qpRecOf (m : Maps) (q : Nat) : Option QpRec := m.qps.find? fun r => r.first ≤ q && q < r.first + r.count

/-- The partition that owns an arrival counter (R214). -/
def ctrOwner (m : Maps) (n : Nat) : Option Nat :=
  (m.ctrs.find? fun r => r.first ≤ n && n < r.first + r.count).map CtrRec.part

/-- The partition a site acts for, when its SITE record enables it (check 3 of Table 3.5). -/
def sitePart (m : Maps) (site : Nat) : Option Nat :=
  match Tab.find m.sites site with
  | some r => if r.enable then some r.part else none
  | none => none

/-- The partition's JOB_KEY. -/
def jobKeyOf (m : Maps) (p : Nat) : Nat :=
  match Tab.find m.parts p with
  | some r => r.jobKey
  | none => 0

/-- Whether a partition has MGMT_PRIV. -/
def mgmtPrivOf (m : Maps) (p : Nat) : Bool :=
  match Tab.find m.parts p with
  | some r => r.mgmtPriv
  | none => false

/-! ### Windows (Table 3.3) -/

/-- KIND of a window. -/
def winKind (e : BitVec 128) : Nat := bits e.toNat 0 3

/-- TARGET_PART of a window. -/
def winPart (e : BitVec 128) : Nat := bits e.toNat 3 5

/-- TARGET_EPOCH of a window. -/
def winEpoch (e : BitVec 128) : Nat := bits e.toNat 8 8

/-- The length of a window in bytes. -/
def winSize (e : BitVec 128) : Nat := (bits e.toNat 16 13 + 1) <<< 29

/-- The first byte of a window. -/
def winBase (e : BitVec 128) : Nat := bits e.toNat 29 29 <<< 29

/-- READ of a window. -/
def winRead (e : BitVec 128) : Bool := e.toNat.testBit 64

/-- WRITE of a window. -/
def winWrite (e : BitVec 128) : Bool := e.toNat.testBit 65

/-- ATOMIC of a window. -/
def winAtomic (e : BitVec 128) : Bool := e.toNat.testBit 66

/-- SITE_USE of a window. -/
def winSite (e : BitVec 128) : Bool := e.toNat.testBit 67

/-- BOOTH_USE of a window. -/
def winBooth (e : BitVec 128) : Bool := e.toNat.testBit 68

/-- Whether a window holds `n` bytes at an address (R83). -/
def winHolds (e : BitVec 128) (a n : Nat) : Bool := winBase e ≤ a && a + n ≤ winBase e + winSize e

/-- The window of a partition and a kind that holds `n` bytes at an address, with its index (R83). -/
def findWin (m : Maps) (p kind a n : Nat) : Option (Nat × BitVec 128) :=
  match m.wins.find? (fun (_, r) => r.part = p && winKind r.entry = kind && winHolds r.entry a n) with
  | some (i, r) => some (i, r.entry)
  | none => none

/-- The kinds of access a window permits (check 7 of Table 3.5). -/
def winPermits (e : BitVec 128) (r w at_ : Bool) : Bool :=
  (!r || winRead e) && (!w || winWrite e) && (!at_ || winAtomic e)

/-! ### Packets (Tables 12.4 to 12.6) -/

/-- COMBINABLE of a packet. -/
def pktCombinable (p : Packet) : Bool := p.flags.getLsbD 0
/-- COMBINED of a packet. -/
def pktCombined (p : Packet) : Bool := p.flags.getLsbD 1
/-- RESEND of a packet. -/
def pktResend (p : Packet) : Bool := p.flags.getLsbD 2
/-- COUNT_EN of a packet. -/
def pktCountEn (p : Packet) : Bool := p.flags.getLsbD 3
/-- GRANTED of a packet. -/
def pktGranted (p : Packet) : Bool := p.flags.getLsbD 4

/-- A packet with one of its flags set or cleared. -/
def pktFlag (p : Packet) (i : Nat) (b : Bool) : Packet := { p with flags := BitVec.ofNat 8 (setBit p.flags.toNat i b) }

/-- The lines that a request of a type names (R382). -/
def pktLines (p : Packet) : Nat :=
  match p.ptype.toNat with
  | 0x02 => 4
  | 0x06 => 4
  | 0x03 => 4 * (p.aux.toNat + 1)
  | 0x07 => 4 * (p.aux.toNat + 1)
  | _ => 1

/-- The bytes that a request names: 4, 8 or 16 for a far atomic. -/
def pktBytes (p : Packet) : Nat :=
  if p.ptype = 0x08 then 4 <<< bits p.code.toNat 4 2 else 64 * pktLines p

/-- Whether a type is a write of data. -/
def isWriteType (t : Nat) : Bool := t = 4 || t = 5 || t = 6 || t = 7 || t = 0x15

/-- Whether a type is a plain read. -/
def isReadType (t : Nat) : Bool := t = 1 || t = 2 || t = 3 || t = 0x14

/-- The slots of a body, header excluded (Table 12.5); a site packet carries no line checks (R417). -/
def bodySlots (site : Bool) (p : Packet) : Nat :=
  let lines := pktLines p
  let chk := if site then 0 else ceilDiv lines 4
  let lst := if pktCombined p then ceilDiv (p.aux.toNat + 1) 2 else 0
  match p.ptype.toNat with
  | 0x04 => chk + 4
  | 0x05 => 1 + 4
  | 0x06 => chk + 16
  | 0x07 => chk + 4 * lines
  | 0x08 => (if bits p.code.toNat 0 4 = 9 then 2 else 1) + lst
  | 0x01 => lst
  | 0x02 => lst
  | 0x09 => 3
  | 0x0B => 1
  | 0x13 => if p.aux.getLsbD 0 then chk + 4 else 0
  | 0x15 => chk + 4
  | 0x25 => 2
  | 0x28 => chk + 4
  | 0x29 => chk + 4
  | 0x2C => chk + 4
  | 0x30 => 5
  | 0x31 => 1
  | 0x39 => 5
  | 0x41 => ceilDiv (p.data.length) 4 * bit (!site) + 4 * p.data.length + lst
  | 0x42 => 1 + lst
  | 0x43 => 1
  | 0x44 => lst
  | 0x48 => 1
  | 0x71 => 2
  | 0x72 => 2
  | _ => 0

/-- LEN of a packet: header and body. -/
def pktLen (site : Bool) (p : Packet) : Nat := 2 + bodySlots site p

/-- The classes of Table 12.7 in the order of CREDIT: REQ, RSP, SNP, MIR, MGT. -/
def pktClass (p : Packet) : Nat :=
  let t := p.ptype.toNat
  if t = 0x0A ∨ t = 0x0B then 4
  else if t ≤ 0x13 then 0
  else if t = 0x18 ∨ (0x20 ≤ t ∧ t ≤ 0x25) then 2
  else if 0x30 ≤ t ∧ t ≤ 0x34 then 3
  else 1

/-- The reads, writes and atomics a request asks its window to permit (log 12). -/
def pktPerms (p : Packet) : Bool × Bool × Bool :=
  let t := p.ptype.toNat
  if t = 0x08 then (false, false, true)
  else if isReadType t || t = 0x10 then (true, false, false)
  else if t = 0x11 then (true, true, false)
  else (false, true, false)

/-- The number of a status code (Table 8.4). -/
def statusCode : Status → Nat
  | .ok => 0x00 | .okShort => 0x01 | .okRetried => 0x02 | .pendingEnable => 0x03
  | .poisoned => 0x10 | .targetDead => 0x11 | .stateLost => 0x12 | .staleMap => 0x13 | .atomicUnknown => 0x14
  | .tierFailed => 0x15 | .conflict => 0x16 | .staleVersion => 0x17 | .diverged => 0x18 | .protection => 0x19
  | .xlatFault => 0x1A | .qpAborted => 0x1B | .brownout => 0x1C | .timeout => 0x1D | .malformed => 0x1F

/-- The status a code names; a code of no status is MALFORMED. -/
def statusOf (n : Nat) : Status :=
  match n with
  | 0x00 => .ok | 0x01 => .okShort | 0x02 => .okRetried | 0x03 => .pendingEnable
  | 0x10 => .poisoned | 0x11 => .targetDead | 0x12 => .stateLost | 0x13 => .staleMap | 0x14 => .atomicUnknown
  | 0x15 => .tierFailed | 0x16 => .conflict | 0x17 => .staleVersion | 0x18 => .diverged | 0x19 => .protection
  | 0x1A => .xlatFault | 0x1B => .qpAborted | 0x1C => .brownout | 0x1D => .timeout
  | _ => .malformed

/-- Whether a status is OK or OK_RETRIED. -/
def statusGood (c : Status) : Bool := c = .ok || c = .okRetried

/-- The status of several accesses: the first that failed, else OK_RETRIED when one was retried (R149). -/
def joinStatus (a b : Status) : Status :=
  if !statusGood a then a else if !statusGood b then b else if a = .okRetried then a else b

/-- The constituents of a request: its list when it is COMBINED, else its own node and tag (R394). -/
def constituents (p : Packet) : List (Nat × Nat) :=
  if pktCombined p then p.list.map fun (n, t) => (n.toNat, bits t.toNat 0 20)
  else [(p.srcNode.toNat, bits p.tag.toNat 0 20)]

/-! ### Places (Table 5.4, R445) -/

/-- LOCATION of a request's entry, `b` being the Booth of a Booth access (R541). -/
def locOf (b : Nat) : Origin → Nat
  | .site k => 0x30 + k
  | .link l => 0x20 + l / 2
  | .booth _ _ _ => 0x40 + b
  | .roustabout => 0x70
  | .barker _ => 0x72

/-- LOCATION of a register writer. -/
def locOfWriter : Writer → Nat
  | .ringmaster => 0x71
  | .site k => 0x30 + k.val
  | .fabric l _ _ => 0x20 + l.val / 2

end Sys2Proof.Machine
end

