-- ==== Sys2Proof/Machine/Wire.lean ====
section
/-! DEFINITION. The bytes of a packet: header and bodies as Tables 12.4 and 12.5 lay them out, the link-local packets,
and the reading of both from the slots of a link. -/

namespace Sys2Proof.Machine

/-- Bytes padded with zeros to `n`. -/
def padTo (n : Nat) (l : List Byte) : List Byte := l ++ List.replicate (n - l.length) 0

/-- The 32-byte header (Table 12.4). -/
def headerBytes (p : Packet) : List Byte :=
  [p.ptype, p.flags] ++ leBytes 2 p.len.toNat ++ leBytes 2 p.srcNode.toNat ++ leBytes 2 p.dstNode.toNat ++
  leBytes 4 p.tag.toNat ++ [p.part, p.epoch] ++ leBytes 2 p.jobKey.toNat ++ leBytes 8 p.addr.toNat ++
  leBytes 2 p.counter.toNat ++ [p.code, p.aux] ++ leBytes 4 p.grantId.toNat

/-- The line checks body, in whole slots. -/
def checkBytes (p : Packet) : List Byte :=
  padTo (16 * ceilDiv p.checks.length 4) (p.checks.flatMap fun c => leBytes 4 c.toNat)

/-- The data body. -/
def dataBytes (p : Packet) : List Byte := p.data.flatMap lineBytes

/-- The constituent list, in whole slots. -/
def listBytes (p : Packet) : List Byte :=
  if pktCombined p then
    padTo (16 * ceilDiv p.list.length 2) (p.list.flatMap fun (n, t) => leBytes 2 n.toNat ++ [0, 0] ++ leBytes 4 t.toNat)
  else []

/-- The body that follows the header (Table 12.5). -/
def bodyBytes (p : Packet) : List Byte :=
  match p.ptype.toNat with
  | 0x04 => checkBytes p ++ dataBytes p
  | 0x05 => leBytes 4 (p.checks.headD 0).toNat ++ leBytes 4 0 ++ leBytes 8 p.mask.toNat ++ dataBytes p
  | 0x06 => checkBytes p ++ dataBytes p
  | 0x07 => checkBytes p ++ dataBytes p
  | 0x08 => leBytes 16 p.opA.toNat ++ (if bits p.code.toNat 0 4 = 9 then leBytes 16 p.opB.toNat else []) ++ listBytes p
  | 0x01 => listBytes p
  | 0x02 => listBytes p
  | 0x09 => padTo 48 (p.body.take 48)
  | 0x0B => leBytes 16 p.value.toNat
  | 0x13 => if p.aux.getLsbD 0 then checkBytes p ++ dataBytes p else []
  | 0x25 => padTo 32 (p.body.take 32)
  | 0x28 => checkBytes p ++ dataBytes p
  | 0x29 => checkBytes p ++ dataBytes p
  | 0x2C => checkBytes p ++ dataBytes p
  | 0x30 => padTo 16 (p.body.take 16) ++ dataBytes p
  | 0x31 => padTo 16 (p.body.take 16)
  | 0x39 => padTo 16 (p.body.take 16) ++ dataBytes p
  | 0x41 => checkBytes p ++ dataBytes p ++ listBytes p
  | 0x42 => leBytes 16 p.opA.toNat ++ listBytes p
  | 0x43 => padTo 16 (p.body.take 16)
  | 0x44 => listBytes p
  | 0x48 => leBytes 16 p.value.toNat
  | _ => []

/-- Whether a type is link-local: one slot, no header (R380). -/
def linkLocal (t : Nat) : Bool := t = 0x00 || t = 0x60 || t = 0x61 || t = 0x62

/-- The bytes of a packet on a link. A link-local packet is its TYPE, a zero byte and its body. -/
def packetBytes (p : Packet) : List Byte :=
  if linkLocal p.ptype.toNat then padTo 16 ([p.ptype, 0] ++ p.body.take 14) else headerBytes p ++ bodyBytes p

/-- The header fields of a packet read from its first 32 bytes. -/
def readHeader (b : List Byte) : Packet :=
  { ptype := BitVec.ofNat 8 (leAt b 0 1), flags := BitVec.ofNat 8 (leAt b 1 1), len := BitVec.ofNat 16 (leAt b 2 2),
    srcNode := BitVec.ofNat 16 (leAt b 4 2), dstNode := BitVec.ofNat 16 (leAt b 6 2), tag := BitVec.ofNat 32 (leAt b 8 4),
    part := BitVec.ofNat 8 (leAt b 12 1), epoch := BitVec.ofNat 8 (leAt b 13 1), jobKey := BitVec.ofNat 16 (leAt b 14 2),
    addr := BitVec.ofNat 64 (leAt b 16 8), counter := BitVec.ofNat 16 (leAt b 24 2), code := BitVec.ofNat 8 (leAt b 26 1),
    aux := BitVec.ofNat 8 (leAt b 27 1), grantId := BitVec.ofNat 32 (leAt b 28 4) }

/-- The checks of a body read from its start. -/
def readChecks (b : List Byte) (n : Nat) : List (BitVec 32) :=
  (List.range n).map fun i => BitVec.ofNat 32 (leAt b (4 * i) 4)

/-- The lines of a body read from its start. -/
def readLines (b : List Byte) (n : Nat) : List LineData := (List.range n).map fun i => lineOf (b.drop (64 * i))

/-- The constituents of a body read from its start. -/
def readList (b : List Byte) (n : Nat) : List (BitVec 16 × BitVec 32) :=
  (List.range n).map fun i => (BitVec.ofNat 16 (leAt b (8 * i) 2), BitVec.ofNat 32 (leAt b (8 * i + 4) 4))

/-- The lines of a DATA response, from the slots its LEN leaves for checks and data. -/
def dataLines (slots : Nat) : Nat := (List.range 65).foldl (fun a n => if ceilDiv n 4 + 4 * n ≤ slots then n else a) 0

/-- A packet with its body read (Table 12.5). -/
def readBody (p : Packet) (b : List Byte) : Packet :=
  let n := pktLines p
  let k := 16 * ceilDiv n 4
  let withData (p : Packet) (n : Nat) (b : List Byte) : Packet :=
    { p with checks := readChecks b n, data := readLines (b.drop (16 * ceilDiv n 4)) n }
  let withList (p : Packet) (b : List Byte) : Packet :=
    if pktCombined p then { p with list := readList b (p.aux.toNat + 1) } else p
  match p.ptype.toNat with
  | 0x04 => withData p 1 b
  | 0x05 => { p with checks := readChecks b 1, mask := BitVec.ofNat 64 (leAt b 8 8), data := readLines (b.drop 16) 1 }
  | 0x06 => withData p n b
  | 0x07 => { p with checks := readChecks b n, data := readLines (b.drop k) n }
  | 0x08 =>
    let two := bits p.code.toNat 0 4 = 9
    let p := { p with opA := BitVec.ofNat 128 (leAt b 0 16), opB := if two then BitVec.ofNat 128 (leAt b 16 16) else 0 }
    withList p (b.drop (if two then 32 else 16))
  | 0x01 => withList p b
  | 0x02 => withList p b
  | 0x09 => { p with body := b }
  | 0x0B => { p with value := BitVec.ofNat 64 (leAt b 0 8) }
  | 0x13 => if p.aux.getLsbD 0 then withData p 1 b else p
  | 0x25 => { p with body := b }
  | 0x28 => withData p 1 b
  | 0x29 => withData p 1 b
  | 0x2C => withData p 1 b
  | 0x30 => { p with body := b.take 16, data := readLines (b.drop 16) 1, checks := readChecks b 1 }
  | 0x31 => { p with body := b.take 16 }
  | 0x39 => { p with body := b.take 16, data := readLines (b.drop 16) 1, checks := readChecks b 1 }
  | 0x41 =>
    let lst := if pktCombined p then ceilDiv (p.aux.toNat + 1) 2 else 0
    let m := dataLines (p.len.toNat - 2 - lst)
    let p := withData p m b
    withList p (b.drop (16 * ceilDiv m 4 + 64 * m))
  | 0x42 => withList { p with opA := BitVec.ofNat 128 (leAt b 0 16) } (b.drop 16)
  | 0x43 => { p with body := b }
  | 0x44 => withList p b
  | 0x48 => { p with value := BitVec.ofNat 64 (leAt b 0 8) }
  | _ => p

/-- The packet types that may travel on the fabric (Table 12.6). -/
def fabricType (t : Nat) : Bool :=
  (t ≤ 0x0B) || (0x10 ≤ t && t ≤ 0x13) || t = 0x18 || (0x20 ≤ t && t ≤ 0x25) || (0x28 ≤ t && t ≤ 0x2F) ||
  (0x30 ≤ t && t ≤ 0x34) || t = 0x38 || t = 0x39 || (0x40 ≤ t && t ≤ 0x48) || (0x60 ≤ t && t ≤ 0x62)

/-- Whether LEN agrees with the body (R383). -/
def lenAgrees (p : Packet) : Bool :=
  if linkLocal p.ptype.toNat then true else
  if p.ptype = 0x41 then
    let lst := if pktCombined p then ceilDiv (p.aux.toNat + 1) 2 else 0
    let n := dataLines (p.len.toNat - 2 - lst)
    decide (p.len.toNat = 2 + lst + ceilDiv n 4 + 4 * n)
  else decide (p.len.toNat = pktLen false p)

/-- The packets at the front of a slot stream, the slots that are left, and the header of each packet discarded for its
TYPE or its LEN (R383). The stream of a packet whose LEN is below 2 is taken slot by slot. -/
def readSlots : Nat → List Byte → List Packet × List Byte × List Packet
  | 0, b => ([], b, [])
  | f + 1, b =>
    if b.length < 16 then ([], b, []) else
    let t := leAt b 0 1
    if linkLocal t then
      let r := readSlots f (b.drop 16)
      let p : Packet := { ptype := BitVec.ofNat 8 t, len := 1, body := (b.drop 2).take 14 }
      (if t = 0 then r.1 else p :: r.1, r.2.1, r.2.2)
    else if b.length < 32 then ([], b, [])
    else
      let h := readHeader b
      let n := 16 * max 1 h.len.toNat
      if b.length < n then ([], b, []) else
      let r := readSlots f (b.drop n)
      if fabricType t && lenAgrees h then (readBody h ((b.take n).drop 32) :: r.1, r.2.1, r.2.2)
      else (r.1, r.2.1, h :: r.2.2)

end Sys2Proof.Machine
end

