-- ==== Sys2Proof/Machine/Ops.lean ====
section
/-! DEFINITION. The operations every meaning is written over: updates of one group of the state, what leaves the
device, the meters, the wakes, the lines of the store, the arrival counters and their waits, the completions, and the
Barker. -/

namespace Sys2Proof.Machine

/-! ### Updates of one group -/

/-- Updates the power group. -/
def modPower (f : Power → Power) (s : State) : State := { s with power := f s.power }
/-- Updates the rigging. -/
def modRig (f : Rig → Rig) (s : State) : State := { s with rig := f s.rig }
/-- Updates the translation state. -/
def modXlat (f : Xlat → Xlat) (s : State) : State := { s with xlat := f s.xlat }
/-- Updates the store and its Carousels. -/
def modMem (f : Mem → Mem) (s : State) : State := { s with mem := f s.mem }
/-- Updates the INTEG block. -/
def modInteg (f : Integ → Integ) (s : State) : State := { s with integ := f s.integ }
/-- Updates the home agent. -/
def modHome (f : Home → Home) (s : State) : State := { s with home := f s.home }
/-- Updates the ORDER block. -/
def modOrder (f : Order → Order) (s : State) : State := { s with order := f s.order }
/-- Updates the Trapeze ports. -/
def modFab (f : Fab → Fab) (s : State) : State := { s with fab := f s.fab }
/-- Updates the UCIe adapters. -/
def modUcie (f : Ucie → Ucie) (s : State) : State := { s with ucie := f s.ucie }
/-- Updates the Barker. -/
def modBarker (f : Barker → Barker) (s : State) : State := { s with barker := f s.barker }
/-- Updates the Ringmaster. -/
def modMgmt (f : Mgmt → Mgmt) (s : State) : State := { s with mgmt := f s.mgmt }
/-- Updates the commands in flight. -/
def modCmds (f : List Cmd → List Cmd) (s : State) : State := { s with cmds := f s.cmds }
/-- Updates the queue pairs. -/
def modQps (f : Tab Qp → Tab Qp) (s : State) : State := { s with qps := f s.qps }
/-- Updates the partitions. -/
def modParts (f : Tab Part → Tab Part) (s : State) : State := { s with parts := f s.parts }
/-- Updates the Booths. -/
def modBooths (f : Tab BoothSt → Tab BoothSt) (s : State) : State := { s with booths := f s.booths }
/-- Updates the meter banks. -/
def modBanks (f : Tab Bank → Tab Bank) (s : State) : State := { s with banks := f s.banks }
/-- Appends to what has left the device. -/
def emit (o : Out) (s : State) : State := { s with outbox := s.outbox ++ [o] }

/-- A queue pair's registers. -/
def getQp (s : State) (q : Nat) : Qp := Tab.get {} s.qps q
/-- Updates one queue pair. -/
def modQp (q : Nat) (f : Qp → Qp) (s : State) : State := modQps (fun t => Tab.insert t q (f (Tab.get {} t q))) s
/-- A partition's state. -/
def getPart (s : State) (p : Nat) : Part := Tab.get {} s.parts p
/-- Updates one partition. -/
def modPart (p : Nat) (f : Part → Part) (s : State) : State := modParts (fun t => Tab.insert t p (f (Tab.get {} t p))) s
/-- A Booth's state. -/
def getBooth (s : State) (b : Nat) : BoothSt := Tab.get {} s.booths b
/-- Updates one Booth. -/
def modBooth (b : Nat) (f : BoothSt → BoothSt) (s : State) : State :=
  modBooths (fun t => Tab.insert t b (f (Tab.get {} t b))) s
/-- A link's state. -/
def getLink (s : State) (l : Nat) : Link := Tab.get {} s.fab.links l
/-- Updates one link. -/
def modLink (l : Nat) (f : Link → Link) (s : State) : State :=
  modFab (fun x => { x with links := Tab.insert x.links l (f (Tab.get {} x.links l)) }) s
/-- A port's lists. -/
def getPort (s : State) (p : Nat) : PortSt := Tab.get {} s.fab.ports p
/-- Updates one port's lists. -/
def modPort (p : Nat) (f : PortSt → PortSt) (s : State) : State :=
  modFab (fun x => { x with ports := Tab.insert x.ports p (f (Tab.get {} x.ports p)) }) s
/-- A site's state. -/
def getSite (s : State) (k : Nat) : Site := Tab.get {} s.ucie.sites k
/-- Updates one site. -/
def modSite (k : Nat) (f : Site → Site) (s : State) : State :=
  modUcie (fun x => { x with sites := Tab.insert x.sites k (f (Tab.get {} x.sites k)) }) s
/-- A meter bank. -/
def getBank (s : State) (n : Nat) : Bank := Tab.get {} s.banks n
/-- Updates one meter bank. -/
def modBank (n : Nat) (f : Bank → Bank) (s : State) : State :=
  modBanks (fun t => Tab.insert t n (f (Tab.get {} t n))) s
/-- The registers of a stack. -/
def getStack (s : State) (k : Nat) : MemStack := Tab.get {} s.mem.channels k
/-- Updates the registers of one stack. -/
def modStack (k : Nat) (f : MemStack → MemStack) (s : State) : State :=
  modMem (fun x => { x with channels := Tab.insert x.channels k (f (Tab.get {} x.channels k)) }) s
/-- A group's pair state. -/
def getMirror (s : State) (g : Nat) : Mirror := Tab.get {} s.integ.mirrors g
/-- Updates one group's pair state. -/
def modMirror (g : Nat) (f : Mirror → Mirror) (s : State) : State :=
  modInteg (fun x => { x with mirrors := Tab.insert x.mirrors g (f (Tab.get {} x.mirrors g)) }) s
/-- An arrival counter. -/
def getCtr (s : State) (n : Nat) : Word := Tab.get 0 s.order.ctrs n
/-- Sets an arrival counter. -/
def setCtr (n : Nat) (v : Word) (s : State) : State :=
  modOrder (fun x => { x with ctrs := Tab.put 0 x.ctrs n v }) s

/-- Applies an update when a condition holds. -/
def whenS (b : Bool) (f : State → State) (s : State) : State := if b then f s else s

/-- Applies an update for each entry of a list, in order. -/
def eachS {α : Type} (l : List α) (f : α → State → State) (s : State) : State := l.foldl (fun s a => f a s) s

/-- The next free value the manual leaves undefined (log 5), and the state that has drawn it. -/
def drawFree (s : State) : Word × State := (Config.freeWord s.freeCount, { s with freeCount := s.freeCount + 1 })

/-! ### Meters (R508 to R511) -/

/-- The start of a bank's current window. -/
def bankFrom (b : Bank) : Nat := b.from_

/-- The cycle at which a bank's current window ends (R510). -/
def windowEnd (b : Bank) : Nat := b.start + ((bankFrom b - b.start) / max 1 b.window + 1) * max 1 b.window

/-- Reports the window of a bank that ends at a cycle (R510). -/
def closeWindow (at_ : Nat) (b : Bank) : Bank :=
  { b with last := b.cur, cur := [], lastFrom := bankFrom b, lastEnd := at_, from_ := at_,
           lastIndex := BitVec.ofNat 64 ((bankFrom b - b.start) / max 1 b.window) }

/-- A bank at a cycle: the windows that have ended by then are reported, the last of them standing in the LAST counters (R31, R510). -/
def rollBank (now : Nat) (b : Bank) : Bank :=
  if !b.isOpen || now < windowEnd b then b else
  let b := closeWindow (windowEnd b) b
  if now < windowEnd b then b else
  let at_ := b.start + (now - b.start) / max 1 b.window * max 1 b.window
  closeWindow at_ { b with from_ := at_ - max 1 b.window }

/-- Charges an amount of an event to a bank at an event time: to the current window, or to the last one when the time falls
in it (R31, R509). -/
def chargeBank (e amount time : Nat) (b : Bank) : Bank :=
  if !b.isOpen || !b.events.testBit e then b
  else if bankFrom b ≤ time then { b with cur := Tab.insert b.cur e (satAdd 64 (Tab.get 0 b.cur e) amount) }
  else if b.lastFrom ≤ time && time < b.lastEnd then { b with last := Tab.insert b.last e (satAdd 64 (Tab.get 0 b.last e) amount) }
  else b

/-- The bank of a partition under maps (R509). -/
def bankOf (m : Maps) (p : Nat) : Option Nat := (Tab.find m.parts p).map PartRec.meterBank

/-- Charges an event to the partition's bank under the maps of an epoch, at an event time (R509). -/
def charge (p epoch e amount time : Nat) (s : State) : State :=
  match bankOf (mapsAt s epoch) p with
  | some n => modBank n (fun b => chargeBank e amount time (rollBank s.now b)) s
  | none => s

/-- The per-cycle events of a METER cycle: the CURTAIN cycles of the partitions, the BOOTH cycles, four to a METER cycle, of the Booths
that have a command in execution (Table 16.7). -/
def chargeCycle (s : State) : State :=
  let asleep := (s.parts.filter fun e => e.2.pstate = .curtain || e.2.pstate = .waking).map Prod.fst
  let busy (b : Nat) : Option Cmd := s.cmds.find? fun c => c.booth = b && c.begun
  let s := eachS asleep (fun p s => charge p s.rig.epoch 13 1 s.now s) s
  eachS ((List.range 40).filterMap busy) (fun c s => charge c.part c.epoch 5 4 s.now s) s

/-- The Carousels' slots in a METER cycle: of the four slots of a trained stack, those that served a channel other than their own are a free number
(R109, R136, Table 4.11, log 50). -/
def slotCycle (s : State) : State :=
  eachS ((List.range 20).filter fun k => (getStack s k).trained)
    (fun k s => modStack k (fun x => { x with reassigned := satAdd 32 x.reassigned (min 4 (drawFree s).1.toNat) }) (drawFree s).2) s

/-- The flits that the Adapters of ACTIVE sites replay in a METER cycle: a free number (Table 13.8, log 23). -/
def replayCycle (s : State) : State :=
  eachS ((List.range 4).filter fun k => decide ((getSite s k).st = .active))
    (fun k s => modSite k (fun x => { x with replays := satAdd 32 x.replays (drawFree s).1.toNat }) (drawFree s).2) s

/-- Charges an event of a request. -/
def chargeReq (r : Req) (e amount : Nat) (s : State) : State := charge r.part r.epoch e amount r.time s

/-- Opens a series of windows of a bank for a METER record (R510). -/
def openBank (n : Nat) (r : MeterRec) (s : State) : State :=
  modBank n (fun b =>
    let b := rollBank s.now b
    let b := if b.isOpen then closeWindow s.now b else b
    { b with isOpen := true, start := s.now, from_ := s.now, window := r.window, events := r.events, part := r.part, cur := [] }) s

/-! ### The Turnstile (R473 to R475, R479) -/

/-- A partition's allowance in amperes: 12 per Booth and 2 per channel group (R473). -/
def allowance (m : Maps) (p : Nat) : Nat :=
  12 * (m.booths.filter fun (_, r) => r.part = p).length + 2 * (m.groups.filter fun (_, o) => o = p).length

/-- Whether a partition sleeps: entering CURTAIN, in it or waking (R463 to R466). -/
def sleeping (s : State) (p : Nat) : Bool := (getPart s p).pstate ≠ .on

/-! ### Links and sites: sending -/

/-- Whether a link is ACTIVE. -/
def linkUp (s : State) (l : Nat) : Bool := (getLink s l).st = .active

/-- Whether a packet arrives on a link: the link is ACTIVE, or the packet waits in its ingress since it was (R379). -/
def arrives (s : State) (l : Nat) (p : Packet) : Bool := linkUp s l || (getLink s l).ingress.head? = some p

/-- The lanes of a link that carry traffic. -/
def linkWidth (s : State) (l : Nat) : Nat := popCount (getLink s l).active.toNat 8

/-- The request Tickets of a link for a partition: its share (R386). -/
def linkShare (m : Maps) (l p : Nat) : Nat :=
  match Tab.find m.ports (l / 2) with
  | some r => r.share.getD p 0
  | none => 0

/-- The list L of R388 over the links that a test admits. -/
def linkList (s : State) (ok : Nat → Bool) : List Nat :=
  (List.range 8).flatMap fun j => (List.range 16).filter fun l => linkUp s l && decide (j < linkWidth s l) && ok l

/-- The choice of R388 from a list of links. -/
def pickLink (l : List Nat) (node off : Nat) : Option Nat :=
  if l.isEmpty then none else
  let y := bits off 12 30 ^^^ node
  let h := y ^^^ (y >>> 6) ^^^ (y >>> 12)
  l[h % l.length]?

/-- Whether a link holds no unreachable mark for a node (R390). -/
def unmarked (s : State) (node l : Nat) : Bool := !(getLink s l).marks.contains node

/-- The link for a request of a partition under maps (R388, R54). -/
def requestLink (s : State) (m : Maps) (p node off : Nat) : Option Nat :=
  pickLink (linkList s fun l => decide (0 < linkShare m l p) && unmarked s node l) node off

/-- The link for a mirror, pair, coherence or redirected packet (R388, R389). -/
def anyLink (s : State) (node off : Nat) : Option Nat := pickLink (linkList s (unmarked s node)) node off

/-- The link of a response: the one the request came on while it is ACTIVE (R389). -/
def responseLink (s : State) (l node off : Nat) : Option Nat := if linkUp s l then some l else anyLink s node off

/-- The largest number of flits a sender keeps (R377). -/
def retryFlits : Nat := 1024

/-- A flit leaves, with its sequence number and payload and the link's ACK_SEQ and NAK: coded, spread over the active lanes, scrambled and
mapped to levels (R370 to R373). -/
def putFlit (l : Nat) (f : Nat × List Byte) (s : State) : State :=
  let x := getLink s l
  let d := List.zipWith scramble x.tx (stripe x.tx.length (makeFlit (linkCtrl f.1 x.rxAck x.nakOwed 0) f.2))
  emit (.flit l f.1 x.rxAck x.nakOwed (d.map fun e => e.1.flatMap byteLevels))
    (modLink l (fun y => { y with tx := d.map Prod.snd, nakOwed := false }) s)

/-- Puts a payload of 256 bytes in a link's retry buffer and sends it in a flit, once it is among the flits that fit (R377). -/
def sendFlit (l : Nat) (payload : List Byte) (s : State) : State :=
  let x := getLink s l
  let s := modLink l (fun y =>
    { y with
      unacked := y.unacked ++ [(y.txSeq, payload)]
      tries := y.tries ++ [0]
      txSeq := (y.txSeq + 1) % 4096
      ackAt := if y.unacked.isEmpty then s.now else y.ackAt }) s
  whenS (decide (x.unacked.length < retryFlits)) (putFlit l (x.txSeq, payload)) s

/-- The links that have no packet to send send a flit of NULL slots, so that acknowledgements keep flowing (R377, log 54). -/
def idleFlits (s : State) : State :=
  eachS ((List.range 16).filter fun l => linkUp s l && decide ((getLink s l).unacked.length < retryFlits)) (fun l s => sendFlit l (List.replicate 256 0) s) s

/-- Whether METER counts: once the clocks have started, and through a brown-out recovery (R471, R483). -/
def metering (p : Power) : Bool := p.phase = .clocked || (p.phase = .strapped && p.recovering)

/-- Whether the meter banks run: not in DARK, from its entry to its exit (R470, R511). -/
def banksRun (p : Power) : Bool := p.pllLocked && (p.dark = .no || p.dark = .entering)

/-- One METER cycle passes, once the clocks run; while the root PLL is stopped the banks stand still, and one AON cycle passes, at which METER
advances by 20 (R471, R511, log 1). -/
def tick (s : State) : State :=
  if !metering s.power then s
  else if s.power.pllLocked then
    let s := idleFlits (replayCycle (slotCycle (whenS (banksRun s.power) chargeCycle s)))
    { s with now := s.now + 1 }
  else { s with now := s.now + 20 }

/-- The payloads of a run of slots, padded with NULL slots to whole flits (log 10). -/
def payloads (b : List Byte) : List (List Byte) := (chunks 256 (b.length / 256 + 1) b).map (padTo 256)

/-- The moment at which a request or a mirror packet of this device leaves: its timers run from it (Table 12.14, R159, R232). -/
def markSent (p : Packet) (s : State) : State :=
  let t := p.ptype.toNat
  let upd (now : Nat) (o : Outst) : Outst :=
    if o.tag = bits p.tag.toNat 0 20 && o.pkt.dstNode = p.dstNode then
      { o with sent := true, restart := false, firstAt := if o.sent && !o.restart then o.firstAt else now, lastAt := now,
               unbounced := o.unbounced ++ [now] }
    else o
  if t ≤ 0x13 then modFab (fun x => { x with outst := x.outst.map (upd s.now) }) s
  else if 0x30 ≤ t ∧ t ≤ 0x34 then
    modInteg (fun x => { x with ops := x.ops.map fun o => if o.tag = bits p.tag.toNat 0 20 then { o with sentAt := s.now } else o }) s
  else s

/-- Whether a flit of a link's retry buffer, the last of a packet, is not acknowledged. -/
def Link.inFlight (x : Link) (seq : Nat) : Bool := x.unacked.any fun f => f.1 = seq

/-- A packet leaves on a link (R380); a request is kept by the sequence of its last flit (R379). -/
def transmit (l : Nat) (p : Packet) (s : State) : State :=
  let s := eachS (payloads (packetBytes p)) (sendFlit l) (markSent p (emit (.link l p) s))
  let keep (x : Link) : Link :=
    { x with carries := (x.carries.filter fun e => x.inFlight e.1) ++ [((x.txSeq + 4095) % 4096, bits p.tag.toNat 0 20)] }
  whenS (decide (p.ptype.toNat ≤ 0x13)) (modLink l keep) s

/-- The credits a link holds for a class. -/
def creditOf (x : Link) (c : Nat) : Nat × Nat := x.credits.getD c (0, 0)

/-- Whether a packet may draw the reserved part of its class: one sent again with GRANTED, after CHECK_RESEND or a grant, or a read that is sent again
since its data failed its carried check, MIRROR_RD among them (R384, R392). -/
def drawsReserved (s : State) (p : Packet) : Bool :=
  pktGranted p || (pktResend p &&
    (s.fab.outst.any (fun o => o.tag = bits p.tag.toNat 0 20 && isReadType o.pkt.ptype.toNat && isReadType p.ptype.toNat && o.again.isSome) ||
     s.integ.ops.any (fun o => o.tag = bits p.tag.toNat 0 20 && p.ptype = 0x32 && o.again.isSome)))

/-- Whether a link takes another packet now: it is ACTIVE, and its retry buffer has room for the packet's flits (R377). -/
def linkRoom (x : Link) (p : Packet) : Bool :=
  decide (x.st = .active) && decide (x.unacked.length + (payloads (packetBytes p)).length ≤ retryFlits)

/-- The classes in the order a link serves them: RSP, then SNP, MIR, REQ and MGT round robin from a turn (R387). -/
def classOrder (turn : Nat) : List Nat := 1 :: (List.range 4).map fun i => [2, 3, 0, 4].getD ((turn + i) % 4) 0

/-- The turn after a packet of a class: RSP takes none (R387). -/
def turnAfter (c turn : Nat) : Nat :=
  match c with
  | 2 => 1
  | 3 => 2
  | 0 => 3
  | 4 => 0
  | _ => turn

/-- Spends a packet's credits, when the link holds them: the general part when it can, else the reserved part where the packet may (R384). Its class
has then had its turn (R387). -/
def spendCredit (x : Link) (p : Packet) (res : Bool) : Option Link :=
  let c := pktClass p
  let n := p.len.toNat
  let g := creditOf x c
  let room := linkRoom x p
  let x := { x with turn := turnAfter c x.turn }
  if !room then none
  else if n ≤ g.1 then some { x with credits := x.credits.set c (g.1 - n, g.2) }
  else if res && n ≤ g.2 then some { x with credits := x.credits.set c (g.1, g.2 - n) }
  else none

/-- Whether a packet of a link that waits keeps another from leaving: one of its class, unless only the other may draw the reserved
part (R23, R384). -/
def keepsBack (s : State) (p q : Packet) : Bool := pktClass q = pktClass p && (!drawsReserved s p || drawsReserved s q)

/-- Hands a packet to a link: it leaves when its credits and the retry buffer allow and no packet keeps it back, else it waits (R20, R377,
R384). -/
def sendOn (l : Nat) (p : Packet) (s : State) : State :=
  let p := { p with len := BitVec.ofNat 16 (if p.len.toNat ≤ 2 then pktLen false p else p.len.toNat) }
  let x := getLink s l
  if x.waiting.any (keepsBack s p) then modLink l (fun y => { y with waiting := y.waiting ++ [p] }) s
  else match spendCredit x p (drawsReserved s p) with
    | some y => transmit l p (modLink l (fun _ => y) s)
    | none => modLink l (fun y => { y with waiting := y.waiting ++ [p] }) s

/-- The cycle at which a request of this device was first issued. -/
def firstIssue (s : State) (p : Packet) : Nat :=
  match s.fab.outst.find? fun o => o.tag = bits p.tag.toNat 0 20 with
  | some o => o.time
  | none => 0

/-- The packet that was issued first of a list, the earlier in the list of two of one cycle (R23). -/
def oldestPacket (s : State) (ps : List Packet) : Option Packet :=
  ps.foldl (fun b p => match b with | some q => if firstIssue s p < firstIssue s q then some p else b | none => some p) none

/-- The packet a link sends next of those that wait, and the link once its credits are spent: of the classes in their order, the first whose
oldest packet has its credits, or whose first issued packet that may draw the reserved part has them (R23, R384, R387). -/
def nextWaiting (s : State) (x : Link) : Option (Packet × Link) :=
  (classOrder x.turn).findSome? fun c =>
    let ps := x.waiting.filter fun q => pktClass q = c
    let spend (p : Option Packet) : Option (Packet × Link) := p.bind fun p => (spendCredit x p (drawsReserved s p)).map fun y => (p, y)
    (spend ps.head?).orElse fun _ => spend (oldestPacket s (ps.filter (drawsReserved s)))

/-- Sends what the credits now allow (R387). -/
def pumpCredits : Nat → Nat → State → State
  | 0, _, s => s
  | n + 1, l, s =>
    match nextWaiting s (getLink s l) with
    | none => s
    | some (p, y) => pumpCredits n l (transmit l p (modLink l (fun _ => { y with waiting := y.waiting.erase p }) s))

/-- The maps that the request under execution follows, the current ones between requests (R54). -/
def viewMaps (s : State) : Maps := match s.rig.view with | some e => mapsAt s e | none => s.rig.cur

/-- Whether a site passes the line check to its die (Table 2.4, R417). -/
def passCheck (s : State) (k : Nat) : Bool :=
  match Tab.find (viewMaps s).sites k with
  | some r => r.passCheck
  | none => false

/-- A packet as a site die sees it: the fields of the fabric's header are 0 (R415), and the checks of coherence data go where the site passes them
(R143, R417). -/
def sitePkt (s : State) (k : Nat) (p : Packet) : Packet :=
  let p := { p with srcNode := 0, dstNode := 0, part := 0, epoch := 0, jobKey := 0, grantId := 0 }
  if p.ptype = 0x28 || p.ptype = 0x29 then
    { p with checks := if passCheck s k then p.checks else [], len := BitVec.ofNat 16 (pktLen (!passCheck s k) p) }
  else { p with len := BitVec.ofNat 16 (if p.len = 0 then 2 else p.len.toNat) }

/-- The class whose credits a packet to a site die spends: SNP for probes, none for CREDIT, RSP for all else (R419, log 21). -/
def outClass (p : Packet) : Option Nat :=
  if p.ptype = 0x60 then none else if 0x20 ≤ p.ptype.toNat ∧ p.ptype.toNat ≤ 0x23 then some 2 else some 1

/-- Spends the credits of a packet to a site die, when the site has advertised or returned them (R20, R419). -/
def spendSite (x : Site) (p : Packet) : Option Site :=
  match outClass p with
  | none => some x
  | some c =>
    let g := x.credits.getD c (0, 0)
    if p.len.toNat ≤ g.1 then
      some { x with credits := (List.range 4).map fun i => if i = c then (g.1 - p.len.toNat, g.2) else x.credits.getD i (0, 0) }
    else none

/-- A packet leaves for a site die; the time of a miss runs from when its message leaves (R97). -/
def leaveSite (k : Nat) (p : Packet) (s : State) : State :=
  let mine (m : Miss) : Bool := p.ptype = 0x72 && leAt p.body 0 1 = 0x40 && m.site = k && m.booth = leAt p.body 1 1 && m.slot = leAt p.body 4 1
  modXlat (fun x => { x with misses := x.misses.map fun m => if mine m then { m with sentAt := s.now } else m }) (emit (.site k p) s)

/-- Sends a packet to a site die once its credits allow; one that meets a site that is not ACTIVE is discarded (R20, R419, R423). -/
def toSite (k : Nat) (p : Packet) (s : State) : State :=
  let p := sitePkt s k p
  let x := getSite s k
  if x.st ≠ .active then s
  else if x.waiting.any (fun q => (outClass p).isSome && outClass q = outClass p) then modSite k (fun x => { x with waiting := x.waiting ++ [p] }) s
  else match spendSite x p with
    | some y => leaveSite k p (modSite k (fun _ => y) s)
    | none => modSite k (fun x => { x with waiting := x.waiting ++ [p] }) s

/-- Sends what a site's credits now allow, each class in its order (R20, R419). -/
def pumpSite : Nat → Nat → State → State
  | 0, _, s => s
  | n + 1, k, s =>
    let x := getSite s k
    match [1, 2].findSome? fun c => (x.waiting.find? fun q => outClass q = some c).bind fun p => (spendSite x p).map fun y => (p, y) with
    | none => s
    | some (p, y) => pumpSite n k (leaveSite k p (modSite k (fun _ => { y with waiting := y.waiting.erase p }) s))

/-- The ingress class of a packet from a site: REQ, RSP, SNP, MGT (Table 13.4). -/
def siteClass (t : Nat) : Nat :=
  if t = 0x0A ∨ t = 0x0B then 3 else if t = 0x18 then 2 else if (0x28 ≤ t ∧ t ≤ 0x2F) ∨ t = 0x72 then 1 else 0

/-- A CREDIT for the slots owed to a site die (R385, R419). -/
def siteCredit (k : Nat) (s : State) : State :=
  let b := (getSite s k).owed.flatMap (leBytes 2)
  toSite k { ptype := 0x60, len := 1, body := b } (modSite k (fun x => { x with owed := [0, 0, 0, 0], owedAt := none }) s)

/-- A packet of a type and a length leaves a site's ingress: its slots are owed to the die, and a CREDIT leaves when 64 or more of a class are
(R385, R419). -/
def oweSite (k t n : Nat) (s : State) : State :=
  let x := getSite s k
  let owed := x.owed.set (siteClass t) (x.owed.getD (siteClass t) 0 + n)
  let s := modSite k (fun x => { x with owed := owed, owedAt := some (x.owedAt.getD s.now) }) s
  whenS (owed.any fun n => 64 ≤ n) (siteCredit k) s

/-! ### The lines of the store -/

/-- A line of the store. -/
def getLine (s : State) (l : Nat) : Line := Tab.get (Memory.blank s.mem l) s.mem.lines l

/-- Puts a line in the store. -/
def putLine (l : Nat) (v : Line) (s : State) : State :=
  modMem (fun x => { x with lines := Tab.put (Memory.blank x l) x.lines l v }) s

/-- A change of the move records, or of the form of the lines that nothing has written: a listed line that then reads as an unlisted one is
listed no more. -/
def modForms (f : Mem → Mem) (s : State) : State :=
  modMem (fun x => { f x with lines := Tab.trim (Memory.blank (f x)) (f x).lines }) s

/-- A change of the move records. -/
def modMoves (f : List MoveRec → List MoveRec) (s : State) : State := modForms (fun x => { x with moves := f x.moves }) s

/-- The canonical global address of a line of this node (R77). -/
def ownAddr (s : State) (l : Nat) : Word := BitVec.ofNat 64 (globalAddr (thisNode s) (l * 64))

/-- The check address of a line: for a copy of a mirrored line the global address at the home where it was first mirrored, else its own
(R77, R140). -/
def checkAddr (s : State) (l : Nat) : Word := (getLine s l).at_.getD (ownAddr s l)

/-- CHECK of a line. -/
def lineCheckOf (s : State) (l : Nat) (v : Line) : BitVec 32 := v.flip ^^^ lineCheck (checkAddr s l) v.data

/-- The attributes of a line's page; under a move record, the new ones below its pointer (R357, R360). -/
def attrOf (s : State) (l : Nat) : PageAttr :=
  match s.mem.moves.find? fun m => m.page ≤ pageOfLine l && pageOfLine l < m.page + m.pages with
  | some m => if l < m.ptr then m.attr else m.old.getD (pageOfLine l - m.page) {}
  | none => Tab.get {} s.mem.attrs (pageOfLine l)

/-- Whether a line's channel is usable (R105). -/
def channelUp (s : State) (l : Nat) : Bool := (getStack s (stackOfLine l)).up.getLsbD (channelOfLine l)

/-- Executes a request of an epoch: everything it looks up stands in the maps of that epoch (R54). -/
def under (epoch : Nat) (f : State → State) (s : State) : State :=
  modRig (fun x => { x with view := s.rig.view }) (f (modRig (fun x => { x with view := some epoch }) s))

/-- The partition that owns a line. -/
def lineOwner (s : State) (l : Nat) : Option Nat := groupOwner (viewMaps s) (groupOfLine l)

/-- The key of a line's owner: its key slot, when its ENCRYPT flag is 1 and the slot holds a key (R114, R115). -/
def ownerKey (s : State) (l : Nat) : Option (BitVec 512) :=
  match (lineOwner s l).bind (Tab.find (viewMaps s).parts) with
  | some r => if r.encrypt then Tab.find s.mgmt.keys r.keySlot else none
  | none => none

/-- Whether an ENCRYPT page cannot be accessed for want of a key (R115). -/
def keyMissing (s : State) (l : Nat) : Bool := (attrOf s l).encrypt && (ownerKey s l).isNone

/-- The key a line written now is stored under. -/
def storeKey (s : State) (l : Nat) : Option (BitVec 512) := if (attrOf s l).encrypt then ownerKey s l else none

/-- The metadata word of a line (Table 4.2). -/
def metaWord (s : State) (l : Nat) (v : Line) : Word :=
  BitVec.ofNat 64 (pack [(32, 32, (lineCheckOf s l v).toNat), (20, 12, v.seq.toNat), (8, 12, v.dir.toNat),
    (7, 1, bit v.poison), (4, 3, v.reason), (2, 2, v.tier)])

/-- The lines of a block, in order. -/
def blockLines (l : Nat) : List Nat := (List.range 4).map fun i => blockOfLine l + i

/-- Whether the block of a line stands in compressed form. -/
def blockCompressed (s : State) (l : Nat) : Bool := (getLine s (blockOfLine l)).tier = 1

/-- The bytes after decryption under the key in force of what encryption under the key of writing made of them (R114). -/
def rekey (was now : Option (BitVec 512)) (tweak : Word) (b : List Byte) : List Byte :=
  let stored := match was with | some k => xtsEncrypt k tweak b | none => b
  match now with | some k => xtsDecrypt k tweak stored | none => stored

/-- The lines that a read of a compressed block yields under another key than the one it was written under: its image from granule 1 on is
deciphered as one data unit and decoded; none when it does not decode (R114, R127). Granule 0, the metadata, is not enciphered. -/
def blockView (s : State) (l : Nat) (now : Option (BitVec 512)) : Option (List LineData) :=
  let v := getLine s (blockOfLine l)
  (elemOf v.fmt).bind fun f =>
    (encodeBlock f (List.replicate 4 0) ((blockLines l).map fun n => (getLine s n).data)).bind fun im =>
      (decodeBlock f (im.length / 32) (im.take 32 ++ rekey v.key now (checkAddr s (blockOfLine l) ||| 1) (im.drop 32))).map Prod.snd

/-- The plaintext a read of a stored line yields: its own where the key is the one it was written under, else what
decryption under the key in force makes of the stored bytes; none when a compressed block no longer decodes (R114, R127). -/
def viewLine (s : State) (l : Nat) (v : Line) : Option LineData :=
  let k := storeKey s l
  if v.key = none ∨ v.key = k then some v.data
  else if blockCompressed s l then (blockView s l k).map fun ds => ds.getD (l % 4) 0
  else some (lineOf (rekey v.key k (checkAddr s l) (lineBytes v.data)))

/-- The data a read of a stored line yields; a decode failure yields zeros, which no read delivers (R127, R147). -/
def viewData (s : State) (l : Nat) (v : Line) : LineData := (viewLine s l v).getD 0

/-- Whether a line decodes and the check finished over what a read yields matches CHECK (R127, R147). -/
def checkOk (s : State) (l : Nat) (v : Line) : Bool :=
  match viewLine s l v with
  | some d => decide (lineCheck (checkAddr s l) d = lineCheckOf s l v)
  | none => false

/-- The TIER of a line stored plain in a page (Table 4.2, R131). -/
def plainTier (s : State) (l : Nat) : Nat :=
  match (attrOf s l).tier with
  | 0 => 0
  | 5 => 3
  | _ => if s.power.compatA then 0 else 2

/-- A line of a block stored anew in a form: its data as a read yields it and its CHECK, under the key in force (R113, R114). -/
def restored (s : State) (n tier : Nat) : Line :=
  let v := getLine s n
  let d := viewData s n v
  { v with data := d, flip := lineCheckOf s n v ^^^ lineCheck (checkAddr s n) d, tier := tier, key := storeKey s n,
           fmt := if tier = 1 then (attrOf s n).tier else 0 }

/-- Stores a block anew: compressed where its page is T1, COMPAT_A is low and the image fits 6 granules, else plain,
with the counts of R134 (R124, R129, R131). -/
def rewriteBlock (l : Nat) (s : State) : State :=
  let ls := blockLines l
  let put (t : Nat) (s : State) : State := eachS (ls.map fun n => (n, restored s n t)) (fun e s => putLine e.1 e.2 s) s
  match if s.power.compatA then none else elemOf (attrOf s l).tier with
  | none => put (plainTier s l) s
  | some f =>
    match encodeBlock f (ls.map fun n => metaWord s n (getLine s n)) (ls.map fun n => viewData s n (getLine s n)) with
    | some _ => modStack (stackOfLine l) (fun x => { x with compressed := satInc 32 x.compressed }) (put 1 s)
    | none => modStack (stackOfLine l) (fun x => { x with plain := satInc 32 x.plain }) (put 2 s)

/-- The block of a line stored in plain form (R150). -/
def plainBlock (l : Nat) (s : State) : State :=
  if blockCompressed s l then
    eachS ((blockLines l).map fun n => (n, restored s n (plainTier s n))) (fun e s => putLine e.1 e.2 s) s
  else s

/-- The global address of a line's copy at the other device of its pair, or at the old home after promotion (R160, R165). -/
def partnerAddr (s : State) (l : Nat) : Nat :=
  let m := getMirror s (groupOfLine l)
  globalAddr m.node ((m.group <<< 35) ||| (lineIndex l * 64))

/-- The check address a write leaves a line: a partner's copy keeps its own; in a promoted group it is the one at the home, whatever line of the
group (R140, R167, log 7); elsewhere it is the line's own global address. -/
def writtenAt (s : State) (l : Nat) : Option Word :=
  let m := getMirror s (groupOfLine l)
  let a := (getLine s l).at_
  if m.state = .promoted then some (a.getD (BitVec.ofNat 64 (partnerAddr s l))) else if m.partner then a else none

/-- A line with new data: SEQ advanced, POISON and REASON cleared, CHECK right, in plain form under the key in force (R107, R113, R118). -/
def freshLine (s : State) (l : Nat) (d : LineData) : Line :=
  let v := getLine s l
  { v with data := d, flip := 0, seq := v.seq + 1, poison := false, reason := 0, tier := plainTier s l, key := storeKey s l, fmt := 0,
           at_ := writtenAt s l }

/-- The store of new data in a line, in the form its block asks for: a compressed block is rewritten (R129). -/
def storeLine (l : Nat) (d : LineData) (s : State) : State :=
  if blockCompressed s l then let s := plainBlock l s; rewriteBlock l (putLine l (freshLine s l d) s)
  else putLine l (freshLine s l d) s

/-- The store of a whole aligned burst, encoded directly (R104, R129). -/
def storeBurst (l : Nat) (ds : List LineData) (s : State) : State :=
  let packed := blockCompressed s l
  let s := eachS (List.zip (blockLines l) ds) (fun (n, d) s => putLine n (freshLine s n d) s) s
  whenS (packed || (elemOf (attrOf s l).tier).isSome && !s.power.compatA) (rewriteBlock l) s

/-- POISON and REASON of a line set, alone (R130, R153); nothing reaches an unusable channel (R105). -/
def setPoison (l reason : Nat) (s : State) : State :=
  whenS (channelUp s l) (putLine l { getLine s l with poison := true, reason := reason }) s

/-- Why a line's Carousel takes no write: an unusable channel, a missing key (R105, R115). -/
def lineBar (s : State) (l : Nat) : Status := if !channelUp s l then .poisoned else if keyMissing s l then .protection else .ok

/-- The acceptance of a full line by its Carousel (R105, R115, R118). -/
def acceptFull (l : Nat) (d : LineData) (s : State) : Status × State :=
  if lineBar s l = .ok then (.ok, storeLine l d s) else (lineBar s l, s)

/-! ### Mirror packets of the home (R156, R157, R543) -/

/-- The code of a pair state (Table 5.21). -/
def pairCode : Pair → Nat
  | .none => 0 | .inStep => 1 | .broken => 2 | .resyncing => 3 | .promoted => 4

/-- The pair state of a code. -/
def pairOf (n : Nat) : Pair :=
  match n with
  | 1 => .inStep | 2 => .broken | 3 => .resyncing | 4 => .promoted | _ => .none

/-- Whether a line's writes go to a partner: its page is MIRROR and its group, in the home role, is IN_STEP or
RESYNCING. -/
def mirrored (s : State) (l : Nat) : Bool :=
  let m := getMirror s (groupOfLine l)
  (attrOf s l).mirror && !m.partner && (m.state = .inStep || m.state = .resyncing)

/-- The tag after the last one given, skipping those in use or held (R79, R232, R379). -/
def freshTag (s : State) : Nat :=
  let used := s.fab.outst.map Outst.tag ++ s.fab.tagHolds.map TagHold.tag ++ s.integ.ops.map MirrorOp.tag
  ((List.range (used.length + 1)).map fun i => (s.fab.nextTag + i) % 2 ^ 20).find? (fun t => !used.contains t) |>.getD 0

/-- The packet of a mirror line (Table 12.5). -/
def mirrorLinePkt (s : State) (ptype : Nat) (l : Nat) (sweep : Bool) : Packet :=
  let v := getLine s l
  let c := lineCheckOf s l v
  { ptype := BitVec.ofNat 8 ptype, srcNode := BitVec.ofNat 16 (thisNode s),
    dstNode := BitVec.ofNat 16 (getMirror s (groupOfLine l)).node, addr := BitVec.ofNat 64 (partnerAddr s l),
    aux := BitVec.ofNat 8 (pack [(0, 3, pairCode (getMirror s (groupOfLine l)).state), (3, 1, bit sweep)]),
    checks := [c], data := [v.data],
    body := leBytes 4 c.toNat ++ leBytes 2 v.seq.toNat ++ [0, 0] ++
      leBytes 8 (checkAddr s l).toNat }

/-- The packet of a mirror metadata write (Table 12.5, R155). -/
def mirrorMetaPkt (s : State) (l : Nat) (sweep : Bool) : Packet :=
  let v := getLine s l
  { ptype := 0x31, srcNode := BitVec.ofNat 16 (thisNode s),
    dstNode := BitVec.ofNat 16 (getMirror s (groupOfLine l)).node, addr := BitVec.ofNat 64 (partnerAddr s l),
    aux := BitVec.ofNat 8 (pack [(0, 3, pairCode (getMirror s (groupOfLine l)).state), (3, 1, bit sweep)]),
    body := [BitVec.ofNat 8 (bit v.poison), BitVec.ofNat 8 v.reason] ++ leBytes 6 0 ++ leBytes 8 (checkAddr s l).toNat }

/-- The mirror Tickets of a link (R386). -/
def mirrorTickets : Nat := 4096

/-- Whether a mirror packet must wait: for an earlier one of a line of its own, or for a mirror Ticket of its link (R158, R386). -/
def mirrorWaits (s : State) (link : Nat) (lines : List Nat) : Bool :=
  s.integ.ops.any (fun o => o.lines.any lines.contains) || mirrorTickets ≤ (s.integ.ops.filter fun o => o.sent && o.link = link).length

/-- A mirror packet leaves, on the link R388 gives, when it need not wait, and awaits its answer; with no link it awaits its timeout
(R159). -/
def sendMirror (g : Nat) (kind : MirrorKind) (lines : List Nat) (p : Packet) (reqs : List Req) (status : Status)
    (cmd : Option (Nat × Nat × Nat)) (s : State) : State :=
  let t := freshTag s
  let p := { p with tag := BitVec.ofNat 32 t }
  let l := anyLink s p.dstNode.toNat (offOf p.addr.toNat)
  let op : MirrorOp := { tag := t, link := l.getD 16, group := g, kind := kind, lines := lines, sentAt := s.now,
                         reqs := reqs, status := status, cmd := cmd, pkt := p, again := none, found := 0,
                         sent := !mirrorWaits s (l.getD 16) lines }
  let s := modFab (fun x => { x with nextTag := (t + 1) % 2 ^ 20 }) (modInteg (fun x => { x with ops := x.ops ++ [op] }) s)
  match l with
  | some l => whenS op.sent (sendOn l p) s
  | none => s

/-- The mirror packets that waited and need not any longer leave, in order (R158, R386). -/
def pumpMirror (s : State) : State :=
  eachS (s.integ.ops.filter fun o => !o.sent) (fun o s =>
    let before := s.integ.ops.takeWhile fun y => y.tag ≠ o.tag
    let l := anyLink s o.pkt.dstNode.toNat (offOf o.pkt.addr.toNat)
    if before.any (fun y => y.lines.any o.lines.contains) ||
        mirrorTickets ≤ (s.integ.ops.filter fun y => y.sent && y.link = l.getD 16).length then s
    else
      let s := modInteg (fun x => { x with ops := x.ops.map fun y =>
        if y.tag = o.tag then { y with sent := true, link := l.getD 16, sentAt := s.now } else y }) s
      match l with
      | some l => sendOn l o.pkt s
      | none => s) s

/-- A mirror packet leaves once more, on the link that R388 now gives (R145, R392). -/
def resendMirror (o : MirrorOp) (p : Packet) (s : State) : State :=
  pumpMirror (modInteg (fun x => { x with ops := x.ops.map fun y => if y.tag = o.tag then { y with pkt := p, sent := false, sentAt := s.now } else y }) s)

/-- Holds a line (R111, R148, R158). -/
def holdLine (l : Nat) (h : Hold) (s : State) : State := modMem (fun x => { x with holds := Tab.insert x.holds l h }) s

/-- Releases a line. -/
def freeLine (l : Nat) (s : State) : State := modMem (fun x => { x with holds := Tab.erase x.holds l }) s

/-- Whether a line is held. -/
def lineHeld (s : State) (l : Nat) : Bool := (Tab.find s.mem.holds l).isSome

/-- A change of POISON on a line goes to its partner (R155). -/
def mirrorPoison (l : Nat) (s : State) : State :=
  let g := groupOfLine l
  let m := getMirror s g
  if !m.partner && (m.state = .inStep || m.state = .resyncing) && (attrOf s l).mirror then
    holdLine l .mirror (sendMirror g .metadata [l] (mirrorMetaPkt s l false) [] .ok none s)
  else s

/-- Poisons a line with a reason, at home and partner (R153, R155); a line of an unusable channel takes no metadata write (R105). -/
def poisonLine (l reason : Nat) (s : State) : State := whenS (channelUp s l) (fun s => mirrorPoison l (setPoison l reason s)) s

/-! ### Read buffers (R212, R213) -/

/-- Removes lines of an address from a buffer list. -/
def dropLine (a : Nat) (l : List BufLine) : List BufLine := l.filter fun b => b.addr / 64 ≠ a / 64

/-- Empties the read buffer of a Booth; a read under way does not refill it (R220). -/
def emptyBoothBuf (b : Nat) (s : State) : State :=
  modCmds (fun l => l.map fun c => if c.booth = b then { c with access := c.access.map fun x => { x with fill := false } } else c)
    (modOrder (fun x => { x with boothBufs := Tab.erase x.boothBufs b }) s)

/-- Empties the read buffer of a site; a read under way does not refill it (R220). -/
def emptySiteBuf (k : Nat) (s : State) : State :=
  modFab (fun x => { x with outst := x.outst.map fun o => if o.origin = .site k then { o with nc := false } else o })
    (modOrder (fun x => { x with siteBufs := Tab.erase x.siteBufs k }) s)

/-! ### Completions (R243 to R245) -/

/-- A Booth's completion: into the pair that is held, held for the next, or handed to be written; counted as lost after
a completion write has failed (R243, R245, R263). DESIGN CHOICE, log 61: a command that ended with QP_ABORTED and whose completion is lost as well
counts twice in ABORTED (Table 8.15). -/
def pushCompl (q : Nat) (c : Compl) (s : State) : State :=
  let x := getQp s q
  if x.cqLost then modQp q (fun x => { x with aborted := satInc 8 x.aborted, notified := x.notified - 1, spent := x.spent - 1 }) s else
  let given := x.cqTail.toNat + x.writes.flatten.length + bit x.held.isSome
  match x.held with
  | some h => modQp q (fun x => { x with held := none, writes := x.writes ++ [[h, c]] }) s
  | none =>
    if x.cqPair && given % 2 = 0 then modQp q (fun x => { x with held := some c, heldAt := s.now }) s
    else modQp q (fun x => { x with writes := x.writes ++ [[c]] }) s

/-- The entry bytes of a command. -/
def cmdBytes (c : Cmd) : List Byte :=
  match c.entry with
  | some e => lineBytes e
  | none => []

/-- The completion of a command with what it says. -/
def complOf (s : State) (c : Cmd) (d : Done) : Compl :=
  let b := cmdBytes c
  { count := c.count, result := d.result, tag := BitVec.ofNat 32 (leAt b 4 4),
    sqIndex := c.count % 2 ^ (getQp s c.qp).sqLog, detail := d.detail, opcode := leAt b 0 1, status := d.status,
    effect := c.effect, epoch := c.epoch, time := c.time }

/-- A command in flight. -/
def findCmd (s : State) (q n : Nat) : Option Cmd := s.cmds.find? fun c => c.qp = q && c.count = n

/-- Updates a command in flight. -/
def modCmd (q n : Nat) (f : Cmd → Cmd) (s : State) : State :=
  modCmds (fun l => l.map fun c => if c.qp = q && c.count = n then f c else c) s

/-- What a command that leaves flight holds is released: lines, the move it ran (its page stays split, R360), the resync it ran, its places
in misses (R100). -/
def releaseCmd (c : Cmd) (s : State) : State :=
  let me := (c.qp, c.count)
  let s := modXlat (fun x => { x with misses := x.misses.map fun m => { m with waiters := m.waiters.filter fun w => !(w.1 = c.qp && w.2.1 = c.count) } }) s
  let s := modMem (fun m =>
    { m with
      holds := m.holds.filter fun h => h.2 ≠ .cmd c.qp c.count }) s
  let s := modMoves (fun l => l.map fun r => if r.runner = some me then { r with runner := none } else r) s
  modInteg (fun x => { x with mirrors := x.mirrors.map fun e => if e.2.resync = some me then (e.1, { e.2 with resync := none }) else e }) s

/-- A command leaves flight with its completion; a SEARCH is counted (Table 10.11); the command is charged, and the multiply-accumulates of a merge, a search or an
insert, whose number no rule states, as a free value (R243, Table 16.7, log 5). -/
def endCmd (c : Cmd) (d : Done) (s : State) : State :=
  let s := releaseCmd c s
  let s := modCmds (fun l => l.filter fun x => !(x.qp = c.qp && x.count = c.count)) s
  let op := leAt (cmdBytes c) 0 1
  let s := modBooth c.booth (fun b =>
    { b with
      lastWork := s.now
      queries := if op = 0x10 then satInc 32 b.queries else b.queries
      short := if op = 0x10 && d.status = .okShort then satInc 16 b.short else b.short }) s
  let s := if op = 0x09 || op = 0x10 || op = 0x11 then charge c.part c.epoch 6 (drawFree s).1.toNat c.time (drawFree s).2 else s
  charge c.part c.epoch 7 1 c.time (pushCompl c.qp (complOf s c d) s)

/-! ### Arrival counters and their waits (R214 to R221) -/

/-- Whether a wait comes before another (R219). -/
def waitBefore (a b : CtrWait) : Bool :=
  a.time < b.time || (a.time = b.time &&
    (match a.qp, b.qp with
     | some _, none => true
     | none, some _ => false
     | some (p, _), some (q, _) => p < q
     | none, none => a.site < b.site))

/-- The answer to a site's request without data. -/
def siteStatus (tag : Nat) (addr : Word) (c : Status) : Packet :=
  { ptype := 0x44, tag := BitVec.ofNat 32 tag, addr := addr, code := BitVec.ofNat 8 (statusCode c) }

/-- A COUNTER_WAIT that completes: an acquire, which empties its Booth's buffer; no rule states its RESULT and its DETAIL, which are
free (R220, Table 8.2, log 5). -/
def endWait (c : Cmd) (s : State) : State :=
  let a := drawFree s
  let b := drawFree a.2
  endCmd c { status := .ok, result := a.1.setWidth 128, detail := b.1.setWidth 32 } (emptyBoothBuf c.booth b.2)

/-- A satisfied wait: an acquire, which empties the buffer of its source and completes it (R220). -/
def waitDone (w : CtrWait) (s : State) : State :=
  match w.qp with
  | some (q, n) =>
    match findCmd s q n with
    | some c => endWait c s
    | none => s
  | none => toSite w.site (siteStatus w.tag 0 .ok) (emptySiteBuf w.site s)

/-- Whether a limit of METER cycles from a time, 0 for none, has passed (R31). -/
def limitPast (s : State) (since limit : Nat) : Bool := limit ≠ 0 && since + limit ≤ s.now

/-- The first wait, in the order of R219, among the 512 that have a place, that its counter satisfies within its limit (R221). -/
def nextWait (s : State) : Option CtrWait :=
  (sortBy waitBefore (s.order.waits.take 512)).find? fun w => w.target ≤ getCtr s w.counter && !limitPast s w.time w.limit

/-- Completes the waits that the counters satisfy, each consuming as it asks (R219). -/
def settleWaits : Nat → State → State
  | 0, s => s
  | n + 1, s =>
    match nextWait s with
    | none => s
    | some w =>
      let s := modOrder (fun x => { x with waits := x.waits.erase w }) s
      let s := whenS w.consume (setCtr w.counter (getCtr s w.counter - w.target)) s
      settleWaits n (waitDone w s)

/-- Whether a step of a running order is due at a counter's value (R351). -/
def dueAt (v thr : Word) : Bool := !(v - thr).getLsbD 63

/-- Notes the steps that a counter's value makes due (R351). -/
def settleDue (s : State) : State :=
  modOrder (fun x =>
    { x with due := x.due.map fun d => { d with met := d.met || (!d.expired && dueAt (getCtr s d.counter) d.threshold && !limitPast s d.since d.limit) } }) s

/-- Settles what waits on the counters after a change of one. -/
def settleCtr (s : State) : State := settleDue (settleWaits s.order.waits.length (settleDue s))

/-- An arrival adds bytes to a counter, or 1 under COMPAT_A (R215, R216). -/
def arrive (n bytes : Nat) (s : State) : State :=
  settleCtr (setCtr n (getCtr s n + BitVec.ofNat 64 (if s.power.compatA then 1 else bytes)) s)

/-! ### The retry log (R152) -/

/-- Writes a retry-log entry at NEXT. -/
def logEntry (e : LogEntry) (s : State) : State :=
  let x := s.integ
  let lost := match Tab.find x.log x.next with | some o => o.valid | none => false
  modInteg (fun x => { x with log := Tab.insert x.log x.next { e with valid := true, time := s.now },
                              next := (x.next + 1) % 64, overwritten := satAdd 32 x.overwritten (bit lost) }) s

/-- The entry of an outcome at a Carousel (Table 5.4). -/
def lineLog (s : State) (l outcome : Nat) (found : BitVec 32) : LogEntry :=
  { stored := lineCheckOf s l (getLine s l), found := found, valid := true, part := (lineOwner s l).getD 0xFF,
    location := stackOfLine l, channel := channelOfLine l, outcome := outcome, seq := (getLine s l).seq.toNat,
    addr := checkAddr s l, time := s.now }

/-! ### Where requests wait (R19 to R24, R40) -/

/-- The Booth of a Booth access. -/
def reqBooth (s : State) (r : Req) : Nat :=
  match r.origin with
  | .booth q _ _ => ((qpRecOf (mapsAt s r.epoch) q).map QpRec.booth).getD 0
  | _ => 0

/-- The lines of a request from its address. -/
def reqLines (r : Req) : List Nat := linesFrom (offOf r.pkt.addr.toNat) (pktLines r.pkt)

/-- Whether a request takes a Booth's direct path to its own stack's Carousel, which did not send it on to its home slice (R19, R188). -/
def directPath (s : State) (r : Req) : Bool :=
  match r.origin with
  | .booth _ _ _ => !r.sent && decide (stackOfLine ((reqLines r).headD 0) = reqBooth s r / 2)
  | _ => false

/-- The general and the reserved Tickets of the pool that a place belongs to (Table 1.3): a Carousel's, apart the direct path of a Booth
to its own; a home slice's; the Midway's by producer. DESIGN CHOICE (log 17): Table 1.3 has no row for the Midway's pool of a Booth's requests to
other stacks and nodes, which takes 1,920 and 128 here, nor for the Roustabout's and the Barker's, which take 3,840 and 256. -/
def poolSize (s : State) (w : Wait) (r : Req) : Nat × Nat :=
  match w, r.origin with
  | .line, _ => if directPath s r then (1920, 128) else (3840, 256)
  | .midway, .site _ => (7680, 512)
  | .midway, .booth _ _ _ => (1920, 128)
  | _, _ => (3840, 256)

/-- Whether two requests draw on one pool at a place. -/
def samePool (s : State) (w : Wait) (a b : Req) : Bool :=
  match w with
  | .line => stackOfLine ((reqLines a).headD 0) = stackOfLine ((reqLines b).headD 0) && directPath s a = directPath s b &&
      (!directPath s a || reqBooth s a = reqBooth s b)
  | .slice => sliceOfLine ((reqLines a).headD 0) = sliceOfLine ((reqLines b).headD 0)
  | _ =>
    match a.origin, b.origin with
    | .site j, .site k => j = k
    | .link j, .link k => j / 2 = k / 2
    | .booth _ _ _, .booth _ _ _ => reqBooth s a = reqBooth s b
    | .roustabout, .roustabout => true
    | .barker _, .barker _ => true
    | _, _ => false

/-- The requests that hold a Ticket of a place, each once: those that wait there, and at a Carousel those whose read or mirror write is under
way, at a home slice those of its transactions. -/
def holders (s : State) (w : Wait) : List Req :=
  let all := s.mem.parked.map Parked.req ++ s.mem.reads.filterMap StackRead.req ++ s.integ.ops.flatMap MirrorOp.reqs ++ s.home.txns.map Txn.req
  (all.filter fun r => r.place = w).foldl (fun l r => if l.any (fun q => q.order = r.order) then l else l ++ [r]) []

/-- The ceiling byte of a request's partition for a place: of a Carousel's pool, which a Booth's direct path does not draw on, a home slice's,
and a site's or a port's in the Midway (R40, Table 2.4). -/
def ceilingOf (s : State) (w : Wait) (r : Req) : Nat :=
  match Tab.find (mapsAt s r.epoch).parts r.part with
  | some x =>
    match w, r.origin with
    | .line, _ => if directPath s r then 0 else x.ceilCar
    | .slice, _ => x.ceilHome
    | .midway, .site _ => x.ceilUcie
    | .midway, .link _ => x.ceilFabin
    | _, _ => 0
  | none => 0

/-- The Ticket that an entry can draw from a pool of a general and a reserved part: a general one while one is free below its ceiling, else, for a
retry, a reserved one (R23, R24): `false` is a general one, `true` a reserved one. -/
def drawTicket (size : Nat × Nat) (general mine reserved ceiling : Nat) (again : Bool) : Option Bool :=
  if general < size.1 && (ceiling = 0 || mine < size.1 * ceiling / 256) then some false
  else if again && reserved < size.2 then some true
  else none

/-- The Tickets of the Midway that a port's outstanding grants hold (R397). -/
def grantTickets (s : State) (w : Wait) (r : Req) : Nat :=
  match w, r.origin with
  | .midway, .link l => ((getPort s (l / 2)).bounce.filter fun b => b.resend.isNone && b.granted.isSome).length
  | _, _ => 0

/-- The Ticket a request can draw at a place (R20, R23, R24, R40). -/
def ticketAt (s : State) (w : Wait) (r : Req) : Option Bool :=
  let pool := (holders s w).filter fun h => samePool s w h r && h.order ≠ r.order
  let general := pool.filter fun h => !h.kept
  drawTicket (poolSize s w r) (general.length + grantTickets s w r) (general.filter fun h => h.part = r.part).length (pool.length - general.length) (ceilingOf s w r) r.again

/-- The places that a request passes from its producer to its Carousel: a Booth's direct path leads straight there, and a mirror packet or a
metadata write passes no home slice (R19, Table 1.3). -/
def pathOf (s : State) (r : Req) : List Wait :=
  if directPath s r then [.line] else if 0x30 ≤ r.pkt.ptype.toNat ∧ r.pkt.ptype.toNat ≤ 0x34 then [.midway, .line] else [.midway, .slice, .line]

/-- The places between where a request stands and a goal, the goal with them; a goal that is not on its path is its Carousel. -/
def placesTo (s : State) (goal : Wait) (r : Req) : List Wait :=
  let ps := pathOf s r
  let goal := if ps.contains goal then goal else .line
  let on := if ps.contains r.place then (ps.dropWhile (· ≠ r.place)).drop 1 else ps
  if on.contains goal then on.takeWhile (· ≠ goal) ++ [goal] else []

/-- A request as near to a goal as Tickets let it come, a Ticket drawn at each place and the one before returned (R20). -/
def reach (s : State) (goal : Wait) (r : Req) : Req :=
  ((placesTo s goal r).foldl (fun (x : Req × Bool) w =>
    if !x.2 then x else
    match ticketAt s w x.1 with
    | some b => ({ x.1 with place := w, kept := b }, true)
    | none => (x.1, false)) (r, true)).1

/-- A request that comes to be served takes its place in the order of service (R206). -/
def numbered (r : Req) (go : Req → State → State) (s : State) : State :=
  if r.order ≠ 0 then go r s else go { r with order := s.mem.stamp + 1 } (modMem (fun m => { m with stamp := m.stamp + 1 }) s)

/-- What waits beside the requests takes its place in the same order (R466). -/
def inOrder (f : Nat → State → State) (s : State) : State := f (s.mem.stamp + 1) (modMem (fun m => { m with stamp := m.stamp + 1 }) s)

/-- A request waits where it stands; one that waits at its producer holds no Ticket (R20). -/
def park (r : Req) (w : Wait) (s : State) : State :=
  let r := match w with
    | .line | .slice | .midway => r
    | _ => { r with place := .producer, kept := false, taken := 0 }
  numbered r (fun r s => modMem (fun m => { m with parked := m.parked ++ [{ req := r, why := w }] }) s) s

/-- A request goes on once it holds the Tickets up to a goal, and waits at the place that it has reached otherwise (R20). One that comes to its
Carousel takes its place in the order of acceptance (R111). -/
def admitTo (goal : Wait) (r : Req) (go : Req → State → State) (s : State) : State :=
  let q := reach s goal r
  if !(placesTo s goal q).isEmpty then park q q.place s
  else if q.place = .line && q.taken = 0 then go { q with taken := s.mem.stamp + 1 } (modMem (fun m => { m with stamp := m.stamp + 1 }) s)
  else go q s

/-! ### The Barker (R445 to R449) -/

/-- A record of an event with no detail. -/
def recOf (s : State) (event cls part loc : Nat) : Rec :=
  { time := s.now, addr := 0, detail := 0, part := part, cls := cls, event := event, seq := 0, qp := 0xFFFF,
    node := thisNode s, status := 0, location := loc }

/-- The 64 bytes of a record (Table 14.4). -/
def recLine (r : Rec) : LineData :=
  BitVec.ofNat 512 (pack [(0, 64, r.time), (64, 64, r.addr.toNat), (128, 32, r.detail), (256, 8, r.part),
    (264, 8, r.cls), (272, 16, r.event), (288, 32, r.seq), (336, 16, r.qp), (352, 16, r.node), (368, 8, r.status),
    (376, 8, r.location)])

/-- The sequence number after another: from 1, past 0xFFFF_FFFF to 1 (Table 14.4). -/
def nextSeq (n : Nat) : Nat := if n ≥ 0xFFFFFFFF then 1 else n + 1

/-- The Ringmaster forwards the record at the head of the management queue to the registered event receiver (R507). -/
def forwardHead (s : State) : State :=
  let b := s.barker
  if s.mgmt.receiver.isNone || s.mgmt.boot ≠ .running || b.tail = b.head then s else
  match Tab.find b.queue (b.head.toNat % 256) with
  | some r => emit (.event "BARKER_RECORD" (lineBytes (recLine r))) s
  | none => s

/-- A record enters the management queue, or is dropped when it is full; one that is alone there is forwarded (R449, R456, R507). -/
def toMgmt (r : Rec) (s : State) : State :=
  let b := s.barker
  whenS (decide (b.tail = b.head)) forwardHead <|
  let r := { r with seq := b.seq }
  let full := (b.tail - b.head).toNat ≥ 256
  modBarker (fun x =>
    { x with
      seq := nextSeq x.seq
      queue := if full then x.queue else Tab.insert x.queue (x.tail.toNat % 256) r
      tail := if full then x.tail else x.tail + 1
      dropped := if full then satInc 16 x.dropped else x.dropped }) s

/-- Whether a line is fenced (R451). -/
def fenced (s : State) (l : Nat) : Bool := s.home.fences.contains l

/-- The line of an event ring's next slot. -/
def ringSlot (x : Part) : Nat := lineNo (offOf x.evBase) + x.evTail.toNat % 2 ^ x.evLog

/-- Whether the event ring that a partition's registers describe meets R455. -/
def ringReady (s : State) (p : Nat) (en : Bool) (ctr : Nat) : Bool :=
  let x := getPart s p
  let ok : Bool := match findWin s.rig.cur p 1 x.evBase (64 * 2 ^ x.evLog) with
    | some (_, e) => winWrite e
    | none => false
  4 ≤ x.evLog && x.evLog ≤ 15 && decide (nodeOf x.evBase = thisNode s) && ok &&
  (!en || ctrOwner s.rig.cur ctr = some p)

/-- The write of a record into the slot at TAIL, as a request of the Barker (R449). -/
def ringReq (s : State) (p : Nat) (r : Rec) : Req :=
  let x := getPart s p
  { origin := .barker p, part := p, epoch := s.rig.epoch, time := s.now,
    pkt := { ptype := 0x04, len := 7, addr := BitVec.ofNat 64 (globalAddr (thisNode s) (ringSlot x * 64)), data := [recLine r],
             flags := BitVec.ofNat 8 (8 * bit x.evCntEn), counter := BitVec.ofNat 16 x.evCnt } }

/-- The write of the record at the head of those that wait for a ring has ended: TAIL advances, or ENABLE is cleared and the record goes to the
management queue (R449). -/
def ringDone (p : Nat) (good : Bool) (s : State) : State :=
  let x := getPart s p
  let s := modPart p (fun x => { x with evQueue := x.evQueue.drop 1, evBusy := false }) s
  if good then modPart p (fun x => { x with evTail := x.evTail + 1 }) s
  else eachS (x.evQueue.take 1) toMgmt (modPart p (fun x => { x with evEn := false }) s)

/-- Whether a write of a whole line meets nothing at its home but the line: nothing holds it, no agent may have a copy, its owner is awake and
Tickets let it come (R20, R111, R188). -/
def meetsNothing (s : State) (r : Req) (l : Nat) : Bool :=
  !lineHeld s l && !sleeping s r.part && (getLine s l).dir = 0 && !s.home.cache.any (fun e => e.line = l && e.dir ≠ .i) &&
  !s.home.hot.any (fun h => h.line = l) && s.upsets.isEmpty && !blockCompressed s l && !fenced s l && (reach s .line r).place = .line

/-- The Barker writes the records that wait for a partition's ring, one at a time in their order: each into slot TAIL when its turn comes, or not
where the ring is full or disabled; a ring or a counter that is no longer the partition's fails the write (R441, R449). A write that must wait does so
as a request of the Barker (log 13). -/
def pumpRing : Nat → Nat → State → State
  | 0, _, s => s
  | n + 1, p, s =>
    let x := getPart s p
    match x.evQueue with
    | [] => s
    | r :: rest =>
      if x.evBusy then s
      else if !x.evEn || 2 ^ x.evLog ≤ (x.evTail - x.evHead).toNat then
        pumpRing n p (modPart p (fun x => { x with evQueue := rest, dropped := satInc 32 x.dropped }) s)
      else if !ringReady s p x.evCntEn x.evCnt then pumpRing n p (ringDone p false s)
      else
        let l := ringSlot x
        let q := ringReq s p r
        if !meetsNothing s q l then park q .producer (modPart p (fun x => { x with evBusy := true }) s)
        else match acceptFull l (recLine r) s with
          | (.ok, s) =>
            if mirrored s l then
              holdLine l .mirror (sendMirror (groupOfLine l) .write [l] (mirrorLinePkt s 0x30 l false) [q] .ok none (modPart p (fun x => { x with evBusy := true }) s))
            else pumpRing n p (ringDone p true (whenS x.evCntEn (arrive x.evCnt 64) s))
          | (_, s) => pumpRing n p (ringDone p false s)

/-- A record goes to a partition's event ring: it takes its SEQ, and its turn behind those that wait (R449). -/
def toRing (p : Nat) (r : Rec) (s : State) : State :=
  let s := modPart p (fun x => { x with evSeq := nextSeq x.evSeq, posted := (x.posted + 1) % 2 ^ 32,
                                        evQueue := x.evQueue ++ [{ r with seq := x.evSeq }] }) s
  pumpRing (getPart s p).evQueue.length p s

/-- Every partition that is not UNASSIGNED. -/
def assigned (s : State) : List Nat := (s.parts.filter fun (_, x) => x.st ≠ .unassigned).map Prod.fst

/-- The Barker delivers a record (R447). -/
def deliver (r : Rec) (s : State) : State :=
  let all := r.cls = 6 && r.event ≠ 0x0061 || r.event = 0x0011
  let s := if all then eachS (assigned s) (fun p => toRing p r) s
    else whenS (decide (r.part < 32)) (toRing r.part r) s
  whenS (decide (r.part ≥ 32) || r.cls = 4 || r.cls = 5 || r.cls = 6) (toMgmt r) s

/-- The Barker Tickets of a block (Table 1.3). No event is posted again after a RETRY, and none draws the reserved part (R23). -/
def barkerTickets : Nat × Nat := (14, 2)

/-- A block posts an event: it spends a Ticket, or counts the event when it holds none (R448). -/
def post (r : Rec) (s : State) : State :=
  let loc := r.location
  if (drawTicket barkerTickets (Tab.get 0 s.barker.spent loc) 0 0 0 false).isSome then
    deliver r (modBarker (fun b => { b with spent := Tab.insert b.spent loc (Tab.get 0 b.spent loc + 1) }) s)
  else modBarker (fun b => { b with owed := Tab.insert b.owed loc (Tab.get 0 b.owed loc + 1),
                                    suppressed := satInc 16 b.suppressed }) s

/-- The partition number of a record: 0xFF for the device. -/
def partNo (p : Option Nat) : Nat := p.getD 0xFF

/-- A partition to which a record may go: one that is not UNASSIGNED (R87). -/
def existing (s : State) (p : Nat) : Nat := if (getPart s p).st = .unassigned then 0xFF else p

/-! ### Faults on the die and merges (R117, log 45) -/

/-- The first awaited fault that a test picks, which strikes now, and the state without it. -/
def strike (f : Upset → Bool) (s : State) : Option Upset × State :=
  match s.upsets.find? f with
  | some u => (some u, { s with upsets := s.upsets.erase u })
  | none => (none, s)

/-- Whether an awaited fault strikes the merge of a line. -/
def strikesMerge (l : Nat) : Upset → Bool
  | .merge n _ => n = l
  | _ => false

/-- The double check of a line's new check: whether it stands, with what is counted and posted when the two computations disagree, for
the partition, the node and the number of the writes that it ends (R117, Table 4.10, R541). -/
def doubleCheck (part node n l : Nat) (s : State) : Bool × State :=
  match strike (strikesMerge l) s with
  | (some (.merge _ again), s) =>
    let k := stackOfLine l
    if again then
      let s := modStack k (fun x => { x with mergeFaults := satAdd 8 x.mergeFaults n }) s
      let s := post { recOf s 0x0022 2 (existing s part) k with addr := checkAddr s l, status := 0x12, node := node } s
      (false, post { recOf s 0x0042 4 (partNo (lineOwner s l)) k with addr := checkAddr s l, detail := k, status := 0x12 } s)
    else (true, modStack k (fun x => { x with mergeRetries := satInc 8 x.mergeRetries }) s)
  | (_, s) => (true, s)

/-- The acceptance of a merged line by its Carousel: the image that the old line and n narrow writes make (steps 6 and 7 of Table 4.4),
for the partition and the node that wrote. `good` is the status that the read of the old line gives (R149). -/
def acceptMerge (part node n l : Nat) (image : LineData) (good : Status) (s : State) : Status × State :=
  match doubleCheck part node n l s with
  | (false, s) => (.stateLost, s)
  | (true, s) => (good, modStack (stackOfLine l) (fun x => { x with merges := satInc 32 x.merges }) (storeLine l image s))

/-! ### Partition states and the Turnstile's admission (R435, R437, R466, R474, R475) -/

/-- The code of a partition state (Table 14.1). -/
def partCode : PartSt → Nat
  | .unassigned => 0 | .stopped => 1 | .starting => 2 | .running => 3 | .stopping => 4 | .faulted => 5

/-- A partition changes state; the change is posted (R435, R446). -/
def setPartSt (p : Nat) (st : PartSt) (s : State) : State :=
  let old := (getPart s p).st
  let s := modPart p (fun x => { x with st := st }) s
  if old = st then s else
  post { recOf s 0x0017 0 (existing s p) 0x71 with detail := pack [(8, 3, partCode old), (0, 3, partCode st)] } s

/-- Starts the exit of a wake that is wholly admitted: of a partition that waits in STARTING, that the reset sequence starts, or that
wakes, 10,000 METER cycles from the PWR cycle at which it was admitted; the base allowance releases PWRGD_OUT (R437, R466, R470, R474, Table 15.9,
log 38). -/
def startExit (w : Wake) (s : State) : State :=
  match w.target with
  | some p =>
    let x := getPart s p
    let s := modPart p (fun x => { x with released := 0 }) s
    let at_ := ceilDiv s.now 10 * 10 + 10000
    let timed (s : State) : State := modPart p (fun x => { x with startAt := some at_ }) s
    if x.pstate = .waking then modPart p (fun x => { x with exitAt := some at_ }) s
    else if x.st = .starting then timed s
    else if x.st = .unassigned && (Tab.find s.rig.cur.parts p).isSome then timed (setPartSt p .starting s)
    else s
  | none => modPower (fun x => { x with pwrgd := true }) s

/-- The admission of R474 over the queue, with fuel; it waits for the dies to leave keep-alive unless it is bypassed, and wakes raised during the
entry into DARK wait for its end (R464, R475, R479). -/
def admitQueue : Nat → State → State
  | 0, s => s
  | n + 1, s =>
    match s.power.queue with
    | [] => s
    | w :: t =>
      let bypass := optVal s 6 0 = 1
      if s.power.dark = .entering || !bypass && (s.power.budget = 0 || s.power.keepAlive) then s else
      let amp := if bypass then w.remaining else min w.remaining s.power.budget
      let s := modPower (fun x => { x with admitted := x.admitted + amp, slotRise := x.slotRise + amp,
                                           budget := x.budget - amp }) s
      if amp = w.remaining then
        admitQueue n (startExit w (modPower (fun x => { x with queue := t }) s))
      else modPower (fun x => { x with queue := { w with remaining := w.remaining - amp } :: t }) s

/-- Begins the slot of the current cycle when it has not begun (R474). -/
def beginSlot (s : State) : State :=
  if s.power.slotAt < s.now / 1000 then
    modPower (fun x => { x with slotAt := s.now / 1000, budget := 40, slotRise := 0 }) s
  else s

/-- The Turnstile's admission at this cycle. -/
def admitWakes (s : State) : State := let s := beginSlot s; admitQueue (s.power.queue.length + 1) s

/-- Whether a wake comes before another (R475). -/
def wakeBefore (a b : Wake) : Bool :=
  a.time < b.time || (a.time = b.time &&
    (match a.target, b.target with
     | none, _ => true
     | some _, none => false
     | some p, some q => p < q))

/-- Puts a wake in the Turnstile's queue, where one of its target merges with it, and runs the admission. -/
def queueWake (w : Wake) (s : State) : State :=
  if s.power.queue.any (fun v => v.target = w.target) then admitWakes s else
  admitWakes (modPower (fun x => { x with queue := insertBy wakeBefore w x.queue }) s)

/-- A wake of a partition at an event time (R464, R465): queued in CURTAIN, latched during entry, merged otherwise. -/
def wakePart (p time : Nat) (s : State) : State :=
  let x := getPart s p
  match x.pstate with
  | .curtain =>
    queueWake { target := some p, time := time, remaining := allowance s.rig.cur p }
      (modPart p (fun x => { x with pstate := .waking, wakeAt := none }) s)
  | .entering => if x.wakeAt.isSome then s else modPart p (fun x => { x with wakeAt := some time }) s
  | _ => s

/-- The node of a record about a writer: the one it is on (Table 14.4, R541). -/
def nodeOfWriter (s : State) : Writer → Nat
  | .fabric _ n _ => n.toNat
  | _ => thisNode s

/-- An ACCESS_VIOLATION record (Table 14.5): the register's offset and the low half of the value. -/
def accessViolation (w : Writer) (part addr v : Nat) (s : State) : State :=
  post { recOf s 0x0001 1 part (locOfWriter w) with addr := BitVec.ofNat 64 addr, detail := v % 2 ^ 32, node := nodeOfWriter s w } s

end Sys2Proof.Machine
end

