-- ==== Sys2Proof/Machine/Publish.lean ====
section
/-! DEFINITION. A publication's decision and the region header it writes (R363, R366). -/

namespace Sys2Proof.Machine

/-- What Table 11.11 decides. -/
inductive Verdict where
  | replace | already | conflict | stale
deriving DecidableEq, Repr

/-- The decision of an offered version and digest against a header. -/
def verdictOf (h : LineData) (version digest : Nat) : Verdict :=
  let v := lineField h 0 8
  if v < version then .replace
  else if v = version then (if lineField h 8 16 = digest then .already else .conflict)
  else .stale

/-- The status of a decision (Table 11.11). -/
def verdictStatus : Verdict → Status
  | .replace => .ok | .already => .ok | .conflict => .conflict | .stale => .staleVersion

/-- The header that a replacement writes (Tables 11.9, 11.11). -/
def newRegion (h : LineData) (version digest data len node qp : Nat) : LineData :=
  BitVec.ofNat 512 (pack [(0, 64, version), (64, 128, digest), (192, 64, data), (256, 64, len), (320, 16, node), (336, 16, qp),
    (352, 32, lineField h 0x2C 4 + 1)])

/-- The bytes of a publication request's body: what the commit offers (Table 12.5). -/
def commitBody (version digest data len qp : Nat) : List Byte :=
  leBytes 8 version ++ leBytes 16 digest ++ leBytes 8 data ++ leBytes 8 len ++ leBytes 2 qp ++ leBytes 6 0

/-- The old value of a commit's answer: VERSION and ACCEPTED after the decision, and ALREADY (R367). -/
def commitResult (h : LineData) (already : Bool) : BitVec 128 :=
  BitVec.ofNat 128 (pack [(0, 64, lineField h 0 8), (64, 32, lineField h 0x2C 4), (96, 1, bit already)])

end Sys2Proof.Machine
end

