-- ==== Sys2Proof/Machine/Serve.lean ====
section
/-! DEFINITION. A request at the store: how it ends towards its origin, the reads and writes of a Carousel with their
checks, poison, repair and mirroring, and the far atomics' arithmetic (04, 05, 07). -/

namespace Sys2Proof.Machine

/-! ### Where a request came from -/

/-- LOCATION of a request (R541). -/
def reqLoc (s : State) (r : Req) : Nat := locOf (reqBooth s r) r.origin

/-- The queue pair of a request, 0xFFFF when none. -/
def reqQp (r : Req) : Nat :=
  match r.origin with
  | .booth q _ _ => q
  | _ => 0xFFFF

/-- The remote node of a request, or this node. -/
def reqNode (s : State) (r : Req) : Nat :=
  match r.origin with
  | .link _ => r.pkt.srcNode.toNat
  | _ => thisNode s

/-- A record about a request, to the partition it acts for when that exists (R87). -/
def reqRec (s : State) (r : Req) (event cls : Nat) : Rec :=
  { recOf s event cls (existing s r.part) (reqLoc s r) with
    addr := r.pkt.addr, qp := reqQp r, node := reqNode s r }

/-- Posts the failure of a check of Table 3.5 and charges it (R87, R214). -/
def checkFailed (r : Req) (order : Nat) (c : Status) (s : State) : State :=
  let s := post { reqRec s r 0x0004 1 with detail := order, status := statusCode c } s
  whenS ((getPart s r.part).st ≠ .unassigned) (chargeReq r 11 1) s

/-- Posts KEY_MISSING to the partition that owns a line, for an access that came by a location, a queue pair and a node (R115). -/
def keyMissingOf (loc qp node l : Nat) (s : State) : State :=
  let o := lineOwner s l
  let k := match o.bind (Tab.find (viewMaps s).parts) with | some p => p.keySlot | none => 0
  post { recOf s 0x0009 1 (partNo o) loc with addr := checkAddr s l, detail := k, qp := qp, status := 0x19, node := node } s

/-- Posts KEY_MISSING for a request (R115). -/
def postKeyMissing (r : Req) (l : Nat) (s : State) : State := keyMissingOf (reqLoc s r) (reqQp r) (reqNode s r) l s

/-- Posts LINE_INTEGRITY for an outcome at a Carousel (R151). -/
def postLine (l outcome : Nat) (c : Status) (s : State) : State :=
  post { recOf s 0x0020 2 (partNo (lineOwner s l)) (stackOfLine l) with
         addr := checkAddr s l, detail := outcome, status := statusCode c } s

/-! ### How a request ends -/

/-- The checks of lines over the addresses of the request (R139, R167). -/
def answerChecks (a : Word) (ds : List LineData) : List (BitVec 32) :=
  ds.zipIdx.map fun (d, i) => lineCheck (BitVec.ofNat 64 (a.toNat / 64 * 64 + 64 * i)) d

/-- Whether a line of this store lies in a PUBLISHABLE page (R338). -/
def publishable (s : State) (a : Word) : Bool :=
  nodeOf a.toNat = thisNode s && (attrOf s (lineNo (offOf a.toNat))).publishable

/-- Puts a line in a read buffer of `cap` lines, replacing the least recently used (R212, R213). -/
def bufPut (cap : Nat) (b : BufLine) (l : List BufLine) : List BufLine :=
  let l := dropLine b.addr l
  (if l.length ≥ cap then l.drop (l.length + 1 - cap) else l) ++ [b]

/-- A line returned to a site's non-coherent read enters the adapter's buffer (R212). -/
def fillSiteBuf (k : Nat) (addr : Word) (ds : List LineData) (s : State) : State :=
  match ds with
  | d :: _ =>
    whenS (s.order.siteBuf.getLsbD k) (modOrder fun x =>
      { x with siteBufs := Tab.insert x.siteBufs k
                 (bufPut 4096 { addr := addr.toNat / 64 * 64, data := d, used := x.stamp } (Tab.get [] x.siteBufs k)) }) s
  | [] => s

/-- The response to a site request of a type (Table 13.3): DATA for a load, ATOMIC_RESULT, ACK, or STATUS. -/
def siteAnswer (s : State) (k : Nat) (r : Req) (noBuf : Bool) (a : Answer) : Packet :=
  let t := r.pkt.ptype.toNat
  let p : Packet := { tag := r.pkt.tag, addr := r.pkt.addr, code := BitVec.ofNat 8 (statusCode a.status) }
  if isReadType t then
    let ds := if a.data.isEmpty then List.replicate (pktLines r.pkt) allOnes else a.data
    let cs := if !passCheck s k then [] else if statusGood a.status then answerChecks r.pkt.addr ds
              else List.replicate ds.length 0
    { p with ptype := 0x41, data := ds, checks := cs, flags := BitVec.ofNat 8 (32 * bit noBuf),
             len := BitVec.ofNat 16 (2 + ceilDiv cs.length 4 + 4 * ds.length) }
  else if t = 0x08 then
    if statusGood a.status then { p with ptype := 0x42, len := 3, opA := a.old } else { p with ptype := 0x44 }
  else if t = 0x0A || t = 0x0B then { p with ptype := 0x48, len := 3, value := a.old.setWidth 64 }
  else if t = 0x13 ∧ statusGood a.status then { p with ptype := 0x2D }
  else if 0x10 ≤ t ∧ t ≤ 0x13 then { p with ptype := 0x2F }
  else if statusGood a.status then { p with ptype := 0x40 } else { p with ptype := 0x44 }

/-- The response to a fabric request (Table 12.6); a COMBINED request is answered by one response with its list (R395). -/
def linkAnswer (s : State) (r : Req) (noBuf refused : Bool) (a : Answer) : Packet :=
  let t := r.pkt.ptype.toNat
  let com := pktCombined r.pkt
  let p : Packet := { srcNode := BitVec.ofNat 16 (thisNode s), dstNode := r.pkt.srcNode, tag := r.pkt.tag,
                      addr := r.pkt.addr, code := BitVec.ofNat 8 (statusCode a.status),
                      flags := BitVec.ofNat 8 (2 * bit com), aux := if com then r.pkt.aux else 0,
                      list := if com then r.pkt.list else [] }
  let p : Packet :=
    if t = 0x13 ∧ statusGood a.status then { p with ptype := 0x2D, list := r.pkt.list }
    else if 0x10 ≤ t ∧ t ≤ 0x13 then { p with ptype := 0x2F, list := r.pkt.list }
    else if refused then { p with ptype := 0x44 }
    else if isReadType t then
      let ds := if a.data.isEmpty then List.replicate (pktLines r.pkt) allOnes else a.data
      { p with ptype := 0x41, data := ds, checks := answerChecks r.pkt.addr ds,
               flags := BitVec.ofNat 8 (2 * bit com + 32 * bit noBuf) }
    else if t = 0x08 then
      if statusGood a.status then { p with ptype := 0x42, opA := a.old } else { p with ptype := 0x44 }
    else if t = 0x0A || t = 0x0B then { p with ptype := 0x48, value := a.old.setWidth 64 }
    else if t = 0x09 ∧ (statusGood a.status ∨ a.status = .conflict ∨ a.status = .staleVersion) then
      { p with ptype := 0x43, body := leBytes 16 a.old.toNat }
    else if statusGood a.status then { p with ptype := 0x40 } else { p with ptype := 0x44 }
  { p with len := BitVec.ofNat 16 (pktLen false p) }

/-- A response leaves on the link of its request, or on the one R388 gives (R389); it is charged (Table 16.7). -/
def sendAnswer (l : Nat) (r : Req) (p : Packet) (s : State) : State :=
  match responseLink s l p.dstNode.toNat (offOf r.pkt.addr.toNat) with
  | some k => sendOn k p (chargeReq r 2 (16 * p.len.toNat) s)
  | none => s

/-- An answer to a request of a site reaches the site's die, unless the site has gone DOWN since (R423). -/
def toAsker (r : Req) (k : Nat) (p : Packet) (s : State) : State := whenS (decide (r.life = (getSite s k).life)) (toSite k p) s

/-- The number that stands in place of a command for a queue pair's completion writes. -/
def cqWriter : Nat := 2 ^ 32

/-- A line returned to a Booth's read enters its buffer, of 1,024 lines, unless its page is PUBLISHABLE (R212, R338). -/
def fillBoothBuf (b addr : Nat) (d : LineData) (s : State) : State :=
  whenS (s.order.boothBuf && !publishable s (BitVec.ofNat 64 addr)) (modOrder fun x =>
    { x with boothBufs := Tab.insert x.boothBufs b
               (bufPut 1024 { addr := addr / 64 * 64, data := d, used := x.stamp } (Tab.get [] x.boothBufs b)) }) s

/-- The rows of a command whose writes have all been performed are counted; those of which a write failed never are (Table 9.15). -/
def countRows (q n : Nat) (s : State) : State :=
  match findCmd s q n with
  | none => s
  | some c =>
    let ended (i : Nat) : Bool := c.fetched.any fun f => f.id = i
    let good (i : Nat) : Bool := c.fetched.any fun f => f.id = i && statusGood f.status
    let done := c.rows.filter fun r => r.1.all good
    modBooth c.booth (fun b => { b with rows := satAdd 32 b.rows done.length, saturated := satAdd 32 b.saturated (done.map Prod.snd).sum })
      (modCmd q n (fun c => { c with rows := c.rows.filter fun r => !r.1.all ended }) s)

/-- A line read for every member of a command's list batch is held for them (R331). -/
def shareLine (c : Cmd) (list va : Nat) (d : LineData) (s : State) : State :=
  let put (t : Batch) : Batch := { t with lines := t.lines ++ [(list, c.epoch, va / 64, d)] }
  modBooth c.booth (fun b => { b with closed := b.closed.map fun t => if t.members.any (fun m => m.cmd = (c.qp, c.count)) then put t else t }) s

/-- What an access of a Booth command returned, for the command to take (R261): EFFECT is set by any access performed, the fetch of
the entry apart; a read that asks for it fills the Booth's buffer; the end of a completion write is kept for its queue pair. -/
def boothAnswer (q n id : Nat) (a : Answer) (s : State) : State :=
  if n = cqWriter then modQp q (fun x => { x with cqEnd := some a.status }) s else
  let s := match findCmd s q n with
    | some c =>
      match c.access.find? fun x => x.id = id with
      | some x =>
        let s := whenS (x.fill && statusGood a.status) (fillBoothBuf c.booth x.addr (a.data.headD 0)) s
        match x.share with
        | some l => whenS (statusGood a.status) (shareLine c l x.va (a.data.headD 0)) s
        | none => s
      | none => s
    | none => s
  countRows q n <| modCmd q n (fun c =>
    { c with
      access := c.access.filter fun x => x.id ≠ id
      effect := c.effect || (statusGood a.status && id ≠ 0)
      retried := c.retried || a.status = .okRetried && id ≠ 0
      owes := if a.status = .targetDead && !c.aborted then c.owes ++ (c.access.filter fun x => x.id = id).filterMap Access.dst else c.owes
      fetched := c.fetched ++ (if a.data.isEmpty then [{ id := id, data := a.old.setWidth 512, status := a.status }]
                   else a.data.map fun d => { id := id, data := d, status := a.status }) }) s

/-- The result and status of a recorded far atomic, from t0 on, and the answers of the resends that waited for them
(R229, R231). Constituent i of a combined atomic takes its own result (R236). -/
def recordReplay (r : Req) (results : List (BitVec 128)) (a : Answer) (s : State) : State :=
  let keys := constituents r.pkt
  let val (e : Replay) : BitVec 128 := results.getD (keys.findIdx (· = (e.node, e.tag))) a.old
  let mine (e : Replay) : Bool := e.t0.isNone && keys.contains (e.node, e.tag)
  let old := s.order.replay.filter mine
  let settle (now : Nat) (e : Replay) : Replay :=
    if mine e then { e with result := val e, status := a.status, t0 := some now, waiting := [] } else e
  let s := modOrder (fun x => { x with replay := x.replay.map (settle s.now) }) s
  eachS old (fun e s => eachS e.waiting (fun w s =>
    match w.origin with
    | .link l => sendAnswer l w (linkAnswer s w false false { status := a.status, old := val e }) s
    | _ => s) s) s

/-- Bits of an atomic's size. -/
def atomicBits (p : Packet) : Nat := 8 * pktBytes p

/-- A value as a signed integer of `w` bits. -/
def signedOf (w v : Nat) : Int := if v < 2 ^ (w - 1) then v else (v : Int) - 2 ^ w

/-- The new value of a far atomic (Table 7.3). -/
def atomicNew (op w old a b : Nat) : Nat :=
  match op with
  | 0 => (old + a) % 2 ^ w
  | 1 => old &&& a
  | 2 => old ||| a
  | 3 => old ^^^ a
  | 4 => if signedOf w old ≤ signedOf w a then old else a
  | 5 => if signedOf w a ≤ signedOf w old then old else a
  | 6 => min old a
  | 7 => max old a
  | 8 => a
  | _ => if old = a then b else old

/-- Whether an atomic writes: every one but a CSWAP whose comparison fails (R226). -/
def atomicWrites (op old a : Nat) : Bool := op ≠ 9 || old = a

/-- The value a combined atomic of n constituents leaves (R236). -/
def combinedNew (op w old a b n : Nat) : Nat :=
  if op = 0 then (old + n * a) % 2 ^ w else atomicNew op w old a b

/-- Constituent i's result (R236). -/
def combinedResult (op w old a i : Nat) : Nat :=
  if op = 0 then (old + i * a) % 2 ^ w else if i = 0 then old else atomicNew op w old a 0

/-- The results of an atomic's constituents from the old value. -/
def atomicResults (p : Packet) (old : Nat) : List (BitVec 128) :=
  (List.range (constituents p).length).map fun i =>
    BitVec.ofNat 128 (combinedResult (bits p.code.toNat 0 4) (atomicBits p) old p.opA.toNat i)

/-- A request ends: its origin receives its answer. -/
def finish (r : Req) (a : Answer) (s : State) : State :=
  let t := r.pkt.ptype.toNat
  let s := whenS (isReadType t && statusGood a.status) (fun s =>
    let s := chargeReq r 0 (64 * pktLines r.pkt) s
    whenS ((attrOf s (lineNo (offOf r.pkt.addr.toNat))).tier = 5) (chargeReq r 4 (64 * pktLines r.pkt)) s) s
  match r.origin with
  | .site k =>
    let nb := publishable s r.pkt.addr
    let s := whenS (t = 0x14 && statusGood a.status && !nb && r.life = (getSite s k).life) (fillSiteBuf k r.pkt.addr a.data) s
    toAsker r k (siteAnswer s k r nb a) s
  | .link l =>
    let s := whenS (t = 0x08) (recordReplay r (atomicResults r.pkt a.old.toNat) a) s
    sendAnswer l r (linkAnswer s r (publishable s r.pkt.addr) false a) s
  | .booth q n id => boothAnswer q n id a s
  | .roustabout => s
  | .barker p => let s := ringDone p (a.status = .ok) s; pumpRing (getPart s p).evQueue.length p s

/-- The answer to a request that a check refused (R86, R88): the status alone, and all-ones data for a site load. -/
def refuse (r : Req) (c : Status) (s : State) : State :=
  match r.origin with
  | .link l => sendAnswer l r (linkAnswer s r false true { status := c }) s
  | .site k => toAsker r k (siteAnswer s k r false { status := c }) s
  | .booth q n id => boothAnswer q n id { status := c } s
  | _ => s

/-- The bytes a write adds to its counter (R215). -/
def writeBytes (p : Packet) : Nat := if p.ptype = 0x05 then popCount p.mask.toNat 64 else 64 * pktLines p

/-- A write or atomic has become complete, or has ended: its counter, its charges, its answer (R215, R28, R157). -/
def writeDone (r : Req) (c : Status) (s : State) : State :=
  let isAtomic : Bool := decide (r.pkt.ptype = 0x08)
  let n := if isAtomic then pktBytes r.pkt else writeBytes r.pkt
  let s := whenS (statusGood c) (fun s =>
    let s := chargeReq r 1 n s
    let s := whenS ((attrOf s (lineNo (offOf r.pkt.addr.toNat))).tier = 5) (chargeReq r 4 n) s
    let s := whenS isAtomic (chargeReq r 8 1) s
    whenS (pktCountEn r.pkt && !isAtomic) (arrive (bits r.pkt.counter.toNat 0 11) n) s) s
  finish r { status := c, old := r.old } s

/-! ### Reads of the store -/

/-- The data of a line as reads see it: the entry of a hot line over the stored line (R202). -/
def hotView (s : State) (l : Nat) (d : LineData) : LineData :=
  match s.home.hot.find? fun h => h.line = l with
  | some h => mergeLine d h.data h.mask
  | none => d

/-- Whether a fault strikes the next read of a line from the stack, or of another line of its compressed block (R150). -/
def strikesRead (s : State) (l : Nat) : Upset → Bool
  | .read n _ => n = l || (blockCompressed s l && blockOfLine n = blockOfLine l)
  | _ => false

/-- The whole line of a hot-line entry that holds every byte of it (R202). -/
def wholeHot (s : State) (l : Nat) : Option LineData :=
  match s.home.hot.find? fun h => h.line = l with
  | some h => if h.mask = BitVec.allOnes 64 then some h.data else none
  | none => none

/-- A read of one line for a request (R105, R115, R147, R154). -/
def readOne (s : State) (r : Req) (l : Nat) : ReadOne :=
  match r.got.find? fun g => g.1 = l with
  | some (_, c, d) => .done c d
  | none =>
    let v := getLine s l
    let inStep := (attrOf s l).mirror && !(getMirror s (groupOfLine l)).partner &&
      (getMirror s (groupOfLine l)).state = .inStep
    if !channelUp s l then (if inStep then .partner else .done .poisoned allOnes)
    else if keyMissing s l then .done .protection allOnes
    else match wholeHot s l with
    | some d => .done (if r.retried then .okRetried else .ok) d
    | none =>
      if v.poison then .done .poisoned allOnes
      else if checkOk s l v && !s.upsets.any (strikesRead s l) then .done (if r.retried then .okRetried else .ok) (hotView s l (viewData s l v))
      else .repair

/-- A read of the partner copy leaves (R147, R105, R163). -/
def askPartner (l : Nat) (kind : MirrorKind) (reqs : List Req) (cmd : Option (Nat × Nat × Nat)) (s : State) : State :=
  let g := groupOfLine l
  let p : Packet := { ptype := 0x32, srcNode := BitVec.ofNat 16 (thisNode s), dstNode := BitVec.ofNat 16 (getMirror s g).node,
                      addr := BitVec.ofNat 64 (partnerAddr s l), aux := BitVec.ofNat 8 (pairCode (getMirror s g).state) }
  sendMirror g kind [l] p reqs .ok cmd s

/-- A lasting line without a good copy: poisoned with reason LASTING, counted, logged and posted (R147, R151). -/
def settlePoisoned (l : Nat) (found : BitVec 32) (s : State) : State :=
  let e := lineLog s l 3 found
  let s := modInteg (fun x => { x with poisoned := satInc 32 x.poisoned }) s
  postLine l 3 .poisoned (logEntry e (poisonLine l 0 s))

/-- The check found first of a line under repair is kept with the packet that asks for its partner copy (R152). -/
def noteFound (l : Nat) (found : BitVec 32) (s : State) : State :=
  modInteg (fun x => { x with ops := x.ops.map fun o => if o.kind = .repair && o.lines = [l] && o.reqs.isEmpty then { o with found := found } else o }) s

/-- A mismatch that persists: counted, then read from the partner of an IN_STEP pair, else poisoned (R147). -/
def settleLasting (l : Nat) (found : BitVec 32) (s : State) : State :=
  let m := getMirror s (groupOfLine l)
  let s := modInteg (fun x => { x with lasting := satInc 32 x.lasting }) s
  if (attrOf s l).mirror && !m.partner && m.state = .inStep then
    holdLine l .repair (noteFound l found (askPartner l .repair [] none s))
  else settlePoisoned l found s

/-- A transient line: counted and logged, never posted (R147, R151). -/
def lineTransient (l : Nat) (found : BitVec 32) (s : State) : State :=
  logEntry (lineLog s l 1 found) (modInteg (fun x => { x with transient := satInc 32 x.transient }) s)

/-- The check found over what a read of a line yields; 0 where its block does not decode and no plaintext exists (log 51). -/
def foundCheck (s : State) (l : Nat) : BitVec 32 :=
  match viewLine s l (getLine s l) with
  | some d => lineCheck (checkAddr s l) d
  | none => 0

/-- The bits in which the check found first differs when a fault strikes the read of a line. -/
def struckBits (s : State) (l : Nat) : BitVec 32 :=
  match s.upsets.find? fun u => match u with | .read n _ => decide (n = l) | _ => false with
  | some (.read _ f) => f
  | _ => 0

/-- Whether a line's stored check fails. -/
def badCheck (s : State) (l : Nat) : Bool := !(getLine s l).poison && !checkOk s l (getLine s l)

/-- The lines that one read from the stack returns: those of a compressed block together, else one (R150). -/
def readTogether (s : State) (l : Nat) : List Nat := if blockCompressed s l then blockLines l else [l]

/-- The lines of a read whose first comparison failed, after the single retry of the whole: the good ones are transient, the others
lasting and left to `lasting`; a block with a lasting line is stored plain when `fix` says so. A poisoned line is not compared (R147, R150). -/
def settleRead (ls : List Nat) (fix : Bool) (lasting : Nat → BitVec 32 → State → State) (s : State) : State :=
  let found := ls.map fun n => (n, foundCheck s n ^^^ struckBits s n)
  let s := { s with upsets := ls.foldl (fun us n => us.eraseP fun u => match u with | .read m _ => decide (m = n) | _ => false) s.upsets }
  let bad := ls.filter (badCheck s)
  let good := ls.filter fun n => !(getLine s n).poison && !bad.contains n
  let s := if fix && !bad.isEmpty then plainBlock (ls.headD 0) s else s
  eachS found (fun e s => if bad.contains e.1 then lasting e.1 e.2 s else if good.contains e.1 then lineTransient e.1 e.2 s else s) s

/-- A line whose check fails at a read: settled with the lines that were read with it (R147, R150). -/
def settleBad (l : Nat) (s : State) : State := settleRead (readTogether s l) true settleLasting s

/-- A lasting mismatch that is left as it is: counted, logged and posted (R151, Table 5.4). -/
def lastingLeft (l : Nat) (found : BitVec 32) (s : State) : State :=
  let s := modInteg (fun x => { x with lasting := satInc 32 x.lasting }) s
  postLine l 8 .poisoned (logEntry (lineLog s l 8 found) s)

/-- A write of one line has its compressed block decoded: where a line of it fails its check, the whole block is settled. What the written line held
is counted, logged and posted with the others, and is neither repaired nor poisoned, since the line takes its new value (R118, R129, R150, R151,
log 46). -/
def settleOthers (l : Nat) (s : State) : State :=
  let lasting (n : Nat) (found : BitVec 32) (s : State) : State :=
    if n = l then lastingLeft n found s else settleLasting n found s
  whenS (blockCompressed s l && ((blockLines l).any (badCheck s) || s.upsets.any (strikesRead s l))) (settleRead (blockLines l) true lasting) s

/-! ### Hand-offs on the die (R27, R145, R146) -/

/-- Whether an awaited fault strikes a hand-off of a request. -/
def strikesHand (r : Req) : Upset → Bool
  | .handOff a _ _ _ _ => decide (r.pkt.addr.toNat / 64 ≤ a.toNat / 64) && decide (a.toNat / 64 < r.pkt.addr.toNat / 64 + pktLines r.pkt)
  | _ => false

/-- The check that an entry carries over a line of a request: that of its data there, or of the stored line for a read. -/
def handOffCheck (s : State) (r : Req) (a : Word) : BitVec 32 :=
  let here := nodeOf a.toNat = thisNode s
  let l := lineNo (offOf a.toNat)
  let d := r.pkt.data.getD (a.toNat / 64 - r.pkt.addr.toNat / 64) 0
  if isReadType r.pkt.ptype.toNat then (if here then foundCheck s l else 0)
  else lineCheck (if here then checkAddr s l else BitVec.ofNat 64 (a.toNat / 64 * 64)) (if r.pkt.ptype = 0x05 then d &&& maskBits r.pkt.mask else d)

/-- A retry-log entry of a hand-off between blocks of the die, at its consumer, under the line's check address (Table 5.4). -/
def handOffLog (s : State) (r : Req) (a : Word) (outcome consumer : Nat) (flip : BitVec 32) : LogEntry :=
  let here := nodeOf a.toNat = thisNode s
  let l := lineNo (offOf a.toNat)
  { stored := handOffCheck s r a, found := handOffCheck s r a ^^^ flip, valid := true, part := if here then partNo (lineOwner s l) else 0xFF,
    location := consumer, channel := if consumer < 0x20 then channelOfLine l else 0xFF, outcome := outcome,
    seq := 0, addr := if here then checkAddr s l else BitVec.ofNat 64 (a.toNat / 64 * 64), time := s.now }

/-- The partition that a path fault is posted to: the owner of the line, and for a line of another node the owner of the request (R151, R443). -/
def handOffPart (s : State) (r : Req) (a : Word) : Nat :=
  if nodeOf a.toNat = thisNode s then partNo (lineOwner s (lineNo (offOf a.toNat))) else existing s r.part

/-- The hand-offs of a request's entry from block to block: whether it arrives. One that fails is sent again and counted; one that fails again
is counted and posted with both ends (R145, R146, R151, Table 14.17). -/
def handPass (r : Req) (s : State) : Bool × State :=
  match strike (strikesHand r) s with
  | (some (.handOff a p c f again), s) =>
    if again then
      let s := modInteg (fun x => { x with pathFailed := satInc 32 x.pathFailed }) s
      let e := handOffLog s r a 5 c.toNat f
      (false, post { recOf s 0x0040 4 (handOffPart s r a) c.toNat with addr := e.addr, detail := p.toNat, status := 0x10 } (logEntry e s))
    else
      let s := modInteg (fun x => { x with pathRetried := satInc 32 x.pathRetried }) s
      (true, logEntry (handOffLog s r a 4 c.toNat f) s)
  | (_, s) => (true, s)

/-- A request on its way over the die: it goes on, or ends with POISONED, nothing applied (R146). -/
def handOver (go : Req → State → State) (r : Req) (s : State) : State :=
  match handPass r s with
  | (true, s) => go r s
  | (false, s) => finish r { status := .poisoned } s

/-- The record of a request that found a page without its key, when that is how it ends (R115). -/
def noteKey (r : Req) (ls : List Nat) (c : Status) (s : State) : State :=
  match ls.find? (keyMissing s) with
  | some l => whenS (c = .protection) (postKeyMissing r l) s
  | none => s

/-- What the lines of a fetch of submission entries came to, each for its own entry (R263); of another read the answer says all. -/
def entryStatuses (r : Req) (cs : List Status) (s : State) : State :=
  match r.origin with
  | .booth q n 0 => modCmd q n (fun c => { c with fetched := List.zipWith (fun f st => { f with status := st }) c.fetched cs }) s
  | _ => s

/-- Serves a read, line by line; a mismatch is settled first, an unusable channel is served by the partner (R147, R105). -/
def serveRead : Nat → Req → State → State
  | 0, _, s => s
  | n + 1, r, s =>
    let ls := reqLines r
    match ls.find? fun l => readOne s r l = .repair with
    | some l =>
      let s := settleBad l s
      let r := { r with retried := true }
      if lineHeld s l then park r .line s else serveRead n r s
    | none =>
      match ls.find? fun l => readOne s r l = .partner with
      | some l => askPartner l .repair [r] none s
      | none =>
        let rs := ls.map fun l => match readOne s r l with | .done c d => (c, d) | _ => (Status.poisoned, allOnes)
        let c := rs.foldl (fun a x => joinStatus a x.1) .ok
        let s := noteKey r ls c s
        entryStatuses r (rs.map Prod.fst) (finish r { status := c, data := rs.map Prod.snd } s)

/-! ### Writes of the store -/

/-- The data and mask of line i of a write. -/
def writeLine (p : Packet) (i : Nat) : LineData × Option Word :=
  (p.data.getD i 0, if p.ptype = 0x05 then some p.mask else none)

/-- The mirror write of a line that requests wrote, the line held until its acceptance (Table 5.6). -/
def mirrorWrite (rs : List Req) (c : Status) (l : Nat) (s : State) : State :=
  holdLine l .mirror (sendMirror (groupOfLine l) .write [l] (mirrorLinePkt s 0x30 l false) rs c none s)

/-- After acceptance: mirrored lines go to the partner and the writes wait for it, else they are complete (R28, R157). -/
def afterAccept (rs : List Req) (c : Status) (ls : List Nat) (s : State) : State :=
  let ms := ls.filter (mirrored s)
  if statusGood c && !ms.isEmpty then eachS ms (mirrorWrite rs c) s else eachS rs (fun r s => writeDone r c s) s

/-- Whether every line of a write can be accepted, and the status when one cannot. DESIGN CHOICE (log 61): a write of several lines, a stream
among them, of which one lies in an unusable channel is refused whole, no line of it written; no rule says what its other lines do
(R105, R211). -/
def writeBar (s : State) (ls : List Nat) : Status :=
  if ls.any (fun l => !channelUp s l) then .poisoned
  else if ls.any (keyMissing s) then .protection else .ok

/-- Serves a full write of one line or of aligned bursts, each burst indivisible (R28, R104, R210). -/
def serveFull (r : Req) (s : State) : State :=
  let ls := reqLines r
  let c := writeBar s ls
  if c ≠ .ok then writeDone r c (noteKey r ls c s)
  else
    let s := if pktLines r.pkt = 1 then storeLine (ls.headD 0) (r.pkt.data.headD 0) (settleOthers (ls.headD 0) s)
      else eachS (List.range (pktLines r.pkt / 4)) (fun b s =>
        storeBurst (ls.getD (4 * b) 0) ((r.pkt.data.drop (4 * b)).take 4) s) s
    afterAccept [r] .ok ls s

/-- Whether a request is a narrow write: of less than a line, a far atomic among them (R116). -/
def isNarrow (p : Packet) : Bool := p.ptype = 0x05 || p.ptype = 0x08

/-- The merge entries of a Carousel: 64 (Table 4.4). -/
def mergeEntries : Nat := 64

/-- The merge entries in use at a line's Carousel: the narrow writes whose read of the old line is under way or has come back (steps 2 to 4
of Table 4.4). -/
def mergesUsed (s : State) (l : Nat) : Nat :=
  let mine (r : Req) : Bool := isNarrow r.pkt && stackOfLine ((reqLines r).headD 0) = stackOfLine l
  (s.mem.reads.filter fun x => x.req.any mine).length + (s.mem.parked.filter fun p => p.why = .line && p.req.retried && !p.req.joined && mine p.req).length

/-- Whether the merge entry of a line stands at steps 2 to 4, so that a narrow write joins it: a narrow write holds the line for its read of
the old line, its retry or its repair (R120). -/
def mergeOpen (s : State) (l : Nat) : Bool :=
  let head (r : Req) : Bool := isNarrow r.pkt && (reqLines r).headD 0 = l
  match Tab.find s.mem.holds l with
  | some .stackRead | some .retry => s.mem.reads.any fun x => x.line = l && x.req.any head
  | some .repair =>
    match (s.mem.parked.map Parked.req).find? fun q => (reqLines q).contains l with
    | some q => head q && q.retried
    | none => false
  | _ => false

/-- A request whose line is held waits for it. A narrow write that finds a merge entry of its line at its read of the old line joins
that entry, when no other request stands between (R111, R120). -/
def parkLine (r : Req) (s : State) : State :=
  let l := (reqLines r).headD 0
  let between := (s.mem.parked.map Parked.req).any fun q => (reqLines q).contains l && !isNarrow q.pkt
  if isNarrow r.pkt && !r.joined && mergeOpen s l && !between then
    park { r with joined := true } .line (modStack (stackOfLine l) (fun x => { x with coalesced := satInc 16 x.coalesced }) s)
  else park r .line s

/-- The narrow writes that joined the merge entry of a line, in order of acceptance. -/
def joinedTo (s : State) (l : Nat) : List Req :=
  (s.mem.parked.map Parked.req).filter fun q => q.joined && (reqLines q).headD 0 = l

/-- The image of a line under merge: its bytes, the bytes written so far, and the narrow writes applied, an atomic with the old value it
found. -/
structure Merge where
  image : LineData
  mask : Word
  done : List Req
deriving DecidableEq, Repr

/-- A narrow write applied to the image: its masked bytes over those before (step 5 of Table 4.4), or an atomic's new value, unless a
CSWAP fails its comparison (R226, R228, R236). -/
def Merge.apply (x : Merge) (r : Req) : Merge :=
  if r.pkt.ptype = 0x08 then
    let o := bits r.pkt.addr.toNat 0 6
    let n := pktBytes r.pkt
    let op := bits r.pkt.code.toNat 0 4
    let old := lineField x.image o n
    let a := r.pkt.opA.toNat % 2 ^ (8 * n)
    let r := { r with old := BitVec.ofNat 128 old }
    if !atomicWrites op old a then { x with done := x.done ++ [r] } else
    let new := combinedNew op (8 * n) old a (r.pkt.opB.toNat % 2 ^ (8 * n)) (constituents r.pkt).length
    { image := lineSet x.image o n new, mask := x.mask ||| rangeMask o n, done := x.done ++ [r] }
  else
    let d := r.pkt.data.headD 0
    { image := mergeLine x.image d r.pkt.mask, mask := x.mask ||| r.pkt.mask, done := x.done ++ [r] }

/-- The end of a narrow write after its merge: a CSWAP that wrote nothing is answered with the old value, any other as a write is
(R226, R228). -/
def mergeDone (c : Status) (r : Req) (s : State) : State :=
  if r.pkt.ptype = 0x08 && statusGood c &&
      !atomicWrites (bits r.pkt.code.toNat 0 4) r.old.toNat (r.pkt.opA.toNat % 2 ^ (8 * pktBytes r.pkt)) then
    finish r { status := c, old := r.old } (chargeReq r 8 1 s)
  else writeDone r c s

/-- Narrow writes of one line whose old line has been read with a good status: merged, double-checked, accepted, sent to the partner,
and completed together (steps 5 to 8 of Table 4.4, R119). -/
def mergeInto (rs : List Req) (l : Nat) (base : LineData) (c : Status) (s : State) : State :=
  let m := rs.foldl Merge.apply { image := base, mask := 0, done := [] }
  if m.mask = 0 && rs.all (fun r => r.pkt.ptype = 0x08) then eachS m.done (mergeDone c) s else
  match acceptMerge ((rs.map Req.part).headD 0xFF) ((rs.map (reqNode s)).headD (thisNode s)) rs.length l m.image c (settleOthers l s) with
  | (c, s) =>
    if statusGood c && mirrored s l then mirrorWrite m.done c l s else eachS m.done (mergeDone c) s

/-- Serves a narrow write: the old line is read, then merged with the write and with those that joined it (Table 4.4, R116 to
R120). -/
def serveNarrow : Nat → Req → State → State
  | 0, _, s => s
  | n + 1, r, s =>
    let l := (reqLines r).headD 0
    let c := writeBar s [l]
    let all (s : State) : List Req := r :: joinedTo s l
    let leave (s : State) : State := modMem (fun m => { m with parked := m.parked.filter fun p => !(p.req.joined && (reqLines p.req).headD 0 = l) }) s
    if c ≠ .ok then eachS (all s) (fun r s => writeDone r c (noteKey r [l] c s)) (leave s)
    else if !r.retried && r.got.isEmpty && mergeEntries ≤ mergesUsed s l then park r .line s
    else match readOne s r l with
      | .repair =>
        let s := settleBad l s
        let r := { r with retried := true }
        if lineHeld s l then park r .line s else serveNarrow n r s
      | .partner => eachS (all s) (fun r s => writeDone r .poisoned s) (leave s)
      | .done c d =>
        if !statusGood c then eachS (all s) (fun r s => writeDone r c s) (leave s)
        else mergeInto (all s) l d c (leave s)

/-- Whether the header and the data of a publication lie on this device in PUBLISHABLE pages of it (R364). -/
def commitOk (s : State) (p : Packet) : Bool :=
  let d := leAt p.body 24 8
  publishable s p.addr && nodeOf d = thisNode s &&
    (List.range (ceilDiv (d % 2 ^ 29 + leAt p.body 32 8) (2 ^ 29))).all fun i => publishable s (BitVec.ofNat 64 (d / 2 ^ 29 * 2 ^ 29 + i * 2 ^ 29))

/-- A publication's commit at its header's home: decided against the header as it stands, and on replacement the whole header
line is written (R365, R366). -/
def serveCommit : Nat → Req → State → State
  | 0, _, s => s
  | n + 1, r, s =>
    let l := (reqLines r).headD 0
    let c := writeBar s [l]
    if c ≠ .ok then writeDone r c (noteKey r [l] c s)
    else if !commitOk s r.pkt then finish r { status := .protection } s
    else match readOne s r l with
      | .repair =>
        let s := settleBad l s
        let r := { r with retried := true }
        if lineHeld s l then park r .line s else serveCommit n r s
      | .partner => finish r { status := .poisoned } s
      | .done c h =>
        if !statusGood c then finish r { status := c } s else
        let b := r.pkt.body
        let version := leAt b 0 8
        let digest := leAt b 8 16
        match verdictOf h version digest with
        | .replace =>
          let d := newRegion h version digest (leAt b 24 8) (leAt b 32 8) (reqNode s r) (leAt b 40 2)
          match acceptFull l d (settleOthers l s) with
          | (st, s) => afterAccept [{ r with old := commitResult d false }] (if st = .ok then c else st) [l] s
        | .already => finish r { status := c, old := commitResult h true } s
        | v => finish r { status := verdictStatus v, old := commitResult h false } s

/-- The times a read may be settled and read again: once for each line and each awaited fault. -/
def readTries (s : State) (r : Req) : Nat := pktLines r.pkt + s.upsets.length + 1

/-- Serves a request at the Carousels of its lines, whatever agents hold (R113, R116, R226). -/
def perform (r : Req) (s : State) : State :=
  let t := r.pkt.ptype.toNat
  if isReadType t then serveRead (readTries s r) r s
  else if isNarrow r.pkt then serveNarrow (readTries s r) r s
  else if t = 0x09 then serveCommit (readTries s r) r s
  else serveFull r s

end Sys2Proof.Machine
end

