-- ==== Sys2Proof/Machine/Home.lean ====
section
/-! DEFINITION. The home agent (06): directory, transactions, probes, reservations, hot lines, lost agents; and the gate
every request passes before its lines are served. -/

namespace Sys2Proof.Machine

/-! ### Members and agents (R180 to R183) -/

/-- The applied RING record, when the device is a member. -/
def ringOf (s : State) : Option RingRec := s.rig.cur.ring

/-- This device's RING index. -/
def thisIndex (s : State) : Nat := match ringOf s with | some r => r.this | none => 0

/-- The node of a member. -/
def memberNode (s : State) (i : Nat) : Nat := match ringOf s with | some r => r.nodes.getD i 0 | none => 0

/-- The RING index of a node that the record names. -/
def memberOf (s : State) (node : Nat) : Option Nat :=
  match ringOf s with
  | some r => (List.range r.count).find? fun i => r.nodes.getD i 0 = node
  | none => none

/-- Whether a member is marked live (R182). -/
def memberLive (s : State) (i : Nat) : Bool := s.home.live.testBit i

/-- Whether a site is a Ring agent: an enabled site of a member (R180). -/
def siteAgent (s : State) (k : Nat) : Bool := (ringOf s).isSome && (sitePart s.rig.cur k).isSome

/-- The agent of a member for whom a packet of the member stands: the one it names, where that is the member's, else the member's first (R181,
log 8). -/
def pktAgent (i : Nat) (p : Packet) : Nat :=
  match p.list with
  | (_, a) :: _ => if a.toNat % 32 / 4 = i then a.toNat % 32 else 4 * i
  | [] => 4 * i

/-- The agent that a packet names (log 8). -/
def namedAgent (p : Packet) : Nat := match p.list with | (_, a) :: _ => a.toNat % 32 | [] => 0

/-- The agent that sent a coherent request (R181). -/
def reqAgent (s : State) (r : Req) : Option Nat :=
  match r.origin with
  | .site k => if siteAgent s k then some (4 * thisIndex s + k) else none
  | .link _ => (memberOf s r.pkt.srcNode.toNat).map fun i => pktAgent i r.pkt
  | _ => none

/-- Whether an agent is lost (R199). -/
def agentLostBit (s : State) (a : Nat) : Bool := s.home.lost.testBit a

/-! ### Directory (R184 to R186) -/

/-- The sites of a device mask, as a set of agents. -/
def maskAgents (m : Nat) : Nat := (setBits m 8).foldl (fun a i => a ||| (0xF <<< (4 * i))) 0

/-- The devices of a set of agents, as a mask. -/
def agentMask (a : Nat) : Nat := (List.range 8).foldl (fun m i => if bits a (4 * i) 4 = 0 then m else m ||| (1 <<< i)) 0

/-- DIR of a state (Table 6.1). -/
def dirBits : Dir → BitVec 12
  | .i => 0
  | .s a => BitVec.ofNat 12 (0x400 ||| agentMask a)
  | .o x => BitVec.ofNat 12 (0x800 ||| x % 32)

/-- The state a DIR field names; C reads as I, its transaction standing in the pool. -/
def dirOf (d : BitVec 12) : Dir :=
  match bits d.toNat 10 2 with
  | 1 => .s (maskAgents (bits d.toNat 0 8))
  | 2 => .o (bits d.toNat 0 5)
  | _ => .i

/-- The order I < S < O of R185. -/
def dirRank : Dir → Nat
  | .i => 0
  | .s _ => 1
  | .o _ => 2

/-- The directory-cache entry of a line. -/
def findEnt (s : State) (l : Nat) : Option DirEnt := s.home.cache.find? fun e => e.line = l

/-- State S of a set of agents, I when it is empty. -/
def sharedBy (a : Nat) : Dir := if a = 0 then .i else .s a

/-- The agents that may hold a copy: not lost, and of this device only its enabled sites (R184, R199). -/
def holdersMask (s : State) : Nat :=
  let here := (List.range 4).foldl (fun m k => if siteAgent s k then m else setBit m (4 * thisIndex s + k) false) (2 ^ 32 - 1)
  (s.home.lost ^^^ (2 ^ 32 - 1)) &&& (if (ringOf s).isSome then here else 2 ^ 32 - 1)

/-- The directory state of a line, the sharers that are lost or not enabled left out (R184, R185, R199). -/
def dirState (s : State) (l : Nat) : Dir :=
  match (match findEnt s l with | some e => e.dir | none => dirOf (getLine s l).dir) with
  | .s a => sharedBy (a &&& holdersMask s)
  | d => d

/-- The devices whose sharers of a line are known by device mask only: all, without a cache entry (R185, R192). -/
def maskedOf (s : State) (l : Nat) : Nat := match findEnt s l with | some e => e.masked | none => 0xFF

/-- Writes DIR of a line, alone (R130); nothing reaches an unusable channel (R105). -/
def writeDir (l : Nat) (d : BitVec 12) (s : State) : State := whenS (channelUp s l) (putLine l { getLine s l with dir := d }) s

/-- Sets a line's directory state: in its cache entry, with DIR raised to cover it, or in DIR alone (R185). -/
def setDir (l : Nat) (d : Dir) (s : State) : State :=
  match findEnt s l with
  | some _ =>
    let s := modHome (fun h =>
      { h with cache := h.cache.map fun e =>
        if e.line = l then { e with dir := d, used := s.now, masked := match d with | .s a => e.masked &&& agentMask a | _ => 0 } else e }) s
    let old := dirOf (getLine s l).dir
    let raised : Dir := match old, d with
      | .s a, .s b => .s (a ||| b)
      | o, n => if dirRank o < dirRank n then n else o
    whenS (dirBits raised ≠ (getLine s l).dir) (writeDir l (dirBits raised)) s
  | none => writeDir l (dirBits d) s

/-- The set of a line in its slice's cache: 16,384 sets (log 14). -/
def cacheSet (l : Nat) : Nat := sliceOfLine l * 16384 + (l / 2) % 16384

/-- The home allocates a cache entry for a coherent request: outside T2 pages, the least recently used unpinned entry of a
full set written back to DIR (R186). -/
def allocEnt (l : Nat) (s : State) : State :=
  if (attrOf s l).tier = 5 || (findEnt s l).isSome then s else
  let set := s.home.cache.filter fun e => cacheSet e.line = cacheSet l
  let d := dirState s l
  let e : DirEnt := { line := l, dir := d, masked := match d with | .s a => agentMask a | _ => 0, pinned := false, used := s.now }
  if set.length < 16 then modHome (fun h => { h with cache := h.cache ++ [e] }) s
  else match (set.filter fun e => !e.pinned).foldl
      (fun (b : Option DirEnt) e => match b with | some x => if e.used < x.used then some e else b | none => some e) none with
    | none => s
    | some v =>
      let s := writeDir v.line (dirBits v.dir) s
      modHome (fun h => { h with cache := (h.cache.filter fun x => x.line ≠ v.line) ++ [e] }) s

/-- Pins or unpins the entry of a line (R186). -/
def pinEnt (l : Nat) (b : Bool) (s : State) : State :=
  modHome (fun h => { h with cache := h.cache.map fun e => if e.line = l then { e with pinned := b } else e }) s

/-! ### Messages (R189 to R191) -/

/-- A coherence message to an agent: to its site, or to its member's node. -/
def toAgent (a : Nat) (p : Packet) (s : State) : State :=
  let i := a / 4
  if i = thisIndex s then toSite (a % 4) p s else
  let n := memberNode s i
  let p := { p with srcNode := BitVec.ofNat 16 (thisNode s), dstNode := BitVec.ofNat 16 n }
  match anyLink s n (offOf p.addr.toNat) with
  | some l => sendOn l { p with len := BitVec.ofNat 16 (pktLen false p) } s
  | none => s

/-- A coherence message to whoever sent a request. -/
def toRequester (r : Req) (p : Packet) (s : State) : State :=
  match r.origin with
  | .site k => toAsker r k { p with tag := r.pkt.tag } s
  | .link l =>
    let p := { p with tag := r.pkt.tag, srcNode := BitVec.ofNat 16 (thisNode s), dstNode := r.pkt.srcNode, list := r.pkt.list }
    match responseLink s l r.pkt.srcNode.toNat (offOf r.pkt.addr.toNat) with
    | some k => sendOn k { p with len := BitVec.ofNat 16 (pktLen false p) } s
    | none => s
  | _ => s

/-- The message of a type about a line. -/
def cohMsg (t : Nat) (addr : Word) : Packet := { ptype := BitVec.ofNat 8 t, addr := addr }

/-- A data message with its line and check (R189). -/
def dataMsg (t : Nat) (addr : Word) (d : LineData) : Packet :=
  { cohMsg t addr with data := [d], checks := answerChecks addr [d] }

/-- ERROR to a requester (Table 6.2). -/
def cohError (r : Req) (c : Status) (s : State) : State :=
  toRequester r { cohMsg 0x2F r.pkt.addr with code := BitVec.ofNat 8 (statusCode c) } s

/-- The global address of a line of this device. -/
def lineAddr (s : State) (l : Nat) : Word := BitVec.ofNat 64 (globalAddr (thisNode s) (l * 64))

/-! ### Transactions (R187, R192, R193, R195) -/

/-- The transaction open on a line. -/
def findTxn (s : State) (l : Nat) : Option Txn := s.home.txns.find? fun t => t.line = l

/-- Updates the transaction of a line. -/
def modTxn (l : Nat) (f : Txn → Txn) (s : State) : State :=
  modHome (fun h => { h with txns := h.txns.map fun t => if t.line = l then f t else t }) s

/-- A free entry of a slice's transaction-state pool (R187). -/
def freeTxn (s : State) (slice : Nat) : Option Nat :=
  let used := (s.home.txns.filter fun t => t.slice = slice).map Txn.idx
  if used.length ≥ 1024 then none
  else (List.range (used.length + 1)).find? fun i => !used.contains i

/-- The probes to a set of agents with a message: one to each site of this device, one to each other member (R190). -/
def probesFor (s : State) (agents : List Nat) : List Probe :=
  let here := agents.filter fun a => a / 4 = thisIndex s
  let far := (List.range 8).filter fun i => i ≠ thisIndex s && agents.any fun a => a / 4 = i
  here.map (fun a => { agents := [a], member := thisIndex s, sentAt := s.now, answered := false }) ++
    far.map (fun i => { agents := agents.filter fun a => a / 4 = i, member := i, sentAt := s.now, answered := false })

/-- The agent number that names the home itself as the requester of a probe (R192, log 8). -/
def homeMark : Nat := 0x20

/-- Sends the probes, which name the requester, the home itself where no agent asks, and the agents probed, but none in a probe by device
mask (R190, R192, log 8). -/
def sendProbes (t : Nat) (addr : Word) (req : Option Nat) (tag : BitVec 32) (masked : Nat) (ps : List Probe) (s : State) : State :=
  let who := match req with
    | some y => (BitVec.ofNat 16 (memberNode s (y / 4)), BitVec.ofNat 32 y)
    | none => (BitVec.ofNat 16 (thisNode s), BitVec.ofNat 32 homeMark)
  eachS ps (fun p s => toAgent (p.agents.headD 0)
    { cohMsg t addr with
      tag := tag
      list := who :: (if t = 0x20 && masked.testBit p.member then []
        else p.agents.map fun a => (BitVec.ofNat 16 (memberNode s p.member), BitVec.ofNat 32 a)) } s) s

/-- Opens a transaction on a line: C is recorded, the entry pinned, the probes sent (R186, R187). -/
def openTxn (l : Nat) (coh : Coh) (agent : Option Nat) (r : Req) (probe : Nat) (agents : List Nat) (after : Dir)
    (owner : Option Nat) (s : State) : State :=
  match freeTxn s (sliceOfLine l) with
  | none => s
  | some i =>
    let ps := probesFor s agents
    let masked := maskedOf s l
    let t : Txn := { slice := sliceOfLine l, idx := i, line := l, coh := coh, agent := agent, req := r, probes := ps,
                     granted := none, after := after, owner := owner, data := none, grant := none, sent := false, dead := false, gone := false, served := false, completed := false,
                     waiters := (match s.home.reserves.find? fun x => x.line = l with
                                 | some x => x.rest
                                 | none => []) }
    let s := modHome (fun h => { h with txns := h.txns ++ [t], reserves := h.reserves.filter fun x => x.line ≠ l }) s
    let s := pinEnt l true s
    let s := whenS ((findEnt s l).isNone) (writeDir l (BitVec.ofNat 12 (0xC00 ||| i))) s
    sendProbes probe (lineAddr s l) agent r.pkt.tag masked ps s

/-- The name under which a request waits after RETRY (R195). -/
def waiterOf (s : State) (r : Req) : Waiter :=
  let other : Waiter := .other r.origin r.pkt.srcNode.toNat r.pkt.tag.toNat
  match r.origin with
  | .link _ => if 0x10 ≤ r.pkt.ptype.toNat && r.pkt.ptype.toNat ≤ 0x13 then
      (match reqAgent s r with | some a => .agent a | none => other) else other
  | _ => match reqAgent s r with | some a => .agent a | none => other

/-- A waiter is recorded, once, behind those before it: the first 4 in the transaction-state entry, a later one when a place frees
(R195). -/
def addWaiter (w : Waiter) (ws : List Waiter) : List Waiter := if ws.contains w then ws else ws ++ [w]

/-- Records who met RETRY at a line: in its open transaction, or behind the waiter for whom it is reserved (R195). -/
def recordWaiter (l : Nat) (w : Waiter) (s : State) : State :=
  let s := modTxn l (fun t => { t with waiters := addWaiter w t.waiters }) s
  modHome (fun h => { h with reserves := h.reserves.map fun x =>
    if x.line = l && x.waiter ≠ w then { x with rest := addWaiter w x.rest } else x }) s

/-- The tag that a site gave a request. -/
def siteTag (r : Req) : Option Nat := match r.origin with | .site _ => some r.pkt.tag.toNat | _ => none

/-- A request that is answered with RETRY is known again when its requester sends it once more, by when it was first issued (R23). -/
def noteResend (r : Req) (s : State) : State :=
  let e : Resend := { who := waiterOf s r, tag := siteTag r, ptype := r.pkt.ptype.toNat, line := r.pkt.addr.toNat / 64, first := r.first.getD r.time }
  let other (x : Resend) : Bool := x.who ≠ e.who || x.tag ≠ e.tag || x.ptype ≠ e.ptype || x.line ≠ e.line
  modHome (fun h => { h with resends := h.resends.filter other ++ [e] }) s

/-- Whether a request is the one that its requester was told to send again; over the fabric it comes with another tag. -/
def resendFits (s : State) (r : Req) (e : Resend) : Bool :=
  e.who = waiterOf s r && e.tag = siteTag r && e.ptype = r.pkt.ptype.toNat && e.line = r.pkt.addr.toNat / 64

/-- A request at its ingress, as the retry of an earlier one where it is that (R23). -/
def asRetry (go : Req → State → State) (r : Req) (s : State) : State :=
  match s.home.resends.find? (resendFits s r) with
  | some e => go { r with again := true, first := some e.first } (modHome (fun h => { h with resends := h.resends.erase e }) s)
  | none => go r s

/-- The request meets RETRY: counted, and its requester recorded as a waiter. A coherent request and a site's request are answered; for any
other the block of this device that brought it keeps it and sends it again (R23, R195, Table 13.3, log 11). -/
def meetRetry (l : Nat) (r : Req) (s : State) : State :=
  let s := modHome (fun h => { h with retries := satInc 32 h.retries }) s
  let s := recordWaiter l (waiterOf s r) s
  let t := r.pkt.ptype.toNat
  if 0x10 ≤ t ∧ t ≤ 0x13 then toRequester r (cohMsg 0x2E r.pkt.addr) (noteResend r s)
  else match r.origin with
    | .site k => toAsker r k { ptype := 0x45, tag := r.pkt.tag, addr := r.pkt.addr } (noteResend r s)
    | _ => park { r with again := true } .again s

/-- Whether a line is reserved for a waiter other than a requester (R195). -/
def reservedFrom (s : State) (l : Nat) (w : Waiter) : Bool :=
  match s.home.reserves.find? fun x => x.line = l with
  | some x => w ≠ x.waiter
  | none => false

/-- The reservation of a line passes to the next waiter once the one it was for has been served (R195). -/
def passReserve (l : Nat) (w : Waiter) (s : State) : State :=
  let upd (x : Reserve) : Option Reserve :=
    if x.line = l && x.waiter = w then
      match x.rest with
      | [] => none
      | v :: vs => some { x with waiter := v, until_ := s.now + 256, rest := vs }
    else some x
  modHome (fun h => { h with reserves := h.reserves.filterMap upd }) s

/-- Closes the transaction of a line: its next state recorded, its entry unpinned, the line reserved for the first waiter
for 1,024 HOME cycles (R193, R195). -/
def closeTxn (l : Nat) (s : State) : State :=
  match findTxn s l with
  | none => s
  | some t =>
    let s := modHome (fun h => { h with txns := h.txns.filter fun x => x.line ≠ l }) s
    let s := pinEnt l false s
    let s := setDir l t.after s
    match t.waiters with
    | [] => s
    | w :: ws => modHome (fun h => { h with reserves := h.reserves ++ [{ line := l, waiter := w, until_ := s.now + 256, rest := ws }] }) s

/-! ### Lost owners (R199) -/

/-- Poisons a line whose owner is lost: reason OWNER_LOST, state I (R199). -/
def ownerLost (l : Nat) (s : State) : State :=
  let s := modHome (fun h => { h with ownerLost := satInc 16 h.ownerLost }) s
  setDir l .i (poisonLine l 1 s)

/-- Applies the loss of a line's owner on access (step 3 of R199). -/
def ownerCheck (l : Nat) (s : State) : State :=
  match dirState s l with
  | .o x => whenS (agentLostBit s x && (findTxn s l).isNone) (ownerLost l) s
  | _ => s

/-! ### Hot lines (R202, R203) -/

/-- The entry of a hot line. -/
def findHot (s : State) (l : Nat) : Option Hot := s.home.hot.find? fun h => h.line = l

/-- Applies a store to the entry of its hot line; on a mirrored page its acknowledgement waits for the flush (R202, R203). One that the
line's Carousel would refuse is refused here (R105, R115, R154). -/
def hotStore (l : Nat) (r : Req) (s : State) : State :=
  let (d, m) := writeLine r.pkt 0
  let m := m.getD (BitVec.allOnes 64)
  let bar := lineBar s l
  if bar ≠ .ok then writeDone r bar (noteKey r [l] bar s)
  else if (getLine s l).poison && (wholeHot s l).isNone && m ≠ BitVec.allOnes 64 then writeDone r .poisoned s else
  let owes := mirrored s l
  let upd (now : Nat) (h : Hot) : Hot :=
    if h.line = l then
      { h with
        data := mergeLine h.data d m
        mask := h.mask ||| m
        firstAt := some (h.firstAt.getD now)
        lastAt := now
        owed := if owes then h.owed ++ [r] else h.owed
        epoch := r.epoch }
    else h
  let s := modHome (fun x => { x with hot := x.hot.map (upd s.now) }) s
  if owes then s else writeDone r .ok s

/-- The request that stands for the flush of a hot line: it reads the line as the entry merges with it. -/
def hotReq (s : State) (l epoch : Nat) (retried : Bool) : Req :=
  { origin := .roustabout, pkt := { ptype := 0x05, addr := BitVec.ofNat 64 (globalAddr (thisNode s) (l * 64)) }, part := partNo (lineOwner s l),
    epoch := epoch, time := s.now, retried := retried }

/-- Flushes the entry of a hot line to the Carousel as one merged write, under R116 and R117 (R202); on a mirrored page the stores it
carries are acknowledged once the partner has accepted it (R203), as retried where a read of the line was settled first (R149). While the line is
held the entry keeps what it holds; on a fenced line its stores end unapplied (R451), and with POISONED where its entry fails twice on its way to the
Carousel (R27, R146). -/
def hotMerge : Nat → Nat → State → State
  | 0, _, s => s
  | n + 1, l, s =>
    match findHot s l with
    | none => s
    | some h =>
      if h.mask = 0 || lineHeld s l then s else
      let r := hotReq s l h.epoch h.retried
      let clear (x : Hot) : Hot := if x.line = l then { x with mask := 0, data := 0, firstAt := none, owed := [], retried := false } else x
      let leave (s : State) : State := modHome (fun x => { x with hot := x.hot.map clear }) s
      if fenced s l then eachS h.owed (fun r s => writeDone r .stateLost s) (leave s) else
      match handPass r s with
      | (false, s) => eachS h.owed (fun r s => writeDone r .poisoned s) (leave s)
      | (true, s) =>
      match readOne s r l with
      | .repair => hotMerge n l (modHome (fun x => { x with hot := x.hot.map fun y => if y.line = l then { y with retried := true } else y }) (settleBad l s))
      | .partner => eachS h.owed (fun r s => writeDone r .poisoned s) (leave s)
      | .done c d =>
        if !statusGood c then
          eachS h.owed (fun r s => writeDone r c s) (leave (whenS (c = .protection) (postKeyMissing r l) s))
        else match acceptMerge ((h.owed.map Req.part).headD (partNo (lineOwner s l))) ((h.owed.map (reqNode s)).headD (thisNode s)) (max 1 h.owed.length) l d c (settleOthers l s) with
          | (c, s) =>
            if statusGood c && mirrored s l then mirrorWrite h.owed c l (leave s)
            else eachS h.owed (fun r s => writeDone r c s) (leave s)

/-- Flushes the entry of a hot line (R202), under the maps of the epoch of its last store (R54). -/
def hotFlush (l : Nat) (s : State) : State :=
  match findHot s l with
  | some h => under h.epoch (hotMerge (s.upsets.length + 3) l) s
  | none => s

/-- Closes the entry of a hot line, after its flush (R202); one that cannot be flushed yet stays. -/
def hotClose (l : Nat) (s : State) : State :=
  let s := hotFlush l s
  modHome (fun x => { x with hot := x.hot.filter fun h => !(h.line = l && h.mask = 0) }) s

/-! ### The gate before the store -/

/-- A partition in CURTAIN that owns one of a request's lines (Table 15.4). -/
def sleeperOf (s : State) (ls : List Nat) : Option Nat :=
  (ls.filterMap (lineOwner s)).find? (sleeping s)

/-- The sharer nearest to the home, when SHARER_SOURCE is 1 and the cache entry gives an exact vector (R197). -/
def nearSharer (s : State) (l : Nat) : Option Nat :=
  if !s.home.sharerSource || maskedOf s l ≠ 0 then none else
  match dirState s l with
  | .s a =>
    let m := match ringOf s with | some r => r.count | none => 1
    let h := thisIndex s
    let dist (x : Nat) : Nat := let i := x / 4; min ((i + m - h) % m) ((h + m - i) % m)
    (setBits a 32).foldl (fun (b : Option Nat) x =>
      match b with | some y => if dist x < dist y then some x else b | none => some x) none
  | _ => none

/-- The probes that a non-coherent request needs on a line first: which, to whom, the line's next state and its owner (Table 6.3); a read of a
shared line may take its data from a sharer (R197). -/
def gateProbe (s : State) (isRead : Bool) (l : Nat) : Option (Nat × List Nat × Dir × Option Nat) :=
  match dirState s l, isRead with
  | .i, _ => none
  | .s a, true => (nearSharer s l).map fun x => (0x21, [x], .s a, none)
  | .s a, false => some (0x20, setBits a 32, .i, none)
  | .o x, true => some (0x21, [x], .s (1 <<< x), some x)
  | .o x, false => some (0x23, [x], .i, some x)

/-- The lines on which a non-coherent request opens transactions: for a read those that need a probe, for a write all lines of each burst
that holds one, so that no line of it is granted meanwhile (R192, R210). -/
def gateLines (s : State) (rd : Bool) (ls : List Nat) : List Nat :=
  let needs (l : Nat) : Bool := (gateProbe s rd l).isSome
  if rd then ls.filter needs
  else ls.filter fun l => ls.any fun n => blockOfLine n = blockOfLine l && needs n

/-- Opens the transactions that a non-coherent request needs (R192, R210). -/
def openGate (rd : Bool) (r : Req) (ls : List Nat) (s : State) : State :=
  eachS (gateLines s rd ls) (fun l s =>
    let coh : Coh := if rd then .ncRead else .ncWrite
    match gateProbe s rd l with
    | some (p, as, after, own) => openTxn l coh none r p as after own s
    | none => openTxn l coh none r 0 [] .i none s) s

/-- Whether a slice has no transaction-state entry free for each of some lines (R187). -/
def poolFull (s : State) (ls : List Nat) : Bool :=
  ls.any fun l => 1024 < (s.home.txns.filter fun t => t.slice = sliceOfLine l).length + (ls.filter fun n => sliceOfLine n = sliceOfLine l).length

/-- Whether two requests are one (waiting and settling change only what was read for it). -/
def sameReq (a b : Req) : Bool := a.origin = b.origin && a.pkt = b.pkt && a.part = b.part && a.epoch = b.epoch && a.time = b.time

/-- Whether a request is still under way at its Carousels. -/
def underWay (s : State) (r : Req) : Bool :=
  s.mem.parked.any (fun p => sameReq p.req r) || s.mem.reads.any (fun x => x.req.any (sameReq r)) ||
  s.integ.ops.any (fun o => o.reqs.any (sameReq r)) || s.home.hot.any (fun h => h.owed.any (sameReq r))

/-- Whether two waiting requests touch a line in common. -/
def sharesLine (a b : Req) : Bool := (reqLines a).any (reqLines b).contains

/-- Whether two requests come from one ordering source (R205). -/
def sameSource (a b : Origin) : Bool :=
  match a, b with
  | .site j, .site k => j = k
  | .booth q _ _, .booth p _ _ => q = p
  | .link j, .link k => j = k
  | .roustabout, .roustabout => true
  | .barker p, .barker q => p = q
  | _, _ => false

/-- Whether a request waits in its Carousel that was accepted there before another, to one of its lines (R111). -/
def behind (s : State) (r : Req) : Bool :=
  s.mem.parked.any fun p => p.why = .line && !p.req.joined && (r.taken = 0 || p.req.taken < r.taken) && sharesLine p.req r && !sameReq p.req r

/-- Where the earliest request waits that a request's own source sent before it to one of its lines (R206). -/
def earlier (s : State) (r : Req) : Option Wait :=
  (s.mem.parked.find? fun p => !p.req.joined && p.req.order < r.order && sameSource p.req.origin r.origin && sharesLine p.req r &&
    !sameReq p.req r).map Parked.why

/-- A request on its way to a place takes its turn behind the earlier requests of its source to its lines: behind one in the Carousel it
waits there, behind one on its way it comes no further than that, and behind one at its producer it waits at its own (R206). -/
def comeTo (goal : Wait) (r : Req) (go : Req → State → State) (s : State) : State :=
  let halt (w : Wait) : State := let q := reach s w r; park q q.place s
  match earlier s r with
  | none | some .line => admitTo goal r go s
  | some .slice => halt .slice
  | some .midway => halt .midway
  | some _ => park r .producer s

/-- Whether a request comes from a site whose agent is lost (R201). -/
def fromLost (s : State) (r : Req) : Bool :=
  match r.origin with
  | .site k => siteAgent s k && agentLostBit s (4 * thisIndex s + k)
  | _ => false

/-- Whether a store may be applied to a hot-line entry: of one line, from a site or over the fabric (R202). -/
def hotKind (r : Req) : Bool :=
  pktLines r.pkt = 1 && isWriteType r.pkt.ptype.toNat && (match r.origin with | .site _ => true | .link _ => true | _ => false)

/-- A request that no agent's copy keeps from its lines any longer: applied to the entry of its hot line, or, once it has a Ticket of the Carousel,
there, behind the close of the entries that its lines have (R20, R202). A reservation that its lines have passes on then (R195). -/
def applyNow (r : Req) (s : State) : State :=
  let ls := reqLines r
  let l := ls.headD 0
  let pass (s : State) : State := eachS ls (passReserve · (waiterOf s r)) s
  if hotKind r && (findHot s l).isSome then hotStore l r (pass s)
  else admitTo .line r (fun r s =>
    if isReadType r.pkt.ptype.toNat then perform r (pass s)
    else
      let s := eachS ls hotClose s
      if ls.any (lineHeld s) || ls.any (fun l => (findHot s l).isSome) then parkLine r s else perform r (pass s)) s

/-- Whether a line's DIR, which the Carousel reads with it, leaves a direct access there: a read in state I or S, a write in state I (R188). -/
def dirDirect (s : State) (rd : Bool) (l : Nat) : Bool :=
  let d := bits (getLine s l).dir.toNat 10 2
  if rd then d ≤ 1 else d = 0

/-- The turn of a request that stands at its home slice, or, on the direct path, at its Carousel: behind a fence, a held line, an earlier
request in the Carousel and a sleeping owner of a line (R111, R451, R465). -/
def atHome (r : Req) (go : Req → State → State) (s : State) : State :=
  let ls := reqLines r
  if ls.any (fenced s) then finish r { status := .stateLost } s
  else if ls.any (lineHeld s) || behind s r then admitTo .line r parkLine s
  else match sleeperOf s ls with
  | some p => park r (.curtain p) (wakePart p r.time s)
  | none => go r s

/-- A request at its home slice: an open transaction and a reservation answer it with RETRY, and a copy that an agent holds is probed for first
(R187, R192, R195). -/
def homeTurn (r : Req) (s : State) : State :=
  let ls := reqLines r
  let rd := isReadType r.pkt.ptype.toNat
  let w := waiterOf s r
  let s := eachS ls ownerCheck s
  if s.home.txns.any fun t => sameReq t.req r then perform r s
  else
    let r := { r with again := r.again || ls.any fun l => s.home.reserves.any fun x => x.line = l && x.waiter = w }
    let gates := gateLines s rd ls
    if ls.any (fun l => (findTxn s l).isSome) then meetRetry ((ls.find? fun l => (findTxn s l).isSome).getD 0) r s
    else if ls.any (fun l => reservedFrom s l w) then meetRetry ((ls.find? fun l => reservedFrom s l w).getD 0) r s
    else if gates.isEmpty then applyNow r s
    else if poolFull s gates then meetRetry (gates.headD 0) r s
    else
      let s := eachS ls hotClose s
      if ls.any (lineHeld s) || ls.any (fun l => (findHot s l).isSome) then admitTo .line r (park · .line) s
      else openGate rd r ls s

/-- A Booth's request at the Carousel of its own stack: applied there, or sent over the Midway to its home slice where the line's DIR asks for
that (R188). -/
def directTurn (r : Req) (s : State) : State :=
  if (reqLines r).all (dirDirect s (isReadType r.pkt.ptype.toNat)) then applyNow r s
  else comeTo .slice { r with sent := true, place := .producer, kept := false, taken := 0 } (fun r => atHome r homeTurn) s

/-- Serves a request at its home, or has it wait: for Tickets, an earlier request of its source, a held line, a sleeping partition, an open
transaction, a copy that an agent holds (R20, R111, R188, R192, R201, R206, R451, R465). -/
def serveHome (r : Req) (s : State) : State :=
  if fromLost s r then finish r { status := .protection } s
  else if directPath s r then comeTo .line r (fun r => atHome r directTurn) s
  else comeTo .slice r (fun r => atHome r homeTurn) s

/-- A request at its home, once its entry has come over the die (R27), under the maps of its epoch (R54). -/
def serve (r : Req) (s : State) : State := numbered r (fun r => under r.epoch (handOver serveHome r)) s

/-- The read of a line from memory for a coherent request: its status and data, or none while it waits for a repair or for the partner
(R105, R147). -/
def cohRead : Nat → Req → Nat → State → Option (Status × LineData) × State
  | 0, _, _, s => (none, s)
  | n + 1, r, l, s =>
    match readOne s r l with
    | .repair =>
      let s := settleBad l s
      let r := { r with retried := true }
      if lineHeld s l then (none, whenS (findTxn s l).isNone (park r .line) (modTxn l (fun t => { t with req := r }) s)) else cohRead n r l s
    | .partner => (none, askPartner l .repair [r] none s)
    | .done c d => (some (c, d), s)

/-- A grant leaves for the requester of a transaction: DIR covers it before (R185), and its COMPLETE is awaited (R198), until when the home keeps
what it sent (R145). A line without a cache entry keeps C in DIR until the transaction closes (R186). -/
def grantTo (l : Nat) (after : Dir) (r : Req) (p : Packet) (s : State) : State :=
  let s := modTxn l (fun t => { t with granted := some s.now, served := true, after := after, grant := some p }) s
  toRequester r p (whenS (findEnt s l).isSome (setDir l after) s)

/-- The record of a coherent request that its requester may not make (R183, R192). -/
def refuseCoherent (r : Req) (s : State) : State :=
  cohError r .malformed (post { reqRec s r 0x0005 1 with detail := r.pkt.ptype.toNat, status := 0x1F } s)

/-- A coherent request that memory serves, once it has a Ticket of the Carousel: the line read, and granted in a state (Table 6.3). -/
def fromMemory (coh : Coh) (y t : Nat) (after : Dir) (r : Req) (s : State) : State :=
  let l := (reqLines r).headD 0
  admitTo .line r (fun r s =>
    match cohRead (readTries s r) r l s with
    | (none, s) => s
    | (some (c, d), s) =>
      if !statusGood c then cohError r c (passReserve l (.agent y) (noteKey r [l] c s)) else
      grantTo l after r { dataMsg t (lineAddr s l) d with code := BitVec.ofNat 8 (statusCode c) } (openTxn l coh (some y) r 0 [] after none s)) s

/-- A coherent request of an agent at its home slice (Table 6.3). -/
def cohTurn (coh : Coh) (y : Nat) (r : Req) (s : State) : State :=
  let l := (reqLines r).headD 0
  let w : Waiter := .agent y
  let s := ownerCheck l s
  if (findTxn s l).isSome || reservedFrom s l w || (freeTxn s (sliceOfLine l)).isNone then meetRetry l r s
  else
    let s := hotClose l s
    if lineHeld s l || (findHot s l).isSome then admitTo .line r (park · .line) s else
    let s := allocEnt l s
    match dirState s l, coh with
    | .i, .shared => fromMemory coh y 0x28 (.s (1 <<< y)) r s
    | .i, _ => fromMemory coh y 0x29 (.o y) r s
    | .s a, .shared =>
      match nearSharer s l with
      | some x => openTxn l coh (some y) r 0x21 [x] (.s (a ||| (1 <<< y))) none s
      | none => fromMemory coh y 0x28 (.s (a ||| (1 <<< y))) r s
    | .s a, _ =>
      let others := (setBits a 32).filter fun x => x ≠ y
      let up := coh = .upgrade && a.testBit y
      if others.isEmpty then
        if up then grantTo l (.o y) r (cohMsg 0x2A r.pkt.addr) (openTxn l coh (some y) r 0 [] (.o y) none s)
        else fromMemory coh y 0x29 (.o y) r s
      else openTxn l (if up then .upgrade else .own) (some y) r 0x20 others (.o y) none s
    | .o x, c =>
      if x = y then refuseCoherent r s
      else if c = .shared then openTxn l coh (some y) r 0x21 [x] (.s ((1 <<< x) ||| (1 <<< y))) (some x) s
      else openTxn l .own (some y) r 0x22 [x] (.o y) (some x) s

/-- A coherent request at its home: from an agent that is not lost, behind the earlier requests of its source and in its Carousel's order (R111,
R183, R201, R206). -/
def cohHome (coh : Coh) (r : Req) (s : State) : State :=
  match reqAgent s r with
  | none => refuseCoherent r s
  | some y => if agentLostBit s y then cohError r .protection s else comeTo .slice r (fun r => atHome r (cohTurn coh y)) s

/-- A coherent request at its home, once its entry has come over the die (R27), under the maps of its epoch (R54). -/
def serveCoherent (coh : Coh) (r : Req) (s : State) : State := numbered r (fun r => under r.epoch (handOver (cohHome coh) r)) s

/-! ### Site fences (R222 to R224) -/

/-- Whether a site's request by its tag is still pending at this device. -/
def sitePending (s : State) (k tag : Nat) : Bool :=
  let mine (r : Req) : Bool := r.origin = .site k && r.pkt.tag.toNat = tag
  s.mem.parked.any (fun p => mine p.req) || s.mem.reads.any (fun x => x.req.any mine) ||
  s.integ.ops.any (fun o => o.reqs.any mine) || s.home.txns.any (fun t => mine t.req && t.granted.isNone) ||
  s.home.hot.any (fun h => h.owed.any mine)

/-- Whether a remote request of a fence's scope still keeps it waiting: a read or atomic until it ends, a write until it has
left, and with REMOTE until it ends (R222, R223). -/
def remotePending (s : State) (remote : Bool) (tag : Nat) : Bool :=
  s.fab.outst.any fun o => o.tag = tag && (remote || !o.sent || !isWriteType o.pkt.ptype.toNat)

/-- Answers the site fences whose earlier requests have all ended or left. -/
def settleFences (s : State) : State :=
  let upd (f : SiteFence) : SiteFence :=
    { f with tags := f.tags.filter (remotePending s f.remote), parked := f.parked.filter (sitePending s f.site) }
  let fs := s.ucie.fences.map upd
  let s := modUcie (fun x => { x with fences := fs.filter fun f => !(f.tags.isEmpty && f.parked.isEmpty) }) s
  eachS (fs.filter fun f => f.tags.isEmpty && f.parked.isEmpty)
    (fun f s => toSite f.site (siteStatus f.tag f.pkt.addr .ok) s) s

/-! ### Progress of transactions -/

/-- A request of open transactions that ends without its effect: told so, and its transactions close (R199, R451). -/
def endTxns (c : Status) (mine : List Txn) (r : Req) (s : State) : State :=
  eachS mine (fun x s => closeTxn x.line s) (if 0x10 ≤ r.pkt.ptype.toNat && r.pkt.ptype.toNat ≤ 0x13 then cohError r c s else finish r { status := c } s)

/-- A non-coherent request whose lines are all open is applied, with what owners and sharers sent, once it has a Ticket of the Carousel; its
transactions close once it is complete (R20, R192, R193, R210). It ends with POISONED where the owner of a line is lost (R199), and with
STATE_LOST where one is fenced (R451). -/
def ncProceed (t : Txn) (s : State) : State :=
  let s := modTxn t.line (fun t => { t with served := true }) s
  let mine := s.home.txns.filter fun x => sameReq x.req t.req
  if mine.all Txn.served && !mine.any (fun x => lineHeld s x.line) then
    if mine.any Txn.dead then endTxns .poisoned mine t.req s
    else if !t.completed && (reqLines t.req).any (fenced s) then endTxns .stateLost mine t.req s
    else
      let q := reach s .line t.req
      if !t.completed && q.place ≠ .line then s else
      let s := if t.completed then s else
        let got := mine.filterMap fun x => x.data.map fun d => (x.line, Status.ok, d)
        let r := if t.coh = .ncRead then { t.req with got := t.req.got ++ got } else t.req
        let s := eachS mine (fun x s => modTxn x.line (fun t => { t with completed := true }) s) s
        under r.epoch (admitTo .line r perform) s
      if underWay s t.req then s else eachS mine (fun x s => closeTxn x.line s) s
  else s

/-- The probed agent has sent the data of a grant to the requester itself (R192). -/
def grantSent (l : Nat) (t : Txn) (s : State) : State :=
  let s := modTxn l (fun t => { t with granted := some s.now, served := true }) s
  let s := whenS (findEnt s l).isSome (setDir l t.after) s
  if t.completed then closeTxn l s else s

/-- A directory state without an agent, which was not granted what it asked for. -/
def withoutAgent (y : Nat) : Dir → Dir
  | .s a => sharedBy (setBit a y false)
  | .o x => if x = y then .i else .o x
  | .i => .i

/-- A coherent request whose probes are all answered goes on: its grant leaves, from an owner's data, without data, or from memory where no
probed agent has sent the data, and the transaction closes once COMPLETE has come (R192, R193, R197). -/
def cohProceed (l : Nat) (t : Txn) (s : State) : State :=
  if t.granted.isSome then (if t.completed then closeTxn l s else s)
  else if t.dead then endTxns .poisoned [t] t.req (modTxn l (fun t => { t with after := withoutAgent (t.agent.getD 32) t.after }) s)
  else if t.sent then grantSent l t s
  else if fenced s l then endTxns .stateLost [t] t.req (modTxn l (fun t => { t with after := .i }) s)
  else match t.data, t.coh with
  | some d, c => grantTo l t.after t.req (dataMsg (if c = .shared then 0x28 else 0x29) (lineAddr s l) d) s
  | none, .upgrade => grantTo l t.after t.req (cohMsg 0x2A t.req.pkt.addr) s
  | none, c =>
    let q := reach s .line t.req
    if q.place ≠ .line then s else
    let s := modTxn l (fun t => { t with req := q }) s
    match cohRead (readTries s q) q l s with
    | (none, s) => s
    | (some (k, d), s) =>
      if statusGood k then grantTo l t.after q { dataMsg (if c = .shared then 0x28 else 0x29) (lineAddr s l) d with code := BitVec.ofNat 8 (statusCode k) } s
      else endTxns k [t] q (modTxn l (fun t => { t with after := .i }) (noteKey q [l] k s))

/-- The transaction of a line goes on once its probes are all answered and what was written to memory for it is complete (R193). `data` is what
an owner or a sharer has sent to the home. -/
def txnProceed (l : Nat) (data : Option LineData) (s : State) : State :=
  let s := match data with
    | some d => modTxn l (fun t => { t with data := some d }) s
    | none => s
  match findTxn s l with
  | none => s
  | some t =>
    if !t.probes.isEmpty || t.gone || lineHeld s l || s.integ.ops.any (fun o => o.lines.contains l) then s
    else match t.coh with
      | .ncRead | .ncWrite => ncProceed t s
      | _ => under t.req.epoch (cohProceed l t) s

/-- The transactions that something held back go on. -/
def driveTxns (s : State) : State := eachS (s.home.txns.map Txn.line) (fun l s => txnProceed l none s) s

/-- An answer to a probe counts for agents of a member: they owe nothing more. -/
def answerProbe (l member : Nat) (agents : List Nat) (s : State) : State :=
  modTxn l (fun t => { t with probes := (t.probes.map fun p =>
      if p.member = member then { p with agents := p.agents.filter fun a => !agents.contains a, answered := true } else p).filter fun p => !p.agents.isEmpty }) s

/-- Whether a transaction awaits an answer of a member on a line. -/
def awaits (s : State) (l member : Nat) : Bool :=
  match findTxn s l with
  | some t => t.probes.any fun p => p.member = member
  | none => false

/-- An owner's data written to memory as it returns, complete once the partner has accepted it on a mirrored page (R118, R157, R192,
R193). The requests it belongs to are answered then, or at once when it cannot be written. -/
def writeOwnerData (rs : List Req) (l : Nat) (d : LineData) (s : State) : State :=
  match acceptFull l d (settleOthers l s) with
  | (c, s) =>
    let s := eachS rs (fun r s => noteKey r [l] c s) s
    if c = .ok && mirrored s l then mirrorWrite rs .ok l s else eachS rs (fun r s => writeDone r c s) s

/-- COMPLETE (R193): noted, and the transaction closes when its probes are answered too. -/
def completeTxn (l : Nat) (agent : Nat) (s : State) : State :=
  match findTxn s l with
  | none => s
  | some t => if t.agent = some agent then txnProceed l none (modTxn l (fun t => { t with completed := true }) s) else s

/-! ### Lost agents (R198 to R201) -/

/-- The partition bound to an agent's site, when it is local. -/
def agentPart (s : State) (a : Nat) : Option Nat :=
  if a / 4 = thisIndex s then (Tab.find s.rig.cur.sites (a % 4)).map SiteRec.part else none

/-- The transactions that await an answer of a lost agent go on without it: a line it owned or was granted owned is poisoned and its
requester told, once the probes of its other lines are answered too (step 2 of R199). -/
def dropFromTxns (z : Nat) (s : State) : State :=
  let ts := s.home.txns.filter fun t =>
    t.probes.any (fun p => p.agents.contains z) || (t.agent = some z && t.granted.isSome) || (t.gone && t.owner = some z)
  eachS ts (fun t s =>
    let owned := t.owner = some z || (t.agent = some z && t.granted.isSome && dirRank t.after = 2)
    if owned then
      let s := modTxn t.line (fun t => { t with after := .i, gone := false, probes := [], dead := true }) s
      let s := modHome (fun h => { h with ownerLost := satInc 16 h.ownerLost }) s
      let s := poisonLine t.line 1 s
      if t.agent = some z then closeTxn t.line s
      else match t.coh with
        | .ncRead | .ncWrite => txnProceed t.line none s
        | _ => endTxns .poisoned [t] t.req s
    else if t.agent = some z && t.granted.isSome then closeTxn t.line s
    else txnProceed t.line none (answerProbe t.line (z / 4) [z] s)) s

/-- AGENT_LOST goes to every other live member (step 1 of R199). -/
def tellMembers (z : Nat) (s : State) : State :=
  eachS ((List.range 8).filter fun i => memberLive s i && i ≠ thisIndex s)
    (fun i s => toAgent (4 * i) { cohMsg 0x24 0 with list := [(0, BitVec.ofNat 32 z)] } s) s

/-- The scan of the directory cache for a lost agent: its owned lines poisoned, its sharer bits cleared (R200). -/
def scanCache (z : Nat) (s : State) : State :=
  let owned := (s.home.cache.filter fun e => e.dir = .o z && !e.pinned).map DirEnt.line
  let s := eachS owned ownerLost s
  modHome (fun h => { h with cache := h.cache.map fun e =>
    match e.dir with
    | .s a => { e with dir := sharedBy (setBit a z false) }
    | _ => e }) s

end Sys2Proof.Machine
end

