-- ==== Sys2Proof/Machine/Mirror.lean ====
section
/-! DEFINITION. Mirroring (05): the partner's acceptance of mirror packets, the home's repairs, and the breaking of a pair. -/

namespace Sys2Proof.Machine

/-- A response to a packet that came on a link: same tag and address, back to its sender (R389). -/
def reply (l : Nat) (p q : Packet) (s : State) : State :=
  match responseLink s l p.srcNode.toNat (offOf p.addr.toNat) with
  | some k => sendOn k { q with srcNode := BitVec.ofNat 16 (thisNode s), dstNode := p.srcNode, tag := p.tag, addr := p.addr } s
  | none => s

/-- A PROTOCOL record that names the sender of a packet on a link (R383, R393). -/
def protocolEvent (l : Nat) (p : Packet) (status : Nat) (s : State) : State :=
  post { recOf s 0x0005 1 0xFF (0x20 + l / 2) with
         addr := p.addr, detail := p.ptype.toNat, node := p.srcNode.toNat, status := status } s

/-- A retry-log entry of a hand-off at a Trapeze ingress, with the check carried and the check computed at the first failed comparison
(Table 5.4). -/
def pathLog (s : State) (part l outcome : Nat) (f : PathCheck) : LogEntry :=
  { stored := f.carried, found := f.found, valid := true, part := part, location := 0x20 + l / 2, channel := 0xFF,
    outcome := outcome, seq := 0, addr := f.addr, time := s.now }

/-- The check address under which a packet's line is logged: that of the stored line at its home, else its own (Table 5.4). -/
def logAddr (s : State) (a : Word) : Word :=
  if nodeOf a.toNat = thisNode s then checkAddr s (lineNo (offOf a.toNat)) else BitVec.ofNat 64 (a.toNat / 64 * 64)

/-- A request whose resent packet failed as well: counted and logged under the owner of its line, and posted, to the owner or, for a line of another
node, to the partition of the request, with both ends: the port here and the port of the node that sent it, whose number on a link to a switch is
taken to be this end's own (R146, R151, R443, log 52). -/
def pathFailed (l part told node : Nat) (f : PathCheck) (s : State) : State :=
  let s := modInteg (fun x => { x with pathFailed := satInc 32 x.pathFailed }) s
  let s := logEntry (pathLog s part l 5 f) s
  let far := if (getLink s l).peerKind = 1 then (getLink s l).peerPort % 8 else l / 2
  post { recOf s 0x0040 4 (existing s told) (0x20 + l / 2) with addr := f.addr, detail := 0x20 + far, node := node, status := 0x10 } s

/-- The one resend passed: counted and logged (R145). -/
def pathRetried (l part : Nat) (f : PathCheck) (s : State) : State :=
  let s := modInteg (fun x => { x with pathRetried := satInc 32 x.pathRetried }) s
  logEntry (pathLog s part l 4 f) s

/-! ### The partner (R156, R157, R163, R543) -/

/-- MIRROR_ACCEPT with a status. -/
def mirrorAnswer (l : Nat) (p : Packet) (c : Status) (s : State) : State :=
  reply l p { ptype := 0x38, code := BitVec.ofNat 8 (statusCode c) } s

/-- The partner takes the pair state a packet carries, and a sweep line raises HIGH_WATER (R543). -/
def learnState (g n : Nat) (p : Packet) (s : State) : State :=
  modMirror g (fun m =>
    { m with
      state := pairOf (bits p.aux.toNat 0 3)
      highWater := if p.aux.getLsbD 3 then lineIndex n + 1 else m.highWater }) s

/-- A line takes data, CHECK and SEQ as given, under the check address that goes with them, in the form its page asks for; poison clears
(R113, R140, R148, R157). -/
def rewriteLine (n : Nat) (d : LineData) (check : BitVec 32) (seq : BitVec 12) (a : Word) (s : State) : State :=
  let packed := blockCompressed s n
  let s := putLine n { getLine s n with
                       data := d, flip := check ^^^ lineCheck a d, seq := seq, poison := false, reason := 0,
                       tier := plainTier s n, key := storeKey s n, fmt := 0, at_ := if a = ownAddr s n then none else some a } s
  whenS packed (rewriteBlock n) s

/-- CHECK of a mirror line body. -/
def bodyCheck (p : Packet) : BitVec 32 := BitVec.ofNat 32 (leAt p.body 0 4)
/-- SEQ of a mirror line body. -/
def bodySeq (p : Packet) : BitVec 12 := BitVec.ofNat 12 (leAt p.body 4 2)
/-- The check address of a mirror line body. -/
def bodyAddr (p : Packet) : Word := BitVec.ofNat 64 (leAt p.body 8 8)

/-- MIRROR_DATA for the partner copy of a line once its read is settled (R163). A poisoned copy travels with its stored data, one that fails or
lies in an unusable channel with zeros. -/
def mirrorData (s : State) (n : Nat) : Packet :=
  let v := getLine s n
  let good := !v.poison && channelUp s n && checkOk s n v
  let poison := v.poison && channelUp s n
  let d := if good || poison then viewData s n v else 0
  let c := if good then lineCheckOf s n v else 0
  { ptype := 0x39, code := if good then 0 else 0x10, data := [d], checks := [c],
    body := leBytes 4 c.toNat ++ leBytes 2 v.seq.toNat ++ [BitVec.ofNat 8 (bit poison), BitVec.ofNat 8 (if poison then v.reason else 0)] ++
      leBytes 8 (checkAddr s n).toNat }

/-- The partner reads its copy by its own read path, with the single retry; a lasting mismatch is counted, logged and posted here, and the home settles
it (R147, R151, R163, R175). -/
def partnerRead (n : Nat) (s : State) : State :=
  if channelUp s n && !(getLine s n).poison && (badCheck s n || s.upsets.any (strikesRead s n)) then
    settleRead (readTogether s n) false lastingLeft s
  else s

/-- The metadata-only write of POISON that software asks for at its Carousel: nothing is changed in an unusable channel, on a page whose key is
missing or on a fenced line (R105, R115, R177, R451). -/
def softPoison (r : Req) (s : State) : State :=
  let l := lineNo (offOf r.pkt.addr.toNat)
  if fenced s l || !channelUp s l then s
  else if keyMissing s l then postKeyMissing r l s
  else poisonLine l (leAt r.pkt.body 1 1) s

/-- A raw read ends with a result: its line is free again (R178). -/
def inspectEnd (result : Nat) (s : State) : State :=
  whenS (Tab.find s.mem.holds s.integ.inspLine = some .inspect) (freeLine s.integ.inspLine)
    (modInteg (fun x => { x with inspBusy := false, inspResult := result }) s)

/-- A raw read's turn in its line's order: the home copy is read from the stack, the partner's asked for, the line held until then; a copy that
cannot be read is refused (R111, R178). -/
def inspectTurn (r : Req) (s : State) : State :=
  let l := lineNo (offOf r.pkt.addr.toNat)
  if s.integ.inspPartner then
    if mirrored s l then askPartner l .inspect [] none (holdLine l .inspect s) else inspectEnd 2 s
  else if channelUp s l && !keyMissing s l then holdLine l .inspect s else inspectEnd 2 s

/-- A mirror packet at the partner's Carousel, past its checks: a line, a metadata write or a read (Table 5.6, R163); or the Roustabout's metadata
write or raw read at the home. -/
def mirrorTurn (r : Req) (s : State) : State :=
  match r.origin with
  | .link l =>
    let p := r.pkt
    let n := lineNo (offOf p.addr.toNat)
    let g := groupOfLine n
    if (getMirror s g).state = .promoted then mirrorAnswer l p .targetDead s
    else if keyMissing s n then mirrorAnswer l p .protection (postKeyMissing r n s)
    else match p.ptype.toNat with
    | 0x30 =>
      if !channelUp s n then mirrorAnswer l p .poisoned s
      else
        let s := rewriteLine n (p.data.headD 0) (bodyCheck p) (bodySeq p) (bodyAddr p) (settleOthers n s)
        mirrorAnswer l p .ok (learnState g n p (putLine n { getLine s n with dir := 0 } s))
    | 0x31 =>
      if !channelUp s n then mirrorAnswer l p .poisoned s else
      let v := getLine s n
      mirrorAnswer l p .ok (learnState g n p (putLine n { v with poison := decide (leAt p.body 0 1 % 2 = 1), reason := leAt p.body 1 1 % 8 } s))
    | _ =>
      let s := partnerRead n s
      reply l p (mirrorData s n) (learnState g n p s)
  | .roustabout => if r.pkt.ptype = 0x32 then inspectTurn r s else softPoison r s
  | _ => s

/-- A mirror packet, a metadata write or a raw read on its way to its Carousel, where it takes its place in the line's order (R20, R111, R177,
R178); a metadata write or raw read wakes a sleeping owner and waits for it (R465). -/
def mirrorServe (r : Req) (s : State) : State :=
  let l := lineNo (offOf r.pkt.addr.toNat)
  match if r.origin = .roustabout then sleeperOf s [l] else none with
  | some p => park r (.curtain p) (wakePart p r.time s)
  | none => numbered r (comeTo .line · fun r s => if lineHeld s l || behind s r then park r .line s else mirrorTurn r s) s

/-! ### The home -/

/-- A request that waited for its partner is served again before those that came after it. -/
def resume (r : Req) (s : State) : State := park r .line s

/-- Removes a mirror packet from those that await their answer; packets that waited for it may leave (R158, R386). -/
def dropOp (o : MirrorOp) (s : State) : State := pumpMirror (modInteg (fun x => { x with ops := x.ops.filter fun y => y.tag ≠ o.tag }) s)

/-- Releases the lines of a mirror packet, but for those that another one holds still (R158). -/
def freeOp (o : MirrorOp) (s : State) : State :=
  eachS o.lines (fun l s => if s.integ.ops.any fun y => y.lines.contains l then s else freeLine l s) (dropOp o s)

/-- The writes of the requests whose mirror packets have all been answered are complete (R157). -/
def opDone (o : MirrorOp) (c : Status) (s : State) : State :=
  let s := freeOp o s
  eachS o.reqs (fun r s => if s.integ.ops.any fun y => y.kind = .write && y.reqs.contains r then s else mergeDone c r s) s

/-- A repair that found no good copy (R147), or a read of an unusable channel that did (R105). -/
def repairFailed (o : MirrorOp) (s : State) : State :=
  let l := o.lines.headD 0
  match o.reqs with
  | [] => settlePoisoned l o.found (freeOp o s)
  | rs => eachS rs (fun r s => resume { r with got := r.got ++ [(l, .poisoned, allOnes)] } s) (dropOp o s)

/-- The command of a mirror packet receives what it asked for, with the check slot as a second line. -/
def tellCmd (o : MirrorOp) (c : Status) (ds : List LineData) (s : State) : State :=
  match o.cmd with
  | some (q, n, id) => boothAnswer q n id { status := c, data := ds } s
  | none => s

/-- What a break of the pair does to one packet that awaits its answer (R159). DESIGN CHOICE, log 58: a raw read in flight ends at once with NO_REPLY,
whatever broke the pair (R178). -/
def breakOp (o : MirrorOp) (s : State) : State :=
  match o.kind with
  | .write => opDone o .ok s
  | .metadata => freeOp o s
  | .repair => repairFailed o s
  | .inspect => inspectEnd 3 (freeOp o s)
  | _ => tellCmd o .targetDead [] (freeOp o s)

/-- The requests whose writes a set of mirror packets carries, each once, with the status that each then has. -/
def brokenWrites (os : List MirrorOp) : List (Req × Status) :=
  ((os.filter fun o => o.kind = .write).flatMap fun o => o.reqs.map fun r => (r, o.status)).foldl (fun l e => if l.any (fun x => x.1 = e.1) then l else l ++ [e]) []

/-- A pair becomes BROKEN: its packets in flight end and none that waits leaves, its held writes complete at the home alone, and the owner is told
(R159, R543). -/
def breakPair (g : Nat) (s : State) : State :=
  let m := getMirror s g
  if m.partner || !(m.state = .inStep || m.state = .resyncing) then s else
  let s := modMirror g (fun m => { m with state := .broken }) s
  let s := modMoves (fun l => l.map fun r => if r.page / 64 = g && r.attr.mirror then { r with broke := true } else r) s
  let os := s.integ.ops.filter fun o => o.group = g && o.kind ≠ .open
  let s := modInteg (fun x => { x with ops := x.ops.filter fun o => !os.contains o }) s
  let s := eachS (os.filter fun o => o.kind = .write) (fun o s => eachS o.lines freeLine s) s
  let s := eachS (brokenWrites os) (fun e s => mergeDone e.2 e.1 s) s
  let s := eachS (os.filter fun o => o.kind ≠ .write) breakOp s
  post { recOf s 0x0043 4 (partNo (groupOwner s.rig.cur g)) (g / 4) with detail := g, node := m.node } s

/-- A mirror packet went unanswered or was refused (R159, R178, R543). -/
def opFailed (o : MirrorOp) (refused : Bool) (c : Status) (s : State) : State :=
  match o.kind with
  | .open => tellCmd o (if refused then c else .targetDead) [] (dropOp o s)
  | .inspect =>
    let s := inspectEnd (if refused then 2 else 3) (freeOp o s)
    whenS refused (breakPair o.group) s
  | _ =>
    let m := getMirror s o.group
    if m.state = .inStep || m.state = .resyncing then breakPair o.group s else breakOp o s

/-- Whether an awaited fault strikes the read-back of one line. -/
def strikesLine (l : Nat) : Upset → Bool
  | .read n _ => n = l
  | _ => false

/-- The line of a repair is rewritten from the partner and read back; a read-back that a fault strikes fails (R147, R148, R151). -/
def repairFrom (o : MirrorOp) (p : Packet) (s : State) : State :=
  let l := o.lines.headD 0
  match o.reqs with
  | r :: rs => eachS (r :: rs) (fun r s => resume { r with got := r.got ++ [(l, .okRetried, p.data.headD 0)] } s) (dropOp o s)
  | [] =>
    let e := lineLog s l 2 o.found
    let s := rewriteLine l (p.data.headD 0) (bodyCheck p) (bodySeq p) (checkAddr s l) (freeOp o s)
    let (u, s) := strike (strikesLine l) s
    if u.isNone && checkOk s l (getLine s l) then
      let s := modInteg (fun x => { x with repaired := satInc 32 x.repaired }) s
      postLine l 2 .okRetried (logEntry e s)
    else
      let s := settlePoisoned l o.found s
      post { recOf s 0x0041 4 (partNo (lineOwner s l)) (stackOfLine l) with addr := checkAddr s l, detail := channelOfLine l } s

end Sys2Proof.Machine
end

