-- ==== Sys2Proof/Machine/Ingress.lean ====
section
/-! DEFINITION. The way in and the way out: the checks of Table 3.5 for site and fabric requests, bouncing, the carried
check at a Trapeze ingress, the replay table, and the requests this device sends to other nodes (03, 07, 12, 13). -/

namespace Sys2Proof.Machine

/-! ### Form (check 1 of Table 3.5) -/

/-- Whether a far atomic's operation may be combined (Table 7.3). -/
def combinable (op : Nat) : Bool := op ≤ 2 || (4 ≤ op && op ≤ 7)

/-- Whether the address of a request has the alignment its type asks for (R75, R78, R382). -/
def addrOk (p : Packet) : Bool :=
  let a := p.addr.toNat
  let t := p.ptype.toNat
  if t = 0x0A ∨ t = 0x0B then true else
  decide (a < 2 ^ 58) &&
  (if t = 0x02 ∨ t = 0x06 then a % 256 = 0
   else if t = 0x03 ∨ t = 0x07 then a % 256 = 0 && p.aux.toNat ≤ 15 && a % 4096 / 256 + p.aux.toNat + 1 ≤ 16
   else if t = 0x08 then bits p.code.toNat 4 2 ≠ 3 && a % pktBytes p = 0
   else a % 64 = 0)

/-- Whether CODE and the operands hold defined encodings (R226, R227, R383). -/
def codeOk (p : Packet) : Bool :=
  if p.ptype = 0x08 then
    bits p.code.toNat 0 4 ≤ 9 && bits p.code.toNat 6 2 = 0 && decide (p.opA.toNat < 2 ^ atomicBits p) &&
    decide (p.opB.toNat < 2 ^ atomicBits p) && (bits p.code.toNat 0 4 = 9 || p.opB = 0)
  else p.code = 0

/-- Whether a COMBINED packet keeps R235 and R394. -/
def combinedOk (p : Packet) : Bool :=
  !pktCombined p ||
  ((p.ptype = 0x01 || p.ptype = 0x02 || (p.ptype = 0x08 && combinable (bits p.code.toNat 0 4))) &&
   1 ≤ p.aux.toNat && p.aux.toNat ≤ 15 && p.list.length = p.aux.toNat + 1 &&
   !pktResend p && !pktGranted p && !pktCountEn p &&
   (match p.list with | (n, t) :: _ => n = p.srcNode && bits t.toNat 0 20 = bits p.tag.toNat 0 20 | [] => false))

/-- Whether the fields that only some requests use are 0 elsewhere (Table 12.4). -/
def fieldsOk (p : Packet) : Bool :=
  let t := p.ptype.toNat
  bits p.flags.toNat 5 3 = 0 && decide (p.tag.toNat < 2 ^ 20) && decide (p.part.toNat < 32) &&
  (if pktCountEn p then (isWriteType t || t = 9) && decide (p.counter.toNat < 2048) else p.counter = 0) &&
  (t = 3 || t = 7 || pktCombined p || (t = 0x13 && p.aux.toNat ≤ 1) || p.aux = 0) &&
  (pktGranted p || p.grantId = 0) && (!pktResend p || t = 8 || isReadType t)

/-- The form of a fabric request (check 1). -/
def formOk (p : Packet) : Bool := addrOk p && codeOk p && combinedOk p && fieldsOk p

/-- A packet as a site sent it: where its command leaves LEN at 0, LEN is what the body makes it (log 44). -/
def sized (p : Packet) : Packet := { p with len := if p.len = 0 then BitVec.ofNat 16 (pktLen true p) else p.len }

/-- What every packet of a site keeps: the fields of the fabric's header are 0 (R415), and LEN agrees with the body (R416). -/
def localForm (p : Packet) : Bool :=
  p.srcNode = 0 && p.dstNode = 0 && p.part = 0 && p.epoch = 0 && p.jobKey = 0 && decide (p.tag.toNat < 2 ^ 16) && p.grantId = 0 &&
  decide (p.len.toNat = pktLen true p)

/-- The form of a site request (check 1, R415, R416). -/
def siteFormOk (p : Packet) : Bool :=
  addrOk p && codeOk p && localForm p && (p.flags = 0 || p.flags = 8) &&
  (if pktCountEn p then isWriteType p.ptype.toNat && decide (p.counter.toNat < 2048) else p.counter = 0) &&
  (p.ptype = 3 || p.ptype = 7 || (p.ptype = 0x13 && p.aux.toNat ≤ 1) || p.aux = 0)

/-- The form of a site's packet that is no request: only a coherence answer uses CODE, and DIRTY and GONE of AUX (R416, Table 12.4). -/
def siteMessageOk (p : Packet) : Bool :=
  let answer := 0x28 ≤ p.ptype.toNat && p.ptype.toNat ≤ 0x2F
  localForm p && p.flags = 0 && p.counter = 0 && (answer || p.code = 0) && decide (p.aux.toNat ≤ if answer then 3 else 0)

/-! ### The arrival-counter check (R214) -/

/-- Whether the counter that a request names belongs to the partition it acts for. -/
def counterOk (s : State) (r : Req) : Bool :=
  !pktCountEn r.pkt || ctrOwner (mapsAt s r.epoch) (bits r.pkt.counter.toNat 0 11) = some r.part

/-- An arrival at a counter of a sleeping partition waits (Table 15.4): the partition it acts for owns the counter. -/
def actor (s : State) (r : Req) : Option Nat := if sleeping s r.part then some r.part else none

/-! ### Requests to other nodes (R79, R386, R388, R206) -/

/-- Whether two packets touch a line in common. -/
def sameLines (a b : Packet) : Bool :=
  let x := a.addr.toNat / 64
  let y := b.addr.toNat / 64
  x < y + pktLines b && y < x + pktLines a

/-- The link of an outstanding request at this moment, under the maps of its epoch (R54, R388). -/
def outLink (s : State) (epoch part : Nat) (p : Packet) : Option Nat :=
  let t := p.ptype.toNat
  if 0x10 ≤ t ∧ t ≤ 0x13 then anyLink s p.dstNode.toNat (offOf p.addr.toNat)
  else requestLink s (mapsAt s epoch) part p.dstNode.toNat (offOf p.addr.toNat)

/-- The reserved request Tickets of a link (R386). -/
def reservedTickets (s : State) (l : Nat) : Nat :=
  match Tab.find s.rig.cur.ports (l / 2) with
  | some r => if r.width = 0 then 2048 else 1024
  | none => 0

/-- The request Ticket that a request can take on a link under the maps of its epoch: one of its partition's share, a hard limit, or a reserved one
for the resends that R384 names; `true` is a reserved one (R54, R386). A coherence request of a partition without a share there takes none, since
R388 lets it leave there (log 59). -/
def linkTicket (s : State) (o : Outst) (l : Nat) : Option Bool :=
  let t := o.pkt.ptype.toNat
  let share := linkShare (mapsAt s o.epoch) l o.part
  let held := s.fab.outst.filter fun x => x.ticketed && x.link = l && x.tag ≠ o.tag
  if (held.filter fun x => !x.kept && x.part = o.part).length < share || (0x10 ≤ t && t ≤ 0x13 && share = 0) then some false
  else if drawsReserved s (o.resend.getD o.pkt) && (held.filter Outst.kept).length < reservedTickets s l then some true
  else none

/-- Whether a request may leave on a link: it can take a request Ticket there (R386), and no earlier request of its source to one of its lines is
outstanding on another link (R206). -/
def mayLeave (s : State) (o : Outst) (l : Nat) : Bool :=
  (linkTicket s o l).isSome &&
  !(s.fab.outst.takeWhile fun x => x.tag ≠ o.tag).any fun x =>
      sameSource x.origin o.origin && sameLines x.pkt o.pkt && (x.link ≠ l || !x.ticketed)

/-- Updates an outstanding request. -/
def modOutst (tag : Nat) (f : Outst → Outst) (s : State) : State :=
  modFab (fun x => { x with outst := x.outst.map fun o => if o.tag = tag then f o else o }) s

/-- The packet of an outstanding request is handed to the link whose Ticket it holds; its times run from when it leaves (R232, R400). -/
def handOn (o : Outst) (l : Nat) (p : Packet) (s : State) : State := sendOn l p (charge o.part o.epoch 2 (16 * p.len.toNat) o.time s)

/-- An outstanding request takes its Ticket of a link and is handed to it, in the form in which it is to be sent again where it is that. -/
def launch (o : Outst) (l : Nat) (s : State) : State :=
  let k := (linkTicket s o l).getD false
  handOn o l (o.resend.getD o.pkt) (modOutst o.tag (fun x => { x with link := l, ticketed := true, kept := k, resend := none }) s)

/-- The packet of a remote request: the identity of the window, the tag, the check made at entry, COMBINABLE (R79, R84,
R143, R235). -/
def remotePkt (s : State) (r : Req) (e : BitVec 128) (tag : Nat) : Packet :=
  let p := r.pkt
  let t := if p.ptype = 0x14 then 0x01 else if p.ptype = 0x15 then 0x04 else p.ptype.toNat
  let comb := t = 0x01 || t = 0x02 || (t = 0x08 && combinable (bits p.code.toNat 0 4))
  let cs := if t = 0x05 then [lineCheck p.addr ((p.data.headD 0) &&& maskBits p.mask)] else answerChecks p.addr p.data
  let p := { p with ptype := BitVec.ofNat 8 t, srcNode := BitVec.ofNat 16 (thisNode s),
                    dstNode := BitVec.ofNat 16 (nodeOf p.addr.toNat), tag := BitVec.ofNat 32 tag,
                    part := BitVec.ofNat 8 (winPart e), epoch := BitVec.ofNat 8 (winEpoch e),
                    jobKey := BitVec.ofNat 16 (jobKeyOf (mapsAt s r.epoch) r.part), checks := cs,
                    flags := BitVec.ofNat 8 (setBit p.flags.toNat 0 comb),
                    list := match r.origin with
                      | .site k => if 0x10 ≤ t ∧ t ≤ 0x13 then [(BitVec.ofNat 16 (thisNode s), BitVec.ofNat 32 (4 * thisIndex s + k))] else []
                      | _ => [] }
  { p with len := BitVec.ofNat 16 (pktLen false p) }

/-- Removes a site's buffered lines that its own write, dirty WRITEBACK or atomic touches, as it is issued; a read of one that is under way does not bring it back
(R206, R213). -/
def siteBufWrite (k : Nat) (p : Packet) (s : State) : State :=
  if isWriteType p.ptype.toNat || p.ptype = 0x08 || (p.ptype = 0x13 && p.aux.getLsbD 0) then
    let s := modFab (fun x => { x with outst := x.outst.map fun o =>
      (if o.origin = Origin.site k && sameLines o.pkt p then { o with nc := false } else o) }) s
    eachS (List.range (pktLines p)) (fun i s => modOrder (fun x =>
      { x with siteBufs := Tab.insert x.siteBufs k (dropLine (p.addr.toNat + 64 * i) (Tab.get [] x.siteBufs k)) }) s) s
  else s

/-- Sends a request to another node: a tag is taken and the request waits for its response (R386), or ends with
TARGET_DEAD when no link leads there (R388). -/
def sendRemote (r : Req) (win : Nat) (e : BitVec 128) (s : State) : State :=
  let tag := freshTag s
  let p := remotePkt s r e tag
  match outLink s r.epoch r.part p with
  | none => refuse r .targetDead s
  | some l =>
    let o : Outst := { tag := tag, link := l, part := r.part, epoch := r.epoch, time := r.time, pkt := p, origin := r.origin, siteTag := r.pkt.tag.toNat,
                       firstAt := s.now, lastAt := s.now, resends := 0, ticketed := false, kept := false, sent := false, grantId := none,
                       unbounced := [], restart := false, reread := false, resend := none, again := none, window := win,
                       nc := decide (r.pkt.ptype = 0x14), life := r.life }
    let s := match r.origin with | .site k => siteBufWrite k r.pkt s | _ => s
    let s := modFab (fun x => { x with outst := x.outst ++ [o], nextTag := (tag + 1) % 2 ^ 20 }) s
    whenS (mayLeave s o l) (launch o l) s

/-- An outstanding request leaves the list; its tag is held until a cycle where one is given. -/
def takeOutst (o : Outst) (hold : Option Nat) (s : State) : State :=
  modFab (fun x =>
    { x with
      outst := x.outst.filter fun y => y.tag ≠ o.tag
      tagHolds := match hold with
        | some t => x.tagHolds ++ [{ tag := o.tag, until_ := t }]
        | none => x.tagHolds }) s

/-- The request an outstanding packet stands for, as its origin issued it. -/
def outstReq (o : Outst) : Req :=
  { origin := o.origin, pkt := { o.pkt with tag := BitVec.ofNat 32 o.siteTag }, part := o.part, epoch := o.epoch,
    time := o.time, life := o.life }

/-- The answer to an outstanding request reaches its origin (R29, R88). -/
def tellOrigin (o : Outst) (a : Answer) (noBuf : Bool) (s : State) : State :=
  let r := outstReq o
  match o.origin with
    | .site k =>
      let s := whenS (isReadType o.pkt.ptype.toNat && statusGood a.status) (charge o.part o.epoch 0 (64 * pktLines o.pkt) o.time) s
      let s := whenS (o.nc && statusGood a.status && !noBuf && o.life = (getSite s k).life) (fillSiteBuf k o.pkt.addr a.data) s
      toAsker r k (siteAnswer s k r noBuf a) s
    | .booth q n id =>
      boothAnswer q n id a (whenS noBuf (modCmd q n fun c =>
        { c with access := c.access.map fun x => if x.id = id then { x with fill := false } else x }) s)
    | _ => s

/-- Sends the requests that wait and now may leave, in order; one that no link leads to any longer ends with TARGET_DEAD, a far atomic that has
left before on its own times (R232, R388). -/
def pumpOutst (s : State) : State :=
  eachS (s.fab.outst.filter fun o => !o.ticketed) (fun o s =>
    match outLink s o.epoch o.part o.pkt with
    | some l => whenS (mayLeave s o l) (launch o l) s
    | none => whenS (!(o.sent && o.pkt.ptype = 0x08)) (fun s => tellOrigin o { status := .targetDead } false (takeOutst o none s)) s) s

/-- An outstanding request leaves the list; waiting requests may leave. -/
def dropOutst (o : Outst) (hold : Option Nat) (s : State) : State := pumpOutst (takeOutst o hold s)

/-- An outstanding request of this device ends with an answer, given to its origin (R29, R88). -/
def endOutst (o : Outst) (a : Answer) (noBuf : Bool) (hold : Option Nat) (s : State) : State :=
  settleFences (tellOrigin o a noBuf (dropOutst o hold s))

/-! ### Site ingress -/

/-- The request of a site for its partition. -/
def siteReq (s : State) (k : Nat) (p : Packet) (part : Nat) : Req :=
  { origin := .site k, pkt := p, part := part, epoch := s.rig.epoch, time := s.now, life := (getSite s k).life }

/-- The line of a site's read buffer that a non-coherent read hits (R212). -/
def siteBufHit (s : State) (k : Nat) (a : Nat) : Option LineData :=
  if s.order.siteBuf.getLsbD k then
    ((Tab.get [] s.order.siteBufs k).find? fun b => b.addr / 64 = a / 64).map BufLine.data
  else none

/-- The line that a request of a site's non-coherent read is served with by its adapter's buffer. -/
def bufferServes (s : State) (r : Req) : Option LineData :=
  match r.origin with
  | .site k => if r.pkt.ptype = 0x14 then siteBufHit s k r.pkt.addr.toNat else none
  | _ => none

/-- Whether a coherent request of a site breaks R183: its site is no agent, or its line lies outside the Ring. -/
def outsideRing (s : State) (r : Req) : Bool :=
  let t := r.pkt.ptype.toNat
  let n := nodeOf r.pkt.addr.toNat
  (0x10 ≤ t && t ≤ 0x13) &&
  !((match r.origin with | .site k => siteAgent s k | _ => true) &&
    (n = thisNode s || (match memberOf s n with | some i => memberLive s i | none => false)))

/-- The site of a request of a site. -/
def reqSite (r : Req) : Nat := match r.origin with | .site k => k | _ => 0

/-- Checks 6 and 7 and the counter check of a site request, and the loss of its agent (R201); it then goes to its home or to another node (R83 to
R86), as a retry where it is sent again after RETRY (R23). One for a partition that sleeps wakes it and waits, wherever it goes (R465). A write or an
atomic empties its lines from the site's buffer as it is issued (R213). -/
def siteRoute (go : Req → State → State) (r : Req) (s : State) : State :=
  let m := mapsAt s r.epoch
  let a := r.pkt.addr.toNat
  let home := nodeOf a = thisNode s
  match findWin m r.part (if home then 1 else 2) a (pktBytes r.pkt) with
  | none => refuse r .xlatFault (checkFailed r 6 .xlatFault s)
  | some (i, e) =>
    let (rd, wr, at_) := pktPerms r.pkt
    if !(winSite e && winPermits e rd wr at_) then refuse r .protection (checkFailed r 7 .protection s)
    else if outsideRing s r then
      cohError r .malformed (post { reqRec s r 0x0005 1 with detail := r.pkt.ptype.toNat, status := 0x1F } s)
    else if fromLost s r then (if 0x10 ≤ r.pkt.ptype.toNat ∧ r.pkt.ptype.toNat ≤ 0x12 then cohError r .protection else finish r { status := .protection }) s
    else match bufferServes s r with
    | some d =>
      finish r { status := .ok, data := [d] } s
    | none =>
    if home && !counterOk s r then refuse r .protection (checkFailed r 8 .protection s)
    else match actor s r with
    | some p => park r (.curtain p) (wakePart p r.time (whenS home (siteBufWrite (reqSite r) r.pkt) s))
    | none => if home then asRetry go r (siteBufWrite (reqSite r) r.pkt s) else handOver (fun r s => sendRemote r i e s) r s

/-- A site packet of a type at its adapter, which takes its slots: discarded while the site is not ACTIVE (R419, R423). -/
def sitePacket (k t n : Nat) (f : State → State) (s : State) : State := if (getSite s k).st = .active then f (oweSite k t n s) else s

/-- The record of a site's packet that is refused without an answer (R416). -/
def siteProtocol (k t : Nat) (s : State) : State :=
  post { recOf s 0x0005 1 (partNo (sitePart s.rig.cur k)) (0x30 + k) with detail := t } s

/-- A site's packet that is no request: discarded and recorded where its form is wrong (R416). -/
def siteMessage (k : Nat) (p : Packet) (f : Packet → State → State) (s : State) : State :=
  let p := sized p
  sitePacket k p.ptype.toNat p.len.toNat (fun s => if siteMessageOk p then f p s else siteProtocol k p.ptype.toNat s) s

/-- Whether a site's packet waits in its ingress: one of the REQ class behind a FENCE of the site that is not answered yet, but for a WRITEBACK, for
which an earlier request may wait. DESIGN CHOICE, log 60: R220 holds back the later accesses of a queue pair, and 13_ucie_sites.md names no such hold
for a site's COUNTER_WAIT, which therefore keeps none of the site's requests (R220, R224). -/
def behindFence (s : State) (k : Nat) (p : Packet) : Bool :=
  siteClass p.ptype.toNat = 0 && p.ptype ≠ 0x13 && (s.ucie.fences.any (fun f => f.site = k) || !(getSite s k).held.isEmpty)

/-- The sleeping partition for which a site's FENCE or COUNTER_WAIT stays at the head of the site's ingress (R465, Table 15.4). -/
def asleepAt (s : State) (k : Nat) (p : Packet) : Option Nat :=
  if (p.ptype = 0x70 || p.ptype = 0x71) && decide ((getSite s k).st = .active) then
    match sitePart s.rig.cur k with
    | some q => if (getPart s q).st = .running && sleeping s q then some q else none
    | none => none
  else none

/-- A packet stays in a site's ingress. -/
def holdAtSite (k : Nat) (p : Packet) (s : State) : State :=
  whenS (decide ((getSite s k).st = .active)) (modSite k fun x => { x with held := x.held ++ [p] }) s

/-- A site's packet of the REQ class at its ingress: it waits there behind a FENCE (R224), and a FENCE or a COUNTER_WAIT for a sleeping partition
(R465). -/
def fenceGate (k : Nat) (p : Packet) (f : State → State) (s : State) : State :=
  if behindFence s k p then holdAtSite k p s
  else match asleepAt s k p with
  | some q => wakePart q s.now (holdAtSite k p s)
  | none => f s

/-- A site request at its ingress head: the checks of Table 3.5 in order, then its home or another node. A site that is
not ACTIVE has its packets discarded (R423). -/
def siteTake (k : Nat) (p : Packet) (go : Req → State → State) (s : State) : State :=
  if (getSite s k).st ≠ .active then s else
  let s := oweSite k p.ptype.toNat p.len.toNat s
  match sitePart s.rig.cur k with
  | none =>
    let r := siteReq s k p 0xFF
    if !siteFormOk p then refuse r .malformed (checkFailed r 1 .malformed s)
    else refuse r .protection (checkFailed r 3 .protection s)
  | some part =>
    let r := siteReq s k p part
    if !siteFormOk p then refuse r .malformed (checkFailed r 1 .malformed s)
    else if (getPart s part).st ≠ .running then refuse r .targetDead (checkFailed r 5 .targetDead s)
    else siteRoute go r s

/-- A site request at its ingress, behind a FENCE of its site. -/
def siteIngress (k : Nat) (p : Packet) (go : Req → State → State) (s : State) : State := fenceGate k p (siteTake k p go) s

/-! ### Fabric ingress -/

/-- The most bounce entries of a port (R396). -/
def bounceEntries : Nat := 4096

/-- Whether a port's bounce entries are all in use (R396). -/
def bounceFull (s : State) (l : Nat) : Bool := bounceEntries ≤ ((getPort s (l / 2)).bounce.filter fun b => b.resend.isNone).length

/-- The slots of each class that a link returns now: while its port's bounce entries are all in use, none of REQ (R396). -/
def returnable (s : State) (l : Nat) (owed : List Nat) : List Nat := if bounceFull s l then owed.set 0 0 else owed

/-- A CREDIT for the slots owed to a link's peer (R385). -/
def sendCredit (l : Nat) (s : State) : State :=
  let x := getLink s l
  let b := returnable s l x.owed
  let kept := if bounceFull s l then x.owed.getD 0 0 else 0
  let s := modLink l (fun x => { x with owed := [kept, 0, 0, 0, 0], owedAt := if kept = 0 then none else some s.now }) s
  transmit l { ptype := 0x60, len := 1, body := (List.range 5).flatMap fun c => leBytes 2 (b.getD c 0) } s

/-- A packet leaves a link's ingress: it is taken from the queue of decoded packets and its slots become owed; a CREDIT leaves when 64 or more of a
class are (R385). -/
def takeIngress (l : Nat) (p : Packet) (s : State) : State :=
  let x := getLink s l
  let c := pktClass p
  let owed := x.owed.set c (x.owed.getD c 0 + p.len.toNat)
  let s := modLink l (fun x => { x with
                                 ingress := if x.ingress.head? = some p then x.ingress.drop 1 else x.ingress
                                 headAt := none
                                 owed := owed
                                 owedAt := some (x.owedAt.getD s.now) }) s
  whenS ((returnable s l owed).any fun n => 64 ≤ n) (sendCredit l) s

/-- When a packet came to the head of its link's ingress: now, but for one that had to stay there (R32). -/
def headTime (s : State) (l : Nat) (p : Packet) : Nat :=
  let x := getLink s l
  if x.ingress.head? = some p then x.headAt.getD s.now else s.now

/-- A request that would be bounced while no entry is free stays at the head of its link's ingress, in its slots (R32, R396, log 57). -/
def holdIngress (l : Nat) (p : Packet) (s : State) : State :=
  modLink l (fun x => { x with headAt := some (headTime s l p), ingress := if x.ingress.head? = some p then x.ingress else p :: x.ingress }) s

/-- A packet as it came on a link: where its command leaves LEN at 0, LEN is what the body makes it (log 44). -/
def linkSized (p : Packet) : Packet := { p with len := if p.len = 0 then BitVec.ofNat 16 (pktLen false p) else p.len }

/-- A packet on a link: nothing arrives on a link that is not ACTIVE, and one whose LEN disagrees with its body is discarded with a record that names
the link (R379, R383). -/
def onLink (l : Nat) (p : Packet) (f : Packet → State → State) (s : State) : State :=
  let p := linkSized p
  if !arrives s l p then s
  else if decide (p.len.toNat = pktLen false p) then f p s
  else post { recOf s 0x0005 1 0xFF (0x20 + l / 2) with detail := p.ptype.toNat, node := p.srcNode.toNat } (takeIngress l p s)

/-- The requests of a port's links that stand for a home slice in the device. -/
def sliceTickets (s : State) (port slice : Nat) : Nat :=
  let mine (r : Req) : Bool :=
    (match r.origin with | .link l => l / 2 = port | _ => false) && sliceOfLine ((reqLines r).headD 0) = slice
  (s.mem.parked.filter fun p => mine p.req).length + (s.mem.reads.filter fun x => x.req.any mine).length +
  (s.integ.ops.filter fun o => o.reqs.any mine).length + (s.home.txns.filter fun t => mine t.req).length

/-- A new bounce entry of a port (R392, R396, R398). -/
def addBounce (l : Nat) (p : Packet) (wake : Option Nat) (resend : Option PathCheck) (s : State) : Nat × State :=
  let x := getPort s (l / 2)
  let e : Bounce := { id := x.nextId, link := l, node := p.srcNode.toNat, tag := p.tag.toNat, addr := p.addr, at_ := s.now, len := p.len.toNat,
                      cls := pktClass p,
                      slice := sliceOfLine (lineNo (offOf p.addr.toNat)), wake := wake,
                      granted := resend.map fun _ => s.now, resend := resend }
  (x.nextId, modPort (l / 2) (fun y => { y with bounce := y.bounce ++ [e], nextId := (y.nextId + 1) % 2 ^ 32 }) s)

/-- Answers a request with RETRY, RESEND_GRANT or CHECK_RESEND, carrying an entry number (R396, R397, R392). -/
def sendGrant (t : Nat) (l node : Nat) (tag : BitVec 32) (addr : Word) (id : Nat) (s : State) : State :=
  match responseLink s l node (offOf addr.toNat) with
  | some k => sendOn k { ptype := BitVec.ofNat 8 t, len := 2, srcNode := BitVec.ofNat 16 (thisNode s),
                         dstNode := BitVec.ofNat 16 node, tag := tag, addr := addr, grantId := BitVec.ofNat 32 id } s
  | none => s

/-- A request is bounced: onto its slice's list, or onto a sleeping partition's wake list (R396, R398). -/
def bounce (l : Nat) (p : Packet) (wake : Option Nat) (s : State) : State :=
  let (id, s) := addBounce l p wake none s
  let s := modLink l (fun x => { x with bounced := satInc 32 x.bounced }) s
  sendGrant 0x45 l p.srcNode.toNat p.tag p.addr id s

/-- The checks a packet carries against those found over its address and data, the first that differs (R143, R145, Table 5.4). -/
def carriedBad (s : State) (p : Packet) : Option PathCheck :=
  let t := p.ptype.toNat
  let data (i : Nat) : LineData := if t = 0x05 then (p.data.getD i 0) &&& maskBits p.mask else p.data.getD i 0
  if !(isWriteType t || (t = 0x13 && p.aux.getLsbD 0)) then none else
  (((List.range (pktLines p)).map fun i =>
    let a : Word := BitVec.ofNat 64 (p.addr.toNat / 64 * 64 + 64 * i)
    ({ addr := a, carried := p.checks.getD i 0, found := lineCheck a (data i) } : PathCheck)).find? fun x => x.carried ≠ x.found).map fun x =>
      { x with addr := logAddr s x.addr }

/-- Removes a bounce entry. -/
def dropBounce (port id : Nat) (s : State) : State :=
  modPort port (fun x => { x with bounce := x.bounce.filter fun b => b.id ≠ id }) s

/-- The entry of the one resend that a packet is, with the checks of its first failure (R392). -/
def resendEntry (s : State) (l : Nat) (p : Packet) : Option (Bounce × PathCheck) :=
  (getPort s (l / 2)).bounce.findSome? fun b =>
    if pktGranted p && b.id = p.grantId.toNat then b.resend.map fun f => (b, f) else none

/-- A packet whose carried check failed first is asked for once more (R145, R392). -/
def askResend (l : Nat) (p : Packet) (first : PathCheck) (s : State) : State :=
  let (id, s) := addBounce l p none (some first) s
  sendGrant 0x47 l p.srcNode.toNat p.tag p.addr id s

/-- The carried check of a request at a Trapeze ingress: compared, resent once, then ended (R145, R146, R392). -/
def compareCarried (l : Nat) (r : Req) (go : Req → State → State) (s : State) : State :=
  let p := r.pkt
  let again := resendEntry s l p
  let s := match again with | some (b, _) => dropBounce (l / 2) b.id s | none => s
  let owner := partNo (lineOwner s (lineNo (offOf p.addr.toNat)))
  match carriedBad s p, again with
  | none, none => go r s
  | none, some (_, f) => go { r with again := true } (pathRetried l owner f s)
  | some _, some (_, f) => finish r { status := .poisoned } (pathFailed l owner owner p.srcNode.toNat f s)
  | some f, none => askResend l p f s

/-- The bounce entry that a GRANTED packet answers. -/
def grantedEntry (s : State) (l : Nat) (p : Packet) : Option Bounce :=
  (getPort s (l / 2)).bounce.find? fun b =>
    b.resend.isNone && pktGranted p && b.id = p.grantId.toNat && b.granted.isSome && b.node = p.srcNode.toNat && b.tag = p.tag.toNat

/-- The Tickets for a slice that a port's outstanding grants hold (R397). -/
def sliceGrants (s : State) (port slice : Nat) : Nat :=
  ((getPort s port).bounce.filter fun b => b.resend.isNone && b.granted.isSome && b.slice = slice).length

/-- Whether a new request to a slice is bounced: the slice at its limit of Tickets, those that grants hold among them, or its list not empty (R396,
R397). -/
def mustBounce (s : State) (l : Nat) (p : Packet) : Bool :=
  let slice := sliceOfLine (lineNo (offOf p.addr.toNat))
  let es := (getPort s (l / 2)).bounce
  !pktCombined p && !pktGranted p &&
  (1024 ≤ sliceTickets s (l / 2) slice + sliceGrants s (l / 2) slice || es.any fun b => b.resend.isNone && b.wake.isNone && b.granted.isNone && b.slice = slice)

/-- A request admitted past the checks of R391: bounced, or taken to the Midway once its carried check passes, on the Ticket that its grant held where
it was granted (R23, R397). -/
def admitRequest (l : Nat) (r : Req) (go : Req → State → State) (s : State) : State :=
  match grantedEntry s l r.pkt with
  | some b => compareCarried l { r with again := true, first := some b.at_, place := .midway } go (dropBounce (l / 2) b.id s)
  | none =>
    if mustBounce s l r.pkt then bounce l r.pkt none s else compareCarried l r go s

/-! ### Replay table (R229 to R236) -/

/-- Whether an entry stands at a time: pending, or live (R230). -/
def replayLive (s : State) (t : Nat) (e : Replay) : Bool :=
  match e.t0 with
  | none => true
  | some t0 => t < t0 + retention s

/-- The check over the operands of an atomic (R229). -/
def operandCheck (p : Packet) : BitVec 32 := BitVec.ofNat 32 (crc32c (leBytes 16 p.opA.toNat ++ leBytes 16 p.opB.toNat))

/-- Whether an atomic matches an entry: operation, size, offset and operand check (R231). -/
def replayMatches (p : Packet) (e : Replay) : Bool :=
  e.op = bits p.code.toNat 0 4 && e.size = bits p.code.toNat 4 2 && e.offset = offOf p.addr.toNat && e.operands = operandCheck p

/-- The entry of a key that stands at a request's event time. -/
def findReplay (s : State) (r : Req) (key : Nat × Nat) : Option Replay :=
  s.order.replay.find? fun e => e.node = key.1 && e.tag = key.2 && replayLive s r.time e

/-- A pending entry for a constituent. -/
def newReplay (r : Req) (key : Nat × Nat) : Replay :=
  { slice := sliceOfLine ((reqLines r).headD 0), node := key.1, tag := key.2, op := bits r.pkt.code.toNat 0 4,
    size := bits r.pkt.code.toNat 4 2, offset := offOf r.pkt.addr.toNat, operands := operandCheck r.pkt, result := 0,
    status := .ok, t0 := none, waiting := [] }

/-- A REPLAY_CONFLICT record naming the requester node (Table 7.5). -/
def replayConflict (r : Req) (s : State) : State :=
  post { reqRec s r 0x0008 1 with detail := bits r.pkt.tag.toNat 0 20, status := 0x1F } s

/-- The home's decision on a far atomic that came over the fabric (Table 7.5), `go` being what a new one comes to; one that came from a
local site or a Booth goes straight on. -/
def decideWith (go : Req → State → State) (r : Req) (s : State) : State :=
  match r.origin with
  | .link _ =>
    let keys := constituents r.pkt
    let found := keys.filterMap (findReplay s r)
    match found, pktResend r.pkt with
    | [], false =>
      let slice := sliceOfLine ((reqLines r).headD 0)
      if (s.order.replay.filter fun e => e.slice = slice && replayLive s s.now e).length + keys.length > 1024 then
        let s := modOrder (fun x => { x with fullRetries := satInc 16 x.fullRetries }) (modHome (fun h => { h with retries := satInc 32 h.retries }) s)
        park { r with again := true } .again s
      else
        let s := modOrder (fun x =>
          { x with replay := (x.replay.filter fun e => !keys.contains (e.node, e.tag)) ++ keys.map (newReplay r) }) s
        go r s
    | [], true =>
      refuse r .atomicUnknown (modOrder (fun x => { x with unknown := satInc 16 x.unknown }) s)
    | _ :: _, false => refuse r .malformed (replayConflict r s)
    | e :: _, true =>
      if !replayMatches r.pkt e then refuse r .malformed (replayConflict r s)
      else match e.t0 with
        | none =>
          modOrder (fun x => { x with replay := x.replay.map fun y =>
            if y.node = e.node && y.tag = e.tag then { y with waiting := y.waiting ++ [r] } else y }) s
        | some _ =>
          let s := modOrder (fun x => { x with replayed := satInc 32 x.replayed }) s
          let s := chargeReq r 9 1 s
          match r.origin with
          | .link l => sendAnswer l r (linkAnswer s r false false { status := e.status, old := e.result }) s
          | _ => s
  | _ => go r s

/-- The home's decision on a far atomic that passed every check. -/
def atomicDecide (r : Req) (s : State) : State := numbered r (decideWith serve) s

/-- Checks 6 to 8 of Table 3.5 on a fabric request: a far atomic that fails one is decided by the replay table, which records the
refusal of a new one (R231). -/
def refuseLate (order : Nat) (r : Req) (s : State) : State :=
  if r.pkt.ptype = 0x08 then decideWith (fun r s => finish r { status := .protection } (checkFailed r order .protection s)) r s
  else refuse r .protection (checkFailed r order .protection s)

/-- The answer STALE_MAP to a request that is not executed: nothing else is charged for it (R53). -/
def refuseStale (l : Nat) (r : Req) (s : State) : State :=
  match responseLink s l r.pkt.srcNode.toNat (offOf r.pkt.addr.toNat) with
  | some k => sendOn k (linkAnswer s r false true { status := .staleMap }) s
  | none => s

/-- A fabric request at its ingress head: the checks of Table 3.5 in order, with the map epoch, the job key and the
INBOUND window; then the counter check, the wake list, bouncing and the carried check (R53, R86, R391, R396, R398). -/
def linkIngress (l : Nat) (p : Packet) (go : Req → State → State) (s : State) : State :=
  onLink l p (fun p s =>
  let part := bits p.part.toNat 0 5
  let r : Req := { origin := .link l, pkt := p, part := part, epoch := p.epoch.toNat, time := headTime s l p }
  let head := s
  let s := takeIngress l p s
  let count (s : State) : State := chargeReq r 3 (16 * p.len.toNat) s
  if !formOk p then refuse r .malformed (checkFailed r 1 .malformed (count s))
  else match mapsOf s p.epoch.toNat with
  | none =>
    let s := modLink l (fun x => { x with stale := satInc 16 x.stale }) s
    refuseStale l r (charge part s.rig.epoch 10 1 s.now s)
  | some m =>
    let s := count s
    if (getPart s part).st = .unassigned then refuse r .protection (checkFailed r 3 .protection s)
    else if jobKeyOf m part ≠ p.jobKey.toNat then refuse r .protection (checkFailed r 4 .protection s)
    else if (getPart s part).st ≠ .running then refuse r .targetDead (checkFailed r 5 .targetDead s)
    else if p.ptype = 0x0A || p.ptype = 0x0B then go r s
    else
      let onWake := (getPort s (l / 2)).bounce.any fun b => b.wake = some part
      if (sleeping s part || onWake) && !pktCombined p && !pktGranted p then
        if bounceFull s l then holdIngress l p head else bounce l p (some part) (wakePart part s.now s)
      else match findWin m part 3 p.addr.toNat (pktBytes p) with
      | none => refuseLate 6 r s
      | some (_, e) =>
        let (rd, wr, at_) := pktPerms p
        if !winPermits e rd wr at_ then refuseLate 7 r s
        else if !counterOk s r then refuseLate 8 r s
        else if mustBounce s l p && bounceFull s l then holdIngress l p head
        else admitRequest l r (asRetry go) s) s

/-- A request at its ingress. -/
def ingress (port : Port) (p : Packet) (go : Req → State → State) (s : State) : State :=
  match port with
  | .site k => siteIngress k.val (sized p) go s
  | .link l => linkIngress l.val p go s

/-! ### Release -/

/-- Opens a hot-line entry where 8 or more stores of sites and other nodes to one line in state I wait (R202). -/
def openHot (s : State) : State :=
  let ws := s.mem.parked.filter fun p => hotKind p.req && !p.req.joined &&
    (match p.why with | .line | .slice | .midway => true | _ => false)
  let ls := (ws.map fun p => (reqLines p.req).headD 0).eraseDups
  eachS ls (fun l s =>
    let n := (ws.filter fun p => (reqLines p.req).headD 0 = l).length
    whenS (decide (8 ≤ n) && decide (dirState s l = .i) && (findHot s l).isNone && !lineHeld s l && (findTxn s l).isNone &&
        decide ((s.home.hot.filter fun h => sliceOfLine h.line = sliceOfLine l).length < 16))
      (modHome fun x => { x with hot := x.hot ++ [{ line := l, data := 0, mask := 0, firstAt := none, lastAt := s.now, owed := [], retried := false, epoch := s.rig.epoch }] }) s) s

/-- A WRITEBACK whose turn at its home it is: consumed as the data of a probe it crossed, accepted from the recorded owner, else discarded with
a record (Table 6.3, R196); one for a line that is reserved meets RETRY (R195). Its WB_ACK leaves once its data is complete (R157, R193). A clean
one brings no data: what it was probed for is then read from memory (R147). -/
def wbTurn (y : Nat) (r : Req) (s : State) : State :=
  let l := lineNo (offOf r.pkt.addr.toNat)
  let dirty := r.pkt.aux.getLsbD 0
  let d := r.pkt.data.headD 0
  let discard (s : State) : State := finish r { status := .ok } (post { reqRec s r 0x0005 1 with detail := 0x13 } s)
  let take (s : State) : State := if dirty then writeOwnerData [r] l d s else finish r { status := .ok } s
  match findTxn s l with
  | some t =>
    if t.owner = some y then
      let s := take s
      let s := whenS t.gone (answerProbe l (y / 4) [y]) s
      let after : Dir := match t.after with | .s a => sharedBy (setBit a y false) | d => d
      let s := modTxn l (fun t => { t with gone := false, owner := none, after := after, data := if dirty then some d else none }) s
      whenS t.gone (txnProceed l none) s
    else discard s
  | none =>
    if reservedFrom s l (.agent y) then meetRetry l r s else
    let s := hotClose l s
    if lineHeld s l || (findHot s l).isSome then admitTo .line r (park · .line) s else
    let s := allocEnt l s
    match dirState s l with
    | .o x => if x = y then take (setDir l .i s) else discard s
    | _ => discard s

/-- A WRITEBACK at its home, from an agent that is not lost, behind the earlier requests of its source; the data of a dirty one goes to the
Carousel (R20, R111, R201, R206). -/
def wbHome (r : Req) (s : State) : State :=
  match reqAgent s r with
  | none => finish r { status := .malformed } (post { reqRec s r 0x0005 1 with detail := 0x13, status := 0x1F } s)
  | some y =>
    if agentLostBit s y then finish r { status := .protection } s
    else comeTo .slice r (fun r => atHome r fun r => if r.pkt.aux.getLsbD 0 then admitTo .line r (wbTurn y) else wbTurn y r) s

/-- A WRITEBACK at its home, once its entry has come over the die (R27), under the maps of its epoch (R54). -/
def serveWriteback (r : Req) (s : State) : State := numbered r (fun r => under r.epoch (handOver wbHome r)) s

/-- A coherent request's kind. -/
def cohOf (t : Nat) : Option Coh :=
  match t with
  | 0x10 => some .shared
  | 0x11 => some .own
  | 0x12 => some .upgrade
  | _ => none

/-- Whether a waiting request is a far atomic of the fabric that has no pending entry yet (R234). -/
def unrecorded (s : State) (r : Req) : Bool :=
  r.pkt.ptype = 0x08 && (constituents r.pkt).any fun k =>
    !(s.order.replay.any fun e => e.node = k.1 && e.tag = k.2 && e.t0.isNone)

/-- Whether a slice's replay table has no entry free for a far atomic (R234). -/
def replayFull (s : State) (r : Req) : Bool :=
  1024 < (s.order.replay.filter fun e => e.slice = sliceOfLine ((reqLines r).headD 0) && replayLive s s.now e).length + (constituents r.pkt).length

/-- Whether a request that met RETRY can be taken now: its lines are in no transaction and reserved for no other, its slices have entries for
it, and for a far atomic of the fabric the replay table too (R195, R234). -/
def mayRetry (s : State) (r : Req) : Bool :=
  let ls := reqLines r
  !ls.any (fun l => (findTxn s l).isSome || reservedFrom s l (waiterOf s r)) && !poolFull s ls &&
  !(unrecorded s r && (match r.origin with | .link _ => true | _ => false) && replayFull s r)

/-- A coherent request whose transaction is open goes on with what was read for it; any other is served anew (R147, R192). -/
def cohAgain (c : Coh) (r : Req) (s : State) : State :=
  match s.home.txns.find? fun t => sameReq t.req r with
  | some t => txnProceed t.line none (modTxn t.line (fun t => { t with req := r }) s)
  | none => serveCoherent c r s

/-- A far atomic of the fabric that has no pending entry yet is checked and decided anew (R231, R234). -/
def atomicAgain (r : Req) (s : State) : State :=
  match findWin (mapsAt s r.epoch) r.part 3 r.pkt.addr.toNat (pktBytes r.pkt) with
  | none => refuseLate 6 r s
  | some (_, e) =>
    let (rd, wr, at_) := pktPerms r.pkt
    if !winPermits e rd wr at_ then refuseLate 7 r s
    else if !counterOk s r then refuseLate 8 r s
    else atomicDecide r s

/-- Serves a request at its home, or a mirror packet at its partner, anew; a site's request for another node goes there. A record of the Barker whose
ring or counter is no longer the partition's fails (R441, R449). -/
def serveAgain (r : Req) (s : State) : State :=
  let t := r.pkt.ptype.toNat
  if 0x30 ≤ t ∧ t ≤ 0x32 then mirrorServe r s
  else if (siteTag r).isSome && decide (nodeOf r.pkt.addr.toNat ≠ thisNode s) then siteRoute serve r s
  else if t = 0x13 then serveWriteback r s
  else match cohOf t with
  | some c => cohAgain c r s
  | none =>
    match r.origin with
    | .link _ => if unrecorded s r then atomicAgain r s else serve r s
    | .barker p =>
      let x := getPart s p
      if ringReady s p x.evCntEn x.evCnt then serve r s else finish r { status := .protection } s
    | _ => serve r s

/-- Serves one waiting request again, or keeps it waiting when its partition still sleeps or it would meet RETRY again. -/
def serveParked (p : Parked) (s : State) : State :=
  match p.why with
  | .curtain q => if sleeping s q then park p.req p.why s else serveAgain p.req s
  | .again => if mayRetry s p.req then serveAgain p.req s else park p.req .again s
  | _ => serveAgain p.req s

/-- Serves the waiting request of a place in the order of service again, the others waiting meanwhile with their Tickets. -/
def releaseOne (order : Nat) (s : State) : State :=
  match s.mem.parked.find? fun p => p.req.order = order with
  | some p => serveParked p (modMem (fun m => { m with parked := m.parked.erase p }) s)
  | none => s

/-- Whether a retry comes before another: by its first issue, then by the lower number of its producer's port, its LOCATION (R23, R541). -/
def retryBefore (s : State) (a b : Req) : Bool :=
  let t (r : Req) : Nat := r.first.getD r.time
  t a < t b || (t a = t b && reqLoc s a < reqLoc s b)

/-- The requests that wait are served again: those in the Carousels in the order of their acceptance (R111); then the retries, the first issued
first, so that reserved Tickets go to them in that order (R23); then the others in the order of service. A write that joined a merge entry ends with it
(R120). -/
def releaseParked (s : State) : State :=
  let s := openHot s
  let ps := s.mem.parked.filter fun p => !p.req.joined
  let here := (ps.filter fun p => p.why = .line).map Parked.req
  let away := (ps.filter fun p => p.why ≠ .line).map Parked.req
  let order := sortBy (fun a b => a.taken < b.taken) here ++ sortBy (retryBefore s) (away.filter Req.again) ++
    sortBy (fun a b => a.order < b.order) (away.filter fun r => !r.again)
  eachS (order.map Req.order) releaseOne s

/-- The records that wait for their event rings are written one after another, as far as their lines let them (R449). -/
def releaseRings (s : State) : State :=
  eachS (s.parts.flatMap fun e => e.2.evQueue) (fun _ s =>
    eachS ((s.mem.parked.filter fun p => match p.req.origin with | .barker _ => true | _ => false).map fun p => p.req.order) releaseOne s) s

/-- Work restarts the gated domains (R462). -/
def restartClocks (s : State) : State :=
  whenS s.power.pllLocked (modPower fun x => { x with running := BitVec.ofNat 18 0x3FFFF, worked := s.now }) s

/-- Transactions go on, waiting requests are served, and fences are answered. -/
def settleOnce (s : State) : State := settleFences (driveTxns (releaseRings (releaseParked (driveTxns (restartClocks s)))))

/-! ### Waits of a site die (R220 to R224) -/

/-- The number of the partition that a site's record binds it to, enabled or not, 0xFF when unbound (R426, R427). -/
def siteBound (s : State) (k : Nat) : Nat := partNo ((Tab.find s.rig.cur.sites k).map SiteRec.part)

/-- A site's wait or fence: refused for its form, its partition's state, or discarded while the site is not ACTIVE; else served. -/
def siteWait (k : Nat) (p : Packet) (ok : Bool) (f : Req → State → State) (s : State) : State :=
  sitePacket k p.ptype.toNat p.len.toNat (fun s =>
    let r := siteReq s k p (siteBound s k)
    if !(localForm p && p.flags = 0 && p.counter = 0 && p.aux = 0 && ok) then refuse r .malformed (checkFailed r 1 .malformed s)
    else match sitePart s.rig.cur k with
    | none => refuse r .protection (checkFailed r 3 .protection s)
    | some part =>
      if (getPart s part).st ≠ .running then refuse r .targetDead (checkFailed r 5 .targetDead s) else f r s) s

/-- The tags of a site's requests that wait at this device. -/
def siteTags (s : State) (k : Nat) : List Nat :=
  let mine (r : Req) : Option Nat := if r.origin = .site k then some r.pkt.tag.toNat else none
  (s.mem.parked.filterMap (fun p => mine p.req) ++ s.mem.reads.filterMap (fun x => x.req.bind mine) ++
   s.integ.ops.flatMap (fun o => o.reqs.filterMap mine) ++ s.home.txns.filterMap (fun t => mine t.req) ++
   s.home.hot.flatMap (fun h => h.owed.filterMap mine)).eraseDups

/-- A site's FENCE at its ingress head (R222 to R224). -/
def takeFence (k : Nat) (p : Packet) (s : State) : State :=
  siteWait k p (decide (p.code.toNat ≤ 1)) (fun r s =>
    let outs := (s.fab.outst.filter fun o => o.origin = .site k).map Outst.tag
    let f : SiteFence := { site := k, tag := r.pkt.tag.toNat, remote := p.code.getLsbD 0, tags := outs, parked := siteTags s k, pkt := p }
    settleFences (modUcie (fun x => { x with fences := x.fences ++ [f] }) s)) s

/-- A site's COUNTER_WAIT at its ingress head (R218 to R220). -/
def takeCtrWait (k : Nat) (p : Packet) (s : State) : State :=
  let b := p.body
  siteWait k p (p.code = 0 && decide (leAt b 0 2 < 2048) && decide (leAt b 2 1 ≤ 1) && zeroAt b 3 5 && zeroAt b 20 12)
    (fun r s =>
      if ctrOwner (mapsAt s r.epoch) (leAt b 0 2) ≠ some r.part then refuse r .protection s
      else
        let w : CtrWait := { qp := none, site := k, tag := r.pkt.tag.toNat, counter := leAt b 0 2, target := BitVec.ofNat 64 (leAt b 8 8),
                             consume := (leAt b 2 1).testBit 0, time := s.now, limit := leAt b 16 4 }
        settleCtr (modOrder (fun x => { x with waits := x.waits ++ [w] }) s)) s

/-- What a site's request of a type comes to at its home. -/
def siteServe (t : Nat) : Req → State → State :=
  if t = 0x08 then atomicDecide else match cohOf t with
  | some c => serveCoherent c
  | none => serve

/-- A packet that waited in a site's ingress comes to its head. -/
def takeHeld (k : Nat) (p : Packet) (s : State) : State :=
  if p.ptype = 0x70 then takeFence k p s else if p.ptype = 0x71 then takeCtrWait k p s else siteTake k p (siteServe p.ptype.toNat) s

/-- The next packet of each site that waited behind a FENCE, once that is answered, or for a partition, once that is awake (R224, R466). -/
def releaseHeld (s : State) : State :=
  eachS (List.range 4) (fun k s =>
    if s.ucie.fences.any fun f => f.site = k then s else
    match (getSite s k).held with
    | [] => s
    | p :: ps =>
      match asleepAt s k p with
      | some q => wakePart q s.now s
      | none => takeHeld k p (modSite k (fun x => { x with held := ps }) s)) s

/-- What follows any end of a request: transactions go on, waiting requests are served, fences are answered, and what waited in a site's ingress
behind one comes to its head. -/
def settle (s : State) : State :=
  eachS ((List.range 4).flatMap fun k => (getSite s k).held) (fun _ s => settleOnce (releaseHeld s)) (settleOnce s)

end Sys2Proof.Machine
end

