-- ==== Sys2Proof/Machine/QueuePair.lean ====
section
/-! DEFINITION. Queue pairs (08): their binding and states, the doorbells, notification and fetch, completions, and the
ordered abort of R261. -/

namespace Sys2Proof.Machine

/-- The current QP_MAP record of a queue pair. -/
def qpRec (s : State) (q : Nat) : Option QpRec := qpRecOf s.rig.cur q

/-- The partition of a queue pair, 0xFF when none. -/
def qpPart (s : State) (q : Nat) : Nat := match qpRec s q with | some r => r.part | none => 0xFF

/-- The Booth of a queue pair. -/
def qpBooth (s : State) (q : Nat) : Nat := match qpRec s q with | some r => r.booth | none => 0

/-- The commands of a queue pair in flight. -/
def qpCmds (s : State) (q : Nat) : List Cmd := s.cmds.filter fun c => c.qp = q

/-- Quiescent: no command in flight and no notification outstanding (R257). -/
def qpQuiet (s : State) (q : Nat) : Bool := (qpCmds s q).isEmpty && (getQp s q).notified = 0

/-- QP_STATUS codes of Table 8.6. -/
def qpCode : QpSt → Nat
  | .reset => 0 | .running => 1 | .stopping => 2 | .stopped => 3 | .error => 4

/-! ### The conditions of ENABLE (R240) -/

/-- Whether a ring of `n` bytes lies in LOCAL windows of a partition with BOOTH_USE and the permissions asked. -/
def ringIn (s : State) (part base n : Nat) (wr : Bool) : Bool :=
  let ok (a : Nat) : Bool := match findWin s.rig.cur part 1 a 64 with
    | some (_, e) => winBooth e && winRead e && (!wr || winWrite e)
    | none => false
  nodeOf base = thisNode s && ok base && ok (base + n - 64)

/-- Whether a queue pair's rings and fields meet R240. -/
def ringsOk (s : State) (q : Nat) : Bool :=
  let x := getQp s q
  let p := qpPart s q
  let n := 64 * 2 ^ x.sqLog
  let m := 32 * 2 ^ x.cqLog
  4 ≤ x.sqLog && x.sqLog ≤ 16 && 4 ≤ x.cqLog && x.cqLog ≤ 16 &&
  ringIn s p x.sqBase n false && ringIn s p x.cqBase m true &&
  (x.sqBase + n ≤ x.cqBase || x.cqBase + m ≤ x.sqBase) &&
  (!x.cqCntEn || ctrOwner s.rig.cur x.cqCnt = some p) && 1 ≤ x.maxInflight && x.maxInflight ≤ 32

/-! ### Ordered abort (R261, R262) -/

/-- The opcode of a command. -/
def cmdOp (c : Cmd) : Nat := leAt (cmdBytes c) 0 1

/-- Whether a command is a FENCE or a COUNTER_WAIT, which hold back the accesses of later commands and make none (R220, R222). -/
def isBarrier (c : Cmd) : Bool := c.entry.isSome && (cmdOp c = 0x28 || cmdOp c = 0x29)

/-- Whether a command may issue no access yet: an earlier FENCE or COUNTER_WAIT of its queue pair has not completed. NOP, FENCE and
COUNTER_WAIT have no access to hold back (R220, R222). -/
def barred (s : State) (c : Cmd) : Bool :=
  !isBarrier c && cmdOp c ≠ 0x00 && (qpCmds s c.qp).any fun d => d.order < c.order && isBarrier d

/-- The result of a fault: the virtual address of the access that failed, or all ones (Table 8.2). -/
def faultDone (c : Status) (va : Word) : Done := { status := c, result := va.setWidth 128, detail := 0 }

/-- A command whose accesses have all ended completes: with its fault, as aborted, or with its own status (R261). -/
def closeCmd (q n : Nat) (s : State) : State :=
  match findCmd s q n with
  | none => s
  | some c =>
    if !c.access.isEmpty || c.entry.isNone || !c.owes.isEmpty then s else
    match c.fault, c.aborted, c.done with
    | some (st, va), _, _ => endCmd c { faultDone st va with detail := BitVec.ofNat 32 c.detail } s
    | none, true, _ =>
      endCmd c { status := .qpAborted, result := 0, detail := BitVec.ofNat 32 c.detail } (modQp q (fun x => { x with aborted := satInc 8 x.aborted }) s)
    | none, false, some d => endCmd c { d with status := if d.status = .ok && c.retried then .okRetried else d.status } s
    | none, false, none => s

/-- Stops a command that an abort reaches: a FENCE, a command that has issued everything, whether or not its program has ended, and one that
has its own fault go on to their own ends (steps 2 to 4 of R261). -/
def stopCmd (c : Cmd) (s : State) : State :=
  if cmdOp c = 0x29 && c.entry.isSome || c.done.isSome || c.issued || c.fault.isSome || c.aborted then s
  else
    let s := modCmd c.qp c.count (fun x => { x with stop := true, aborted := true }) s
    let s := modOrder (fun x => { x with waits := x.waits.filter fun w => w.qp ≠ some (c.qp, c.count)
                                         due := x.due.filter fun d => !(d.qp = c.qp && d.count = c.count) }) s
    closeCmd c.qp c.count s

/-- A queue pair enters ERROR: its cause, and the fault, recorded unless one stands (step 6 of R261). -/
def enterError (q cause idx status opcode : Nat) (s : State) : State :=
  let x := getQp s q
  let keep := x.cause ≠ 0
  let s := modQp q (fun x =>
    { x with
      st := .error
      latch := false
      cause := if keep then x.cause else cause
      faultIdx := if keep then x.faultIdx else idx
      faultStatus := if keep then x.faultStatus else status
      faultOpcode := if keep then x.faultOpcode else opcode }) s
  if x.st = .error then s else
  post { recOf s 0x0030 3 (qpPart s q) (0x40 + qpBooth s q) with detail := cause, qp := q, status := status } s

/-- A queue pair is aborted for a cause: every command in flight is reached (R262). -/
def abortQp (q cause : Nat) (s : State) : State :=
  let x := getQp s q
  if x.st = .reset || x.st = .error then s
  else eachS (qpCmds s q) stopCmd (enterError q cause 0 0 0 s)

/-- The fault of a command reaches its Booth: the command issues nothing more (step 1 of R261). One that has a fault or is aborted keeps its
own end. -/
def markFault (q n : Nat) (st : Status) (va : Word) (s : State) : State :=
  modCmd q n (fun c => if c.fault.isSome || c.aborted then c else { c with fault := some (st, va), stop := true, done := none }) s

/-- The fault of a command acts on its queue pair: later commands stop, and the queue pair enters ERROR (steps 2 to 6 of R261). -/
def spreadFault (q n : Nat) (s : State) : State :=
  match findCmd s q n with
  | none => s
  | some c =>
    match c.fault with
    | none => closeCmd q n s
    | some (st, _) =>
      let later := (qpCmds s q).filter fun d => c.order < d.order
      closeCmd q n (enterError q 1 (n % 2 ^ (getQp s q).sqLog) (statusCode st) (cmdOp c) (eachS later stopCmd s))

/-- A command ends with a fault (R261). -/
def faultCmd (q n : Nat) (st : Status) (va : Word) (s : State) : State :=
  match findCmd s q n with
  | none => s
  | some c => if c.fault.isSome || c.aborted then closeCmd q n s else spreadFault q n (markFault q n st va s)

/-- The faults of several commands reach their Booths in one cycle: each keeps its own status, and QP_ERROR records the earliest in
submission order (R261). -/
def faultCmds (ws : List (Nat × Nat × Nat)) (st : Status) (s : State) : State :=
  let stamp (w : Nat × Nat × Nat) : Nat := match findCmd s w.1 w.2.1 with | some c => c.order | none => 0
  let ws := sortBy (fun a b => stamp a < stamp b) ws
  let s := eachS ws (fun w s => markFault w.1 w.2.1 st (BitVec.ofNat 64 w.2.2) s) s
  eachS ws (fun w s => spreadFault w.1 w.2.1 s) s

/-! ### Control (Table 8.7) -/

/-- Sets CONTROL_RESULT. -/
def qpResult (q r : Nat) (s : State) : State := modQp q (fun x => { x with ctl := r }) s

/-- The ENABLE action (Table 8.7, R240, R260). -/
def qpEnable (q : Nat) (s : State) : State :=
  match (getQp s q).st with
  | .reset =>
    if ringsOk s q then qpResult q 0 (modQp q (fun x => { x with st := .running }) s) else qpResult q 6 s
  | .stopping => qpResult q 3 (modQp q (fun x => { x with latch := true }) s)
  | .stopped => qpResult q 0 (modQp q (fun x => { x with st := .running }) s)
  | _ => qpResult q 5 s

/-- The DISABLE action (Table 8.7). -/
def qpDisable (q : Nat) (s : State) : State :=
  let x := getQp s q
  match x.st with
  | .running => qpResult q 0 (modQp q (fun x => { x with st := .stopping }) s)
  | .stopping => if x.latch then qpResult q 4 (modQp q (fun x => { x with latch := false }) s) else qpResult q 5 s
  | _ => qpResult q 5 s

/-- The ABORT action (Table 8.7). -/
def qpAbort (q : Nat) (s : State) : State :=
  match (getQp s q).st with
  | .running | .stopping | .stopped => qpResult q 0 (abortQp q 2 s)
  | _ => qpResult q 5 s

/-- A queue pair enters RESET: counts, LAST_RINGER and QP_ERROR cleared, bases and CONFIG kept (R259). -/
def clearQp (x : Qp) : Qp :=
  { x with
    sqTail := 0, sqHead := 0, cqTail := 0, cqHead := 0, notified := 0, spent := 0, held := none, writes := [], ringer := 0xFF, st := .reset
    latch := false, faultIdx := 0, faultStatus := 0, faultOpcode := 0, cause := 0, aborted := 0, cqLost := false
    cqBusy := false, cqEnd := none }

/-- The RESET action (Table 8.7, R259). -/
def qpReset (q : Nat) (s : State) : State :=
  match (getQp s q).st with
  | .stopped => qpResult q 0 (modQp q clearQp s)
  | .error => if qpQuiet s q then qpResult q 0 (modQp q clearQp s) else qpResult q 7 s
  | _ => qpResult q 5 s

/-- Quiescence in STOPPING: STOPPED, or RUNNING with the latch (R260). -/
def qpQuiesce (q : Nat) (s : State) : State :=
  let x := getQp s q
  if x.st = .stopping && qpQuiet s q then
    modQp q (fun x => { x with st := if x.latch then .running else .stopped, latch := false }) s
  else s

/-! ### Doorbells (R246, R247, R251) -/

/-- A DOORBELL_REFUSED record, with the node of the writer (Table 14.5, R541). -/
def doorbellRefused (w : Writer) (q off v : Nat) (s : State) : State :=
  post { recOf s 0x0003 1 (existing s (qpPart s q)) (0x78 + q / 1024) with
         addr := BitVec.ofNat 64 (0xA0000 + 64 * q + off), detail := v, qp := q, node := nodeOfWriter s w } s

/-- Whether the partition of a queue pair takes doorbells and notifications (R433). -/
def qpLive (s : State) (q : Nat) : Bool := (getPart s (qpPart s q)).st = .running

/-- LAST_RINGER of a writer (R251). -/
def ringerOf : Writer → Nat
  | .site k => k.val
  | .fabric _ _ _ => 0x10
  | .ringmaster => 0xFF

/-- The submission doorbell: the offered tail accepted within the ring, in a partition that runs, else refused (R246, R433). -/
def sqDoorbell (w : Writer) (q : Nat) (tail : BitVec 32) (s : State) : Status × State :=
  let x := getQp s q
  let d := (x.sqTail - x.sqHead).toNat
  let e := (tail - x.sqHead).toNat
  if qpLive s q && (x.st = .running || x.st = .stopping || x.st = .stopped) && d ≤ e && e ≤ 2 ^ x.sqLog then
    (.ok, if d = e then s else modQp q (fun x => { x with sqTail := tail, ringer := ringerOf w }) s)
  else (if x.st = .reset || x.st = .error then .qpAborted else .malformed, doorbellRefused w q 0x18 tail.toNat s)

/-- The completion doorbell (R247, R433). -/
def cqDoorbell (w : Writer) (q : Nat) (head : BitVec 32) (s : State) : Status × State :=
  let x := getQp s q
  if qpLive s q && (head - x.cqHead).toNat ≤ (x.cqTail - x.cqHead).toNat then (.ok, modQp q (fun x => { x with cqHead := head }) s)
  else (.malformed, doorbellRefused w q 0x20 head.toNat s)

/-! ### Notification and fetch (R252, R253) -/

/-- The Tickets of a Booth's command queue that are held: those of the commands notified and not completed since the Booth was last reset (R25). -/
def boothLoad (s : State) (b : Nat) : Nat :=
  ((s.qps.filter fun (q, _) => qpBooth s q = b && (qpRec s q).isSome).map fun (_, x) => x.spent).foldl (· + ·) 0

/-- The Tickets of a Booth's command queue (Table 1.3). No notification is sent again after a RETRY, and none draws the reserved part (R23). -/
def boothQueueTickets : Nat × Nat := (56, 8)

/-- The number of entries notified and not yet fetched. -/
def unfetched (s : State) (q : Nat) : Nat := ((qpCmds s q).filter fun c => c.entry.isNone).length

/-- Whether the slice may notify an entry of a queue pair: its partition runs, which the Booths of another do not (R252, R432, R433). -/
def mayNotify (s : State) (q : Nat) : Bool :=
  let x := getQp s q
  (qpRec s q).isSome && qpLive s q && !sleeping s (qpPart s q) && x.st = .running && (x.sqTail - x.sqHead).toNat > unfetched s q &&
  x.notified < x.maxInflight && (x.cqTail - x.cqHead).toNat + x.notified < 2 ^ x.cqLog &&
  (drawTicket boothQueueTickets (boothLoad s (qpBooth s q)) 0 0 0 false).isSome

/-- The queue pair of a Booth that the slice serves next: round robin from the one after the last served (R252). -/
def nextQp (s : State) (b : Nat) : Option Nat :=
  let qs := (s.qps.map Prod.fst).filter fun q => qpBooth s q = b && mayNotify s q
  let last := (getBooth s b).lastQp
  match qs.find? fun q => last < q with
  | some q => some q
  | none => qs.head?

/-- Whether a notified entry stands at the head of its Booth's command queue: no earlier one of the Booth waits for its fetch (R32). -/
def atQueueHead (s : State) (b order : Nat) : Bool := !s.cmds.any fun c => c.booth = b && c.entry.isNone && c.order < order

/-- An entry leaves its Booth's command queue: the next reaches the head of it, which is the time of its events (R32). -/
def nextHead (b : Nat) (s : State) : State :=
  modCmds (fun l => l.map fun c => if c.booth = b && c.entry.isNone && atQueueHead s b c.order then { c with time := s.now } else c) s

/-- A notification reaches the Booth: the command is in flight (R252, R253, R461). -/
def notifyQp (q : Nat) (s : State) : State :=
  let b := qpBooth s q
  if nextQp s b ≠ some q then s else
  let x := getQp s q
  let n := (x.sqHead + BitVec.ofNat 32 (unfetched s q)).toNat
  let c : Cmd := { qp := q, count := n, booth := b, part := qpPart s q, epoch := s.rig.epoch, order := s.cmdStamp, time := s.now,
                   entry := none, begun := false, beganAs := 0, context := none, stream := 0, granted := false, ready := false, issued := false,
                   rows := [], owes := [], fetched := [], access := [],
                   effect := false, retried := false, stop := false, aborted := false, fault := none,
                   done := none, detail := 0 }
  let s := modQp q (fun x => { x with notified := x.notified + 1, spent := x.spent + 1 }) s
  let s := modBooth b (fun y => { y with gated := false, lastQp := q, lastWork := s.now }) s
  modCmds (fun l => l ++ [c]) { s with cmdStamp := s.cmdStamp + 1 }

/-- The global address of a command's submission entry (R240). -/
def entryAddr (s : State) (c : Cmd) : Nat :=
  let x := getQp s c.qp
  x.sqBase + 64 * (c.count % 2 ^ x.sqLog)

/-- The request that fetches a submission entry, or the 256-byte block it lies in; the number 0 names it among the command's accesses
(R240, R252). -/
def entryReq (s : State) (c : Cmd) (burst : Bool) : Req :=
  let a := entryAddr s c
  { origin := .booth c.qp c.count 0,
    pkt := { ptype := if burst then 0x02 else 0x01, len := 2, addr := BitVec.ofNat 64 (if burst then a / 256 * 256 else a) }, part := c.part,
    epoch := c.epoch, time := c.time }

/-- The notified entries that one burst fetches with a command's: those of its queue pair in one aligned block of 256 bytes (R252). -/
def entryBlock (s : State) (c : Cmd) : List Cmd :=
  (qpCmds s c.qp).filter fun d => d.entry.isNone && d.epoch = c.epoch && entryAddr s d / 256 = entryAddr s c / 256

/-- The answer of a command's access by its number. -/
def answersOf (c : Cmd) (id : Nat) : List Fetched := c.fetched.filter fun f => f.id = id

/-- The completion of an entry that could not be read, and the abort it causes (R263). -/
def fetchFailed (c : Cmd) (st : Status) (s : State) : State :=
  let s := modQp c.qp (fun x => { x with sqHead := x.sqHead + 1 }) s
  let s := nextHead c.booth (modCmds (fun l => l.filter fun x => !(x.qp = c.qp && x.count = c.count)) s)
  let d := complOf s c { status := st, result := (allOnes.setWidth 64).setWidth 128, detail := 0 }
  let s := charge c.part c.epoch 7 1 c.time (pushCompl c.qp { d with tag := 0, opcode := 0xFF } s)
  let x := getQp s c.qp
  if x.st = .reset || x.st = .error then s
  else eachS (qpCmds s c.qp) stopCmd (enterError c.qp 5 (c.count % 2 ^ x.sqLog) (statusCode st) 0xFF s)

/-! ### Completion writes (R243 to R245, R263) -/

/-- The 32 bytes of a completion at a count (Table 8.2). -/
def complBytes (x : Qp) (count : Nat) (c : Compl) : Nat :=
  pack [(0, 128, c.result.toNat), (128, 32, c.tag.toNat), (160, 16, c.sqIndex), (176, 16, x.sqHead.toNat),
        (192, 32, c.detail.toNat), (224, 8, c.opcode), (232, 8, statusCode c.status),
        (240, 1, 1 - (count / 2 ^ x.cqLog) % 2), (241, 1, bit c.effect)]

/-- The write of one completion, or of two as one full line (R244, R245). -/
def complReq (s : State) (q : Nat) (cs : List Compl) : Req :=
  let x := getQp s q
  let n := x.cqTail.toNat
  let slot := n % 2 ^ x.cqLog
  let half := 32 * (slot % 2)
  let d := (cs.zipIdx.map fun (c, i) => complBytes x (n + i) c <<< (8 * (half + 32 * i))).foldl (· ||| ·) 0
  let full := cs.length = 2
  { origin := .booth q cqWriter 0,
    pkt := { ptype := if full then 0x04 else 0x05, len := 7, addr := BitVec.ofNat 64 (x.cqBase + 32 * slot - half),
             data := [BitVec.ofNat 512 d], mask := if full then 0 else rangeMask half 32,
             flags := BitVec.ofNat 8 (8 * bit x.cqCntEn), counter := BitVec.ofNat 16 x.cqCnt },
    part := qpPart s q, epoch := (cs.head?.map Compl.epoch).getD s.rig.epoch, time := (cs.head?.map Compl.time).getD s.now }

/-- Commands of a queue pair are no longer outstanding: their completions are written or lost, and their Tickets return; the Booth has had work until
now (R30, R252, R461). -/
def returnNotes (q n : Nat) (s : State) : State :=
  modBooth (qpBooth s q) (fun b => { b with lastWork := s.now }) (modQp q (fun x => { x with notified := x.notified - n, spent := x.spent - n }) s)

/-- A failed completion write aborts the queue pair, and the completions still owed are lost and counted (R263). -/
def complLost (q : Nat) (s : State) : State :=
  let x := getQp s q
  let owed := x.writes.flatten.length + bit x.held.isSome
  abortQp q 6 (returnNotes q owed (modQp q (fun x => { x with cqLost := true, writes := [], held := none, aborted := satAdd 8 x.aborted owed }) s))

/-- The front completion write of a queue pair: issued, and settled once it has ended. -/
def cqWrite (q : Nat) (s : State) : State :=
  match (getQp s q).writes with
  | [] => s
  | cs :: _ =>
    let s := if (getQp s q).cqBusy then s else
      serve (complReq s q cs) (modQp q (fun x => { x with cqBusy := true, cqEnd := none }) s)
    match (getQp s q).cqEnd with
    | none => s
    | some st =>
      let s := modQp q (fun x => { x with cqBusy := false, cqEnd := none }) s
      if statusGood st then
        returnNotes q cs.length (modQp q (fun x => { x with writes := x.writes.drop 1, cqTail := x.cqTail + BitVec.ofNat 32 cs.length }) s)
      else complLost q s

/-- The end of a completion's hold (R245): 64 BOOTH cycles, which are 16 METER cycles. -/
def cqHoldExpiry (q : Nat) (s : State) : State :=
  let x := getQp s q
  match x.held with
  | some h => if x.heldAt + 16 ≤ s.now then modQp q (fun x => { x with held := none, writes := x.writes ++ [[h]] }) s else s
  | none => s

/-! ### Lost agents (R199) -/

/-- The queue pairs whose doorbell a lost agent rang last are aborted (step 5 of R199, Table 8.8). -/
def abortRungBy (z : Nat) (s : State) : State :=
  let mine (q : Nat) (x : Qp) : Bool :=
    if z / 4 = thisIndex s then x.ringer = z % 4
    else x.ringer = 0x10 && (match qpRec s q with | some r => r.owner = memberNode s (z / 4) | none => false)
  eachS (s.qps.filter fun (q, x) => mine q x) (fun (q, _) s => abortQp q 3 s) s

/-- The combined answer of this member to a probe of another home: for the agents the probe stands for, or, when one of them was lost first,
in part, for those that have answered; a member with no answer at all sends nothing (R190, R198, log 53). -/
def answerHome (v : Served) (s : State) : State :=
  let named := if v.short then v.answered.map fun a => (BitVec.ofNat 16 (thisNode s), BitVec.ofNat 32 a) else v.pkt.list.drop 1
  if v.short && v.answered.isEmpty then s
  else reply v.link v.pkt { ptype := 0x2B, aux := BitVec.ofNat 8 (2 * bit v.gone), list := named } s

/-- A lost site owes no answer any longer to the probes of other homes (R198, log 53). -/
def serveLess (k : Nat) (s : State) : State :=
  let vs := (s.home.served.filter fun v => v.sites.contains k).map fun v => { v with sites := v.sites.filter (· ≠ k), short := true }
  let s := modHome (fun h => { h with served := (h.served.filter fun v => !v.sites.contains k) ++ vs.filter fun v => !v.sites.isEmpty }) s
  eachS (vs.filter fun v => v.sites.isEmpty) answerHome s

/-- An agent is declared lost, with the place that declares it (R199). -/
def declareLost (z loc : Nat) (s : State) : State :=
  if (ringOf s).isNone || agentLostBit s z then s else
  let s := whenS (decide (z / 4 = thisIndex s)) (serveLess (z % 4)) s
  let s := modHome (fun h => { h with lost := setBit h.lost z true }) s
  let s := tellMembers z s
  let s := post { recOf s 0x0044 4 (partNo (agentPart s z)) loc with detail := z, node := memberNode s (z / 4) } s
  let s := dropFromTxns z s
  let s := scanCache z s
  let s := modHome (fun h => { h with sweeps := h.sweeps ++ [{ agent := z, since := s.now }] }) s
  abortRungBy z s

end Sys2Proof.Machine
end

