-- ==== Sys2Proof/Machine/Requests.lean ====
section
/-! DEFINITION. The requests of sites and of the fabric: reads, stores, far atomics and coherence requests (03, 06, 07, 12, 13). -/

namespace Sys2Proof.Machine

/-- The lines that the read of a line holds: for a narrow write into a compressed block, which rewrites it, the whole block (R111, R129). -/
def readHolds (s : State) (r : Req) (l : Nat) : List Nat := if isNarrow r.pkt then readTogether s l else [l]

/-- Whether the read of a line that a request needs can be issued to the stack at once: nothing keeps it from its line, which the stack holds whole,
Tickets let it come there, and a narrow write has a merge entry (R20, R111, Table 4.4). -/
def readsNow (s : State) (r : Req) (l : Nat) : Bool :=
  let rd := isReadType r.pkt.ptype.toNat
  (reach s .line r).place = .line && (earlier s r).isNone &&
  !(fromLost s r || fenced s l || (readHolds s r l).any (lineHeld s) || behind s r || (sleeperOf s [l]).isSome || (findTxn s l).isSome ||
    reservedFrom s l (waiterOf s r) || (if directPath s r then !dirDirect s rd l else (gateProbe s rd l).isSome) || (findHot s l).isSome ||
    !channelUp s l || keyMissing s l || (getLine s l).poison || (isNarrow r.pkt && mergeEntries ≤ mergesUsed s l))

/-- A read is issued to the stack, and the lines that it needs are held until it returns (log 9). -/
def issueRead (r : Req) (s : State) : State :=
  let l := (reqLines r).headD 0
  eachS (readHolds s r l) (holdLine · .stackRead) (modMem (fun m => { m with reads := m.reads ++ [{ line := l, req := some r, found := none }] }) s)

/-- A read that the stack returns later: the read is issued and the line held until CAROUSEL_READ_RETURN (log 9). A read that
is not served by the stack at once is served as any other. -/
def startRead (r : Req) (s : State) : State :=
  let go (r : Req) (s : State) : State :=
    if readsNow s r ((reqLines r).headD 0) then admitTo .line r issueRead s else serveHome r s
  numbered r (fun r => under r.epoch (handOver go r)) s

/-- The faults on the die that a request brings with it are awaited from now on (log 45). -/
def await (ups : List Upset) (s : State) : State := { s with upsets := s.upsets ++ ups }

/-- RD: one line, served at its home (R86). -/
def execRd (port : Port) (p : Packet) (later : Bool) (ups : List Upset) (s : State) : Host.Outcome State Fault Refusal :=
  .next (settle (ingress port { p with ptype := 0x01 } (if later then startRead else serve) (await ups s)))

/-- RD_BURST: an aligned burst of four lines (R210). -/
def execRdBurst (port : Port) (p : Packet) (s : State) : Host.Outcome State Fault Refusal :=
  .next (settle (ingress port { p with ptype := 0x02 } serve s))

/-- RD_STREAM: 1 to 16 aligned bursts of one granule (R382). -/
def execRdStream (port : Port) (p : Packet) (s : State) : Host.Outcome State Fault Refusal :=
  .next (settle (ingress port { p with ptype := 0x03 } serve s))

/-- WR: one full line (R28). -/
def execWr (port : Port) (p : Packet) (ups : List Upset) (s : State) : Host.Outcome State Fault Refusal :=
  .next (settle (ingress port { p with ptype := 0x04 } serve (await ups s)))

/-- WR_MASKED: a narrow write of one line, whose read of the old line the stack may return later (R116). -/
def execWrMasked (port : Port) (p : Packet) (on : Course) (s : State) : Host.Outcome State Fault Refusal :=
  .next (settle (ingress port { p with ptype := 0x05 } (if on.later then startRead else serve) (await on.ups s)))

/-- WR_BURST: an aligned burst of four lines (R104, R210). -/
def execWrBurst (port : Port) (p : Packet) (s : State) : Host.Outcome State Fault Refusal :=
  .next (settle (ingress port { p with ptype := 0x06 } serve s))

/-- WR_STREAM: 1 to 16 aligned bursts of one granule (R211, R382). -/
def execWrStream (port : Port) (p : Packet) (s : State) : Host.Outcome State Fault Refusal :=
  .next (settle (ingress port { p with ptype := 0x07 } serve s))

/-- ATOMIC_FAR: decided against the replay table when it comes over the fabric, then applied at the home (R226, R231). -/
def execAtomicFar (port : Port) (p : Packet) (s : State) : Host.Outcome State Fault Refusal :=
  .next (settle (ingress port { p with ptype := 0x08 } atomicDecide s))

/-- PUBLISH_COMMIT: decided at the header's home and answered with PUBLISH_RESULT (R365). -/
def execPublishCommit (l : Fin 16) (p : Packet) (s : State) : Host.Outcome State Fault Refusal :=
  .next (settle (ingress (.link l) { p with ptype := 0x09 } serve s))

/-- RD_NC: a site's non-coherent read, which its adapter's buffer may serve (R192, R212). -/
def execRdNc (k : Fin 4) (p : Packet) (s : State) : Host.Outcome State Fault Refusal :=
  .next (settle (ingress (.site k) { p with ptype := 0x14 } serve s))

/-- WR_NC: a site's non-coherent store: every cached copy is removed, then it is applied at the home (R192, R194). -/
def execWrNc (k : Fin 4) (p : Packet) (s : State) : Host.Outcome State Fault Refusal :=
  .next (settle (ingress (.site k) { p with ptype := 0x15 } serve s))

/-- RD_SHARED: an agent's read for a shared copy (Table 6.3). -/
def execRdShared (port : Port) (p : Packet) (s : State) : Host.Outcome State Fault Refusal :=
  .next (settle (ingress port { p with ptype := 0x10 } (serveCoherent .shared) s))

/-- RD_OWN: an agent's read for ownership (Table 6.3). -/
def execRdOwn (port : Port) (p : Packet) (s : State) : Host.Outcome State Fault Refusal :=
  .next (settle (ingress port { p with ptype := 0x11 } (serveCoherent .own) s))

/-- UPGRADE: ownership of a line an agent holds shared (Table 6.3). -/
def execUpgrade (port : Port) (p : Packet) (s : State) : Host.Outcome State Fault Refusal :=
  .next (settle (ingress port { p with ptype := 0x12 } (serveCoherent .upgrade) s))

/-- WRITEBACK: an owned line given up (R191, R196). -/
def execWriteback (port : Port) (p : Packet) (s : State) : Host.Outcome State Fault Refusal :=
  .next (settle (ingress port { p with ptype := 0x13 } serveWriteback s))

/-! ### Lost transaction state (R450, R451) -/

/-- The fences of a slice (R451). -/
def sliceFences (s : State) (slice : Nat) : Nat := (s.home.fences.filter fun l => sliceOfLine l = slice).length

/-- A line is fenced, or poisoned with reason STATE_LOST when its slice has no fence free (R451). -/
def fenceLine (kind l : Nat) (s : State) : State :=
  if sliceFences s (sliceOfLine l) < 64 then
    let s := modHome (fun h => { h with fences := l :: h.fences.filter (· ≠ l) }) s
    post { recOf s 0x0021 2 (partNo (lineOwner s l)) (0x38 + sliceOfLine l) with addr := checkAddr s l, detail := kind } s
  else poisonLine l 3 s

/-- A STATE_LOST record of a kind, to the requester's partition, with its node (R450, R541). -/
def postStateLost (kind l : Nat) (r : Req) (s : State) : State :=
  post { recOf s 0x0022 2 (existing s r.part) (0x38 + sliceOfLine l) with addr := checkAddr s l, detail := kind, status := 0x12, node := reqNode s r } s

/-- The transactions of a request that has been answered go on to their ends without it: what is probed for still comes, and nothing is done with
it for the request (R193, R450). -/
def orphanTxns (r : Req) (s : State) : State :=
  let silent (t : Txn) : Req := { t.req with origin := .roustabout, pkt := { ptype := 0x01, addr := lineAddr s t.line } }
  modHome (fun h => { h with txns := h.txns.map fun t => if sameReq t.req r then { t with req := silent t } else t }) s

/-- A request that has been answered is forgotten wherever it stands: it waits no longer, and no mirror packet of another of its lines answers it
(R450). -/
def forgetReq (r : Req) (s : State) : State :=
  let s := modMem (fun m => { m with parked := m.parked.filter fun p => !sameReq p.req r }) s
  orphanTxns r (modInteg (fun x => { x with ops := x.ops.map fun o => { o with reqs := o.reqs.filter fun q => !sameReq q r } }) s)

/-- A request ends with STATE_LOST for the loss of an entry of a kind on a line, and is answered no more (R450). -/
def endLost (kind l : Nat) (r : Req) (s : State) : State :=
  let s := forgetReq r (postStateLost kind l r s)
  if 0x10 ≤ r.pkt.ptype.toNat && r.pkt.ptype.toNat ≤ 0x13 then cohError r .stateLost s else finish r { status := .stateLost } s

/-- The requests whose bursts the home of a line holds: those that wait there, await probes or await their partner (R210). -/
def heldBursts (s : State) (l : Nat) : List Req :=
  let at_ (w : Wait) : Bool := match w with | .line | .slice => true | _ => false
  (s.integ.ops.flatMap MirrorOp.reqs ++ (s.mem.parked.filter fun p => at_ p.why).map Parked.req ++ s.home.txns.map Txn.req).filter fun r =>
    isWriteType r.pkt.ptype.toNat && pktLines r.pkt = 4 && (reqLines r).contains l

/-- The loss of a coherence transaction of a line: its requester and its waiters are told, and the line is recalled from every agent (Table 14.6). -/
def loseTxn (l : Nat) (t : Txn) (s : State) : State :=
  let s := endLost 1 l t.req (modHome (fun h => { h with txns := h.txns.filter fun x => x.line ≠ l }) s)
  let s := eachS t.waiters (fun w s => match w with
    | .agent a => toAgent a (cohMsg 0x2E (lineAddr s l)) s
    | _ => s) s
  let all := (List.range 32).filter fun a => memberLive s (a / 4) && (a / 4 ≠ thisIndex s || siteAgent s (a % 4))
  txnProceed l none <| openTxn l .ncWrite none { t.req with origin := .roustabout, pkt := { ptype := 0x01, addr := lineAddr s l } } 0x23 all .i none (pinEnt l false s)

/-- The mirror packets of a write on some lines are given up, and the lines are fenced while their pair goes on (Table 14.6). -/
def loseHold (kind : Nat) (ls : List Nat) (s : State) : State :=
  let lost (o : MirrorOp) : Bool := o.kind = .write && o.lines.any ls.contains
  let s := modInteg (fun x => { x with ops := x.ops.filter fun o => !lost o }) (eachS ((s.integ.ops.filter lost).flatMap MirrorOp.lines) freeLine s)
  eachS ls (fun n s => whenS (mirrored s n) (fenceLine kind n) s) s

/-- The loss of the pending entry of a far atomic: it ends, and a resend that waited for it finds none (Table 14.6). -/
def loseAtomic (l : Nat) (e : Replay) (s : State) : State :=
  let mine (r : Req) : Bool := r.pkt.ptype = 0x08 && (constituents r.pkt).contains (e.node, e.tag)
  let rs := (s.mem.parked.map Parked.req ++ s.integ.ops.flatMap MirrorOp.reqs ++ s.home.txns.map Txn.req).filter mine
  let s := modOrder (fun x => { x with replay := x.replay.filter fun y => y ≠ e, unknown := satAdd 16 x.unknown e.waiting.length }) s
  let s := match rs with
    | r :: _ => refuse r .stateLost (forgetReq r (postStateLost 4 l r s))
    | [] => s
  eachS e.waiting (fun r s => refuse r .atomicUnknown s) s

/-- The loss of a transaction-state entry on a line, settled by its kind (Table 14.6). -/
def loseEntry (k : LostEntry) (l : Nat) (s : State) : State :=
  match k with
  | .coherence =>
    match findTxn s l with
    | none => s
    | some t => loseTxn l t s
  | .mirrorHold =>
    match s.integ.ops.find? fun o => o.kind = .write && o.lines.contains l with
    | none => s
    | some o => eachS o.reqs (endLost 2 l) (loseHold 2 [l] s)
  | .burstHold =>
    match heldBursts s l with
    | [] => s
    | r :: _ => endLost 3 l r (loseHold 3 (reqLines r) s)
  | .farAtomic =>
    match s.order.replay.find? fun e => e.t0.isNone && lineNo e.offset = l with
    | none => s
    | some e => loseAtomic l e s
  | .hotLine =>
    match findHot s l with
    | none => s
    | some h =>
      let s := modHome (fun x => { x with hot := x.hot.filter fun y => y.line ≠ l }) s
      poisonLine l 3 (eachS h.owed (endLost 5 l) s)

/-- COMPLETE: the requester has received its grant; the transaction may close (R193). A COMPLETE for a line of another node
goes on to its home. `lost` is a transaction-state entry of the line whose check fails on two reads (R450). -/
def execComplete (port : Port) (p : Packet) (lost : Option LostEntry) (s : State) : Host.Outcome State Fault Refusal :=
  let l := lineNo (offOf p.addr.toNat)
  let here := nodeOf p.addr.toNat = thisNode s
  match port, lost with
  | _, some k => .next (settle (loseEntry k l s))
  | .site k, none =>
    .next (siteMessage k.val { p with ptype := 0x18 } (fun p s =>
      let a := 4 * thisIndex s + k.val
      if here then settle (completeTxn l a s)
      else match anyLink s (nodeOf p.addr.toNat) (offOf p.addr.toNat) with
        | some j => sendOn j { cohMsg 0x18 p.addr with
                               srcNode := BitVec.ofNat 16 (thisNode s), dstNode := BitVec.ofNat 16 (nodeOf p.addr.toNat),
                               list := [(BitVec.ofNat 16 (thisNode s), BitVec.ofNat 32 a)] } s
        | none => s) s)
  | .link k, none =>
    .next (onLink k.val { p with ptype := 0x18 } (fun p s =>
      let s := takeIngress k.val p s
      match memberOf s p.srcNode.toNat with
      | some i => if memberLive s i then settle (completeTxn l (pktAgent i p) s) else protocolEvent k.val p 0 s
      | none => protocolEvent k.val p 0 s) s)

end Sys2Proof.Machine
end

