-- ==== Sys2Proof/Machine/Answers.lean ====
section
/-! DEFINITION. What comes back and what comes between devices: coherence probes and answers (06), mirror and pair packets
(05), the responses to this device's own requests (12), credits and unreachable marks. -/

namespace Sys2Proof.Machine

/-! ### Responses to this device's requests (R402) -/

/-- The outstanding request that a response from a node answers. -/
def findOutst (s : State) (node tag : Nat) : Option Outst :=
  s.fab.outst.find? fun o => o.tag = tag && o.pkt.dstNode.toNat = node && o.sent

/-- A packet that matches no outstanding request is discarded and counted (R402). -/
def unmatched (l : Nat) (s : State) : State := modLink l (fun x => { x with unmatched := satInc 8 x.unmatched }) s

/-- A response leaves a link's ingress and meets its request, when there is one that a test admits. -/
def respond (l : Nat) (p : Packet) (fits : Outst → Bool) (f : Outst → State → State) (s : State) : State :=
  onLink l p (fun p s =>
    let s := takeIngress l p s
    match findOutst s p.srcNode.toNat (bits p.tag.toNat 0 20) with
    | some o => if fits o then f o s else unmatched l s
    | none => unmatched l s) s

/-- Until when a tag is held after its request ends: REPLAY_RETENTION for a far atomic, FABRIC_TIMEOUT for a read that was
sent again (R232, R379). -/
def tagHoldOf (s : State) (o : Outst) : Option Nat :=
  if o.pkt.ptype = 0x08 then some (s.now + retention s)
  else if o.reread then some (s.now + fabricTimeout s) else none

/-- Ends an outstanding request with an answer and holds its tag as its kind asks. -/
def endWith (o : Outst) (a : Answer) (noBuf : Bool) (s : State) : State := endOutst o a noBuf (tagHoldOf s o) s

/-- Sends an outstanding request once more as a packet, on the link that R388 now gives: on its own with the Ticket it keeps, on another once it has
one there (R386, R399). With no link it ends with TARGET_DEAD, a far atomic on its own times (R232, R388). A packet sent with RESEND is what a later
grant sends (R399). -/
def sendAgain (o : Outst) (p : Packet) (s : State) : State :=
  let s := whenS (!pktGranted p) (modOutst o.tag (fun x => { x with pkt := p })) s
  match outLink s o.epoch o.part o.pkt with
  | none => if o.pkt.ptype = 0x08 then s else endWith o { status := .targetDead } false s
  | some l => if l = o.link && o.ticketed then handOn o l p s else pumpOutst (modOutst o.tag (fun x => { x with ticketed := false, resend := some p }) s)

/-- FABRIC_ACK: the acknowledgement of a write; the tag and its Ticket are freed (R29). -/
def execFabricAck (l : Fin 16) (p : Packet) (s : State) : Host.Outcome State Fault Refusal :=
  .next (settle (respond l.val { p with ptype := 0x40 } (fun o => isWriteType o.pkt.ptype.toNat || o.pkt.ptype = 0x0B)
    (fun o => endWith o { status := statusOf p.code.toNat } false) s))

/-- The first of the checks that a packet carries that differs from the one computed over its data, at an address. -/
def firstBad (s : State) (a : Word) (p : Packet) : PathCheck :=
  let found := answerChecks a p.data
  ((found.zipIdx.map fun e =>
    ({ addr := logAddr s (BitVec.ofNat 64 (a.toNat / 64 * 64 + 64 * e.2)), carried := p.checks.getD e.2 0, found := e.1 } : PathCheck)).find? fun e =>
      e.carried ≠ e.found).getD default

/-- Whether every carried check of a DATA response matches over the lines it names (R143). -/
def dataOk (o : Outst) (p : Packet) : Bool := p.checks = answerChecks o.pkt.addr p.data

/-- DATA: compared with the requester's seed, sent again once on a mismatch, then delivered (R143, R392). -/
def takeData (l : Nat) (p : Packet) (o : Outst) (s : State) : State :=
  let c := statusOf p.code.toNat
  let nb := p.flags.getLsbD 5
  if statusGood c && !dataOk o p then
    match o.again with
    | some f => endWith o { status := .poisoned } nb (pathFailed l 0xFF o.part p.srcNode.toNat f s)
    | none =>
      let f := firstBad s o.pkt.addr p
      sendAgain o (pktFlag o.pkt 2 true) (modOutst o.tag (fun x => { x with again := some f }) s)
  else
    let s := match o.again with
      | some f => whenS (statusGood c) (pathRetried l 0xFF f) s
      | none => s
    endWith o { status := c, data := if statusGood c then p.data else [] } nb s

/-- DATA (R392). -/
def execData (l : Fin 16) (p : Packet) (s : State) : Host.Outcome State Fault Refusal :=
  .next (settle (respond l.val { p with ptype := 0x41 }
    (fun o => isReadType o.pkt.ptype.toNat && p.data.length = pktLines o.pkt) (takeData l.val p) s))

/-- ATOMIC_RESULT: the old value reaches the requester (R232). -/
def execAtomicResult (l : Fin 16) (p : Packet) (s : State) : Host.Outcome State Fault Refusal :=
  .next (settle (respond l.val { p with ptype := 0x42 } (fun o => o.pkt.ptype = 0x08)
    (fun o => endWith o { status := statusOf p.code.toNat, old := p.opA } false) s))

/-- PUBLISH_RESULT: the header after the decision reaches the PUBLISH command (R367). -/
def execPublishResult (l : Fin 16) (p : Packet) (s : State) : Host.Outcome State Fault Refusal :=
  .next (settle (respond l.val { p with ptype := 0x43 } (fun o => o.pkt.ptype = 0x09)
    (fun o => endWith o { status := statusOf p.code.toNat, old := BitVec.ofNat 128 (leAt p.body 0 16) } false) s))

/-- STATUS on a far atomic of a site that met STALE_MAP: the window is read afresh, and under another epoch the atomic leaves
as a new first packet (R232). -/
def staleAtomic (o : Outst) (s : State) : State :=
  let now := match Tab.find s.rig.cur.wins o.window with | some w => winEpoch w.entry | none => o.pkt.epoch.toNat
  if now = o.pkt.epoch.toNat then endWith o { status := .staleMap } false s
  else
    let p := pktFlag { o.pkt with epoch := BitVec.ofNat 8 now, grantId := 0 } 2 false
    let p := pktFlag p 4 false
    let s := modOutst o.tag (fun x =>
      { x with pkt := p, ticketed := false, sent := false, firstAt := s.now, lastAt := s.now, resends := 0, grantId := none, unbounced := [], restart := false, resend := none }) s
    pumpOutst s

/-- STATUS: passed unchanged to the site or the command (R88, R232). -/
def execStatus (l : Fin 16) (p : Packet) (s : State) : Host.Outcome State Fault Refusal :=
  .next (settle (respond l.val { p with ptype := 0x44 } (fun o => !(0x10 ≤ o.pkt.ptype.toNat && o.pkt.ptype.toNat ≤ 0x13))
    (fun o s =>
      let c := statusOf p.code.toNat
      match o.origin with
      | .site _ => if o.pkt.ptype = 0x08 ∧ c = .staleMap then staleAtomic o s else endWith o { status := c } false s
      | _ => endWith o { status := c } false s) s))

/-- RETRY: the request was bounced; it keeps its Ticket and waits for its grant (R399). DESIGN CHOICE, log 23: the packet it answers is the last one
sent of those that no RETRY has answered. -/
def execRetry (l : Fin 16) (p : Packet) (s : State) : Host.Outcome State Fault Refusal :=
  .next (respond l.val { p with ptype := 0x45 } (fun _ => true)
    (fun o s => modOutst o.tag (fun x =>
      { x with
        grantId := some p.grantId.toNat
        lastAt := s.now
        unbounced := x.unbounced.dropLast }) s) s)

/-- RESEND_GRANT: the request leaves again with GRANTED and the entry's number; its times run anew from when it leaves (R397, R399, R402). -/
def execResendGrant (l : Fin 16) (p : Packet) (s : State) : Host.Outcome State Fault Refusal :=
  .next (settle (respond l.val { p with ptype := 0x46 } (fun _ => true)
    (fun o s =>
      let s := modOutst o.tag (fun x => { x with grantId := none, lastAt := s.now, resends := 0, restart := true }) s
      sendAgain o (pktFlag { o.pkt with grantId := p.grantId } 4 true) s) s))

/-- Whether a transaction stands for the request of another node that a packet answers. -/
def grantOver (t : Txn) (p : Packet) : Bool :=
  (match t.req.origin with | .link _ => true | _ => false) && t.req.pkt.srcNode = p.srcNode &&
    bits t.req.pkt.tag.toNat 0 20 = bits p.tag.toNat 0 20

/-- A message whose carried check failed at its receiver, as it leaves once more (R145, R392). -/
def granted (q p : Packet) : Packet := pktFlag { q with grantId := p.grantId } 4 true

/-- What this device keeps of the data that it sent to a node in answer to a packet's tag, until it is known to have come (R145). -/
def keptData (s : State) (p : Packet) : Option Packet :=
  s.home.passed.find? fun q => q.dstNode = p.srcNode && bits q.tag.toNat 0 20 = bits p.tag.toNat 0 20

/-- CHECK_RESEND: a packet whose carried check failed at its receiver leaves once more with GRANTED, as this device keeps it: a request or a mirror
packet until its response, a grant until COMPLETE, the data of a site for another node (R145, R392). -/
def execCheckResend (l : Fin 16) (p : Packet) (s : State) : Host.Outcome State Fault Refusal :=
  .next (settle (onLink l.val { p with ptype := 0x47 } (fun p s =>
    let s := takeIngress l.val p s
    let tag := bits p.tag.toNat 0 20
    match findOutst s p.srcNode.toNat tag, s.integ.ops.find? fun o => o.tag = tag && o.pkt.dstNode = p.srcNode with
    | some o, _ => sendAgain o (granted o.pkt p) s
    | none, some o => resendMirror o (granted o.pkt p) s
    | none, none =>
      match s.home.txns.find? fun t => grantOver t p && t.granted.isSome && !t.completed && t.grant.isSome, keptData s p with
      | some t, _ => eachS t.grant.toList (fun q s => toRequester t.req (granted q p) s) s
      | none, some q =>
        match anyLink s q.dstNode.toNat (offOf q.addr.toNat) with
        | some k => sendOn k (granted q p) (modHome (fun h => { h with passed := h.passed.erase q }) s)
        | none => s
      | none, none => unmatched l.val s) s))

/-- REG_RESULT: the value of a register of another device reaches its requester (R505). -/
def execRegResult (l : Fin 16) (p : Packet) (s : State) : Host.Outcome State Fault Refusal :=
  .next (settle (respond l.val { p with ptype := 0x48 } (fun o => o.pkt.ptype = 0x0A || o.pkt.ptype = 0x0B)
    (fun o => endWith o { status := statusOf p.code.toNat, old := p.value.setWidth 128 } false) s))

/-! ### Link-local packets (R385, R390) -/

/-- A link-local packet leaves the queue of decoded packets; it takes no ingress slots. -/
def takeLocal (l t : Nat) (s : State) : State :=
  modLink l (fun x => { x with ingress := if (x.ingress.head?.map fun p => p.ptype.toNat) = some t then x.ingress.drop 1 else x.ingress }) s

/-- A class's credits after `n` returned slots: the reserved part is filled first, neither above its size (R384). -/
def refill (size cur : Nat × Nat) (n : Nat) : Nat × Nat :=
  let r := min n (size.2 - cur.2)
  (min size.1 (cur.1 + (n - r)), cur.2 + r)

/-- The slots a CREDIT returns for a class: bytes 2k and 2k + 1 of its slot bytes after TYPE (Table 12.6). -/
def creditSlots (p : Packet) (k : Nat) : Nat := leAt p.body (2 * k) 2

/-- Whether a CREDIT of a site keeps its form: it has no field but TYPE, LEN among them, and no slots but those of the four classes (R383, R416). -/
def siteCreditOk (p : Packet) : Bool :=
  decide ({ p with ptype := 0, len := 2, body := [] } = ({} : Packet)) && (p.body.drop 8).all (· = 0)

/-- CREDIT: slots come back and waiting packets leave (R384, R385, R387); a site's credits likewise, once its form is right (R416, R419). -/
def execCredit (port : Port) (p : Packet) (s : State) : Host.Outcome State Fault Refusal :=
  match port with
  | .link l =>
    if !linkUp s l.val then .next s else
    let s := takeLocal l.val 0x60 s
    let s := modLink l.val (fun x =>
      { x with credits := (List.range 5).map fun k => refill (x.sizes.getD k (0, 0)) (creditOf x k) (creditSlots p k) }) s
    .next (pumpCredits ((getLink s l.val).waiting.length + 1) l.val s)
  | .site k =>
    if (getSite s k.val).st ≠ .active then .next s else
    if !siteCreditOk p then .next (siteProtocol k.val 0x60 s) else
    let s := modSite k.val (fun x => { x with credits := (List.range 4).map fun c =>
      let y := x.credits.getD c (0, 0)
      (y.1 + creditSlots p c, y.2) }) s
    .next (pumpSite ((getSite s k.val).waiting.length + 1) k.val s)

/-- NULL: a slot received and discarded (R377). -/
def execNull (_l : Fin 16) (s : State) : Host.Outcome State Fault Refusal := .next s

/-- The marks a link holds. -/
def markLimit : Nat := 256

/-! ### Coherence messages (06) -/

/-- The live member that sent a packet. -/
def liveSender (s : State) (p : Packet) : Option Nat :=
  (memberOf s p.srcNode.toNat).bind fun i => if memberLive s i then some i else none

/-- A message accepted only from live Ring members; any other is discarded with a record (R393). -/
def fromMember (l : Nat) (p : Packet) (f : Nat → Packet → State → State) (s : State) : State :=
  onLink l p (fun p s =>
    let s := takeIngress l p s
    match liveSender s p with
    | some i => f i p s
    | none => protocolEvent l p 0 s) s

/-- The line of a coherence message homed here. -/
def msgLine (p : Packet) : Nat := lineNo (offOf p.addr.toNat)

/-- A probe of another home: forwarded to this member's sites, and answered once they have all answered (R190). DESIGN CHOICE, log 60: a probe by
device mask goes to every enabled site, the requester's own too where that is one of them: R190 forwards to each, where R192 probes the sharers
other than the requester. -/
def takeProbe (t l : Nat) (p : Packet) (s : State) : State :=
  let p := { p with ptype := BitVec.ofNat 8 t }
  fromMember l p (fun _ p s =>
    let mine := (List.range 4).filter fun k => siteAgent s k && !agentLostBit s (4 * thisIndex s + k)
    let named := (p.list.drop 1).map fun (_, a) => a.toNat % 32
    let sites := if named.isEmpty then mine else mine.filter fun k => named.contains (4 * thisIndex s + k)
    let v : Served := { home := p.srcNode.toNat, link := l, pkt := p, sites := sites, answered := [], gone := false, short := false }
    if sites.isEmpty then answerHome v s
    else
      let s := modHome (fun h => { h with served := h.served ++ [v] }) s
      eachS sites (fun k s => toSite k p s) s) s

/-- SNP_INV (R190). -/
def execSnpInv (l : Fin 16) (p : Packet) (s : State) : Host.Outcome State Fault Refusal := .next (takeProbe 0x20 l.val p s)

/-- SNP_FWD_S (R191). -/
def execSnpFwdS (l : Fin 16) (p : Packet) (s : State) : Host.Outcome State Fault Refusal := .next (takeProbe 0x21 l.val p s)

/-- SNP_FWD_O (R191). -/
def execSnpFwdO (l : Fin 16) (p : Packet) (s : State) : Host.Outcome State Fault Refusal := .next (takeProbe 0x22 l.val p s)

/-- SNP_RECALL (R191). -/
def execSnpRecall (l : Fin 16) (p : Packet) (s : State) : Host.Outcome State Fault Refusal := .next (takeProbe 0x23 l.val p s)

/-- AGENT_LOST from a live member (R198, R199). -/
def execAgentLost (l : Fin 16) (p : Packet) (s : State) : Host.Outcome State Fault Refusal :=
  .next (settle (fromMember l.val { p with ptype := 0x24 } (fun _ p => declareLost (namedAgent p) (0x20 + l.val / 2)) s))

/-- The 32 bytes of a RING record (Table 2.4). -/
def ringBytes (r : RingRec) : List Byte :=
  leBytes 2 r.ringId ++ leBytes 1 r.count ++ leBytes 1 r.this ++ leBytes 4 0 ++
  ((List.range 8).flatMap fun i => leBytes 2 (r.nodes.getD i 0)) ++ leBytes 8 0

/-- RING_HELLO to a member (R182). -/
def helloPkt (s : State) (r : RingRec) (node : Nat) (answer : Bool) : Packet :=
  { ptype := 0x25, srcNode := BitVec.ofNat 16 (thisNode s), dstNode := BitVec.ofNat 16 node,
    aux := BitVec.ofNat 8 (bit answer), body := ringBytes r }

/-- Whether a RING record of another member equals this one in RING_ID, MEMBER_COUNT and MEMBER_NODE (R181). -/
def ringAgrees (r : RingRec) (b : List Byte) : Bool :=
  leAt b 0 2 = r.ringId && leAt b 2 1 = r.count && (List.range 8).all fun i => leAt b (8 + 2 * i) 2 = r.nodes.getD i 0

/-- RING_HELLO: compared with the own record, the sender marked live or a mismatch posted, answered when REPLY is 0 (R182,
R393). -/
def execRingHello (l : Fin 16) (p : Packet) (s : State) : Host.Outcome State Fault Refusal :=
  .next (onLink l.val { p with ptype := 0x25 } (fun p s =>
    let s := takeIngress l.val p s
    match ringOf s, memberOf s p.srcNode.toNat with
    | some r, some i =>
      let s := modHome (fun h => { h with live := setBit h.live i (ringAgrees r p.body) }) s
      let s := if ringAgrees r p.body then s
        else post { recOf s 0x0045 4 0xFF (0x20 + l.val / 2) with detail := i, node := p.srcNode.toNat } s
      if p.aux.getLsbD 0 then s else sendOn l.val (helloPkt s r p.srcNode.toNat true) s
    | _, _ => protocolEvent l.val p 0 s) s)

/-- A request by a packet's address, for the hand-offs of its data over the die (R27). -/
def handEntry (s : State) (o : Origin) (p : Packet) : Req :=
  { origin := o, pkt := p, part := partNo (match o with | .site k => sitePart s.rig.cur k | _ => lineOwner s (msgLine p)), epoch := s.rig.epoch, time := s.now }

/-- An answer to a coherent request of a site of this device reaches that site and ends the request; data is compared with
its check first, and again where it is handed over the die (R27, R143, R191). All but the data of an owner or a sharer come from the home of the
line (R402). -/
def cohAnswer (t l : Nat) (p : Packet) (s : State) : State :=
  onLink l { p with ptype := BitVec.ofNat 8 t } (fun p s =>
  let s := takeIngress l p s
  let tag := bits p.tag.toNat 0 20
  let data := t = 0x28 || t = 0x29
  match liveSender s p, s.fab.outst.find? fun o =>
      o.tag = tag && 0x10 ≤ o.pkt.ptype.toNat && o.pkt.ptype.toNat ≤ 0x13 && (data || o.pkt.dstNode = p.srcNode) with
  | none, _ => protocolEvent l p 0 s
  | some _, none => unmatched l s
  | some _, some o =>
    let bad := data && p.checks ≠ answerChecks p.addr p.data
    let f := firstBad s p.addr p
    if bad && o.again.isNone then
      sendGrant 0x47 l p.srcNode.toNat p.tag p.addr 0 (modOutst o.tag (fun x => { x with again := some f, lastAt := s.now }) s)
    else
    let s := match o.again with
      | some f => if bad then pathFailed l 0xFF o.part p.srcNode.toNat f s else pathRetried l 0xFF f s
      | none => s
    let (passed, s) := if data && !bad then handPass (handEntry s o.origin p) s else (!bad, s)
    let q : Packet := if passed then p else { cohMsg 0x2F p.addr with code := 0x10 }
    let s := dropOutst o none s
    match o.origin with
    | .site k => settleFences (toAsker (outstReq o) k { q with tag := BitVec.ofNat 32 o.siteTag, flags := 0, list := [] } s)
    | _ => s) s

/-- The most data messages to other nodes that this device keeps (R145, log 52). -/
def keptMessages : Nat := 1024

/-- The data of a site passes on to another node, and is kept in case its check fails there (R145). -/
def passOn (l : Option Nat) (p : Packet) (s : State) : State :=
  match l with
  | some k => sendOn k p (modHome (fun h => { h with passed := (h.passed ++ [p]).drop (h.passed.length + 1 - keptMessages) }) s)
  | none => s

/-- Data that an owner's or sharer's site sends to a requester: to its site here, or to its member's node (R191, log 8), over the die to the port or
the adapter; data that fails there twice ends the request with POISONED (R27, R146). -/
def forwardData (t k : Nat) (p : Packet) (s : State) : State :=
  siteMessage k { p with ptype := BitVec.ofNat 8 t } (fun p s =>
    let y := namedAgent p
    let home := match p.list with | (_, y) :: _ => y.toNat = homeMark | [] => false
    let here := nodeOf p.addr.toNat = thisNode s
    if home || (here && ((findTxn s (msgLine p)).bind Txn.agent).isNone) then s
    else match handPass (handEntry s (.site k) p) s with
    | (true, s) =>
      if y / 4 = thisIndex s then toSite (y % 4) { p with checks := answerChecks p.addr p.data } s
      else
        let n := memberNode s (y / 4)
        let q := { p with checks := answerChecks p.addr p.data, srcNode := BitVec.ofNat 16 (thisNode s), dstNode := BitVec.ofNat 16 n }
        passOn (anyLink s n (offOf p.addr.toNat)) { q with len := BitVec.ofNat 16 (pktLen false q) } s
    | (false, s) =>
      if here then modTxn (msgLine p) (fun t => { t with dead := true }) s
      else toAgent y { cohMsg 0x2F p.addr with code := 0x10, tag := p.tag, list := p.list } s) s

/-- DATA_S (R191). -/
def execDataS (port : Port) (p : Packet) (s : State) : Host.Outcome State Fault Refusal :=
  match port with
  | .site k => .next (forwardData 0x28 k.val p s)
  | .link l => .next (settle (cohAnswer 0x28 l.val p s))

/-- DATA_O (R191). -/
def execDataO (port : Port) (p : Packet) (s : State) : Host.Outcome State Fault Refusal :=
  match port with
  | .site k => .next (forwardData 0x29 k.val p s)
  | .link l => .next (settle (cohAnswer 0x29 l.val p s))

/-- GRANT: ownership without data reaches the requesting agent (R191). -/
def execGrant (l : Fin 16) (p : Packet) (s : State) : Host.Outcome State Fault Refusal := .next (settle (cohAnswer 0x2A l.val p s))

/-- WB_ACK: a WRITEBACK is settled (R191). -/
def execWbAck (l : Fin 16) (p : Packet) (s : State) : Host.Outcome State Fault Refusal := .next (settle (cohAnswer 0x2D l.val p s))

/-- COHERENCE_RETRY: the request is to be sent again by its agent (R23, R195). -/
def execCoherenceRetry (l : Fin 16) (p : Packet) (s : State) : Host.Outcome State Fault Refusal :=
  .next (settle (cohAnswer 0x2E l.val p s))

/-- ERROR: a coherent request ended with the status carried (R189). -/
def execError (l : Fin 16) (p : Packet) (s : State) : Host.Outcome State Fault Refusal := .next (settle (cohAnswer 0x2F l.val p s))

/-- A probe answer of agents of a member, without data; after GONE the probe stands until the WRITEBACK comes (R193, R196). An owner that answers so has
sent its data to the requester (R192); of a sharer that was asked for the data, and has dropped the line, memory serves the request (R197). -/
def takeAck (l member : Nat) (agents : List Nat) (gone : Bool) (s : State) : State :=
  if !awaits s l member then s else
  match gone, (findTxn s l).bind Txn.owner with
  | true, some _ => modTxn l (fun t => { t with gone := true }) s
  | false, some _ => txnProceed l none (modTxn l (fun t => { t with sent := true }) (answerProbe l member agents s))
  | _, none => txnProceed l none (answerProbe l member agents s)

/-- Dirty data that a probe returned: written, but poisoned with reason STATE_LOST when it is the second of the recall that
follows a lost transaction (Table 14.6). -/
def dirtyData (l : Nat) (d : LineData) (s : State) : State :=
  match findTxn s l with
  | some t =>
    if t.req.origin = .roustabout then
      if t.granted.isSome then poisonLine l 3 s
      else writeOwnerData [] l d (modTxn l (fun t => { t with granted := some s.now }) s)
    else writeOwnerData [] l d s
  | none => s

/-- Whether a transaction is one of a non-coherent request. -/
def Txn.nonCoherent (t : Txn) : Bool := t.coh = .ncRead || t.coh = .ncWrite

/-- A probe answer whose data failed twice on its way: nothing is written, no agent is lost, and a non-coherent request that needs it ends with
POISONED (R146). -/
def dataFailed (l member : Nat) (agents : List Nat) (s : State) : State :=
  if !awaits s l member then s
  else txnProceed l none (modTxn l (fun t => if t.nonCoherent then { t with dead := true } else { t with sent := true }) (answerProbe l member agents s))

/-- A probe answer with data, handed over the die (R27): written when DIRTY, then the transaction goes on (R192, R193). -/
def takeAckData (l member : Nat) (agents : List Nat) (p : Packet) (s : State) : State :=
  if !awaits s l member then s else
  match handPass (handEntry s (.site member) p) s with
  | (false, s) => dataFailed l member agents s
  | (true, s) =>
    let d := p.data.headD 0
    let s := whenS (p.aux.getLsbD 0) (dirtyData l d) s
    let s := answerProbe l member agents s
    let s := modTxn l (fun t => if t.nonCoherent then t else { t with sent := true }) s
    txnProceed l (if (findTxn s l).any fun t => t.coh = .ncRead then some d else none) s

/-- The agents a member's answer stands for: those it lists, or all the member owes (log 8). -/
def answerFor (s : State) (l member : Nat) (p : Packet) : List Nat :=
  if p.list.isEmpty then
    match findTxn s l with
    | some t => (t.probes.filter fun x => x.member = member).flatMap Probe.agents
    | none => []
  else p.list.map fun (_, a) => a.toNat % 32

/-- The probe of another home that a site's answer belongs to. -/
def findServed (s : State) (k : Nat) (p : Packet) : Option Served :=
  s.home.served.find? fun v => v.pkt.addr.toNat / 64 = p.addr.toNat / 64 && v.sites.contains k

/-- A site's answer to a probe of another home: passed on with its data, or counted toward the member's one ACK (R190). -/
def siteServed (k : Nat) (v : Served) (p : Packet) (s : State) : State :=
  let s := modHome (fun h => { h with served := h.served.erase v }) s
  let rest := v.sites.filter (· ≠ k)
  if p.ptype = 0x2C then
    match handPass (handEntry s (.site k) p) s with
    | (true, s) =>
      let q := { p with checks := answerChecks p.addr p.data, srcNode := BitVec.ofNat 16 (thisNode s), dstNode := v.pkt.srcNode, tag := v.pkt.tag,
                        list := [(BitVec.ofNat 16 (thisNode s), BitVec.ofNat 32 (4 * thisIndex s + k))] }
      passOn (responseLink s v.link v.pkt.srcNode.toNat (offOf v.pkt.addr.toNat)) { q with len := BitVec.ofNat 16 (pktLen false q) } s
    | (false, s) => answerHome { v with sites := [], answered := [4 * thisIndex s + k], gone := false } s
  else
    let v := { v with sites := rest, answered := v.answered ++ [4 * thisIndex s + k], gone := v.gone || p.aux.getLsbD 1 }
    if rest.isEmpty then answerHome v s else modHome (fun h => { h with served := h.served ++ [v] }) s

/-- A probe answer of a site of this device. -/
def siteAnswerProbe (k : Nat) (p : Packet) (s : State) : State :=
  siteMessage k p (fun p s =>
    let a := 4 * thisIndex s + k
    let l := msgLine p
    if nodeOf p.addr.toNat = thisNode s then
      match findTxn s l with
      | some t =>
        if !(t.probes.any fun x => x.agents.contains a) then s
        else if p.ptype = 0x2C then takeAckData l (thisIndex s) [a] p s
        else takeAck l (thisIndex s) [a] (p.aux.getLsbD 1) s
      | none => s
    else match findServed s k p with
      | some v => siteServed k v p s
      | none => s) s

/-- ACK: a probe answer without data, possibly GONE (R196). One from a node with an open probe is accepted whether or not
the node is live (R393). -/
def execAck (port : Port) (p : Packet) (s : State) : Host.Outcome State Fault Refusal :=
  let p := { p with ptype := 0x2B }
  match port with
  | .site k => .next (settle (siteAnswerProbe k.val p s))
  | .link l =>
    .next (onLink l.val p (fun p s =>
      let s := takeIngress l.val p s
      let n := msgLine p
      match memberOf s p.srcNode.toNat with
      | some i =>
        if awaits s n i then settle (takeAck n i (answerFor s n i p) (p.aux.getLsbD 1) s)
        else if memberLive s i then s else protocolEvent l.val p 0 s
      | none => protocolEvent l.val p 0 s) s)

/-- ACK_DATA: a probe answer with the owner's data (R192). Data whose carried check fails is asked for once more; when that fails too it is not
taken, and the request that needs it ends with POISONED (R145, R146). -/
def execAckData (port : Port) (p : Packet) (s : State) : Host.Outcome State Fault Refusal :=
  let p := { p with ptype := 0x2C }
  match port with
  | .site k => .next (settle (siteAnswerProbe k.val p s))
  | .link l =>
    .next (settle (fromMember l.val p (fun i p s =>
      let n := msgLine p
      let again := resendEntry s l.val p
      let s := match again with | some (b, _) => dropBounce (l.val / 2) b.id s | none => s
      let part := partNo (lineOwner s n)
      if p.checks ≠ answerChecks p.addr p.data then
        match again with
        | none => whenS (awaits s n i) (askResend l.val p (firstBad s p.addr p)) s
        | some (_, f) => dataFailed n i (answerFor s n i p) (pathFailed l.val part part p.srcNode.toNat f s)
      else
      let s := match again with | some (_, f) => pathRetried l.val part f s | none => s
      takeAckData n i (answerFor s n i p) p s) s))

/-! ### Mirror and pair packets (05) -/

/-- A mirror or pair packet at the partner's ingress: accepted only from the node its MIRROR record names (R393). -/
def mirrorIngress (l : Nat) (p : Packet) (f : MirRec → Packet → State → State) (s : State) : State :=
  onLink l p (fun p s =>
    let s := takeIngress l p s
    match Tab.find s.rig.cur.mirs (groupOfLine (msgLine p)) with
    | some m =>
      if m.partnerNode = p.srcNode.toNat then
        if (getMirror s (groupOfLine (msgLine p))).state = .promoted then mirrorAnswer l p .targetDead s else f m p s
      else mirrorAnswer l p .protection (protocolEvent l p 0x19 s)
    | none => mirrorAnswer l p .protection (protocolEvent l p 0x19 s)) s

/-- The request a mirror packet stands for at the partner. -/
def mirrorReq (s : State) (l : Nat) (p : Packet) : Req :=
  { origin := .link l, pkt := p, part := partNo (lineOwner s (msgLine p)), epoch := s.rig.epoch, time := s.now }

/-- A mirror line, metadata write or read: only a group in the partner role takes one; a line's carried check is compared and
resent once (R145, R157, R392). -/
def takeMirror (t l : Nat) (p : Packet) (s : State) : State :=
  let p := { p with ptype := BitVec.ofNat 8 t }
  mirrorIngress l p (fun _ p s =>
    let again := resendEntry s l p
    let s := match again with | some (b, _) => dropBounce (l / 2) b.id s | none => s
    let found := lineCheck (bodyAddr p) (p.data.headD 0)
    let part := partNo (lineOwner s (msgLine p))
    if !(getMirror s (groupOfLine (msgLine p))).partner then mirrorAnswer l p .protection s
    else if t ≠ 0x30 || bodyCheck p = found then
      match handPass (mirrorReq s l p) (match again with | some (_, f) => pathRetried l part f s | none => s) with
      | (true, s) => mirrorServe (mirrorReq s l p) s
      | (false, s) => mirrorAnswer l p .poisoned s
    else match again with
    | some (_, f) => mirrorAnswer l p .poisoned (pathFailed l part part p.srcNode.toNat f s)
    | none => askResend l p { addr := bodyAddr p, carried := bodyCheck p, found := found } s) s

/-- MIRROR_WR (R157). -/
def execMirrorWr (l : Fin 16) (p : Packet) (s : State) : Host.Outcome State Fault Refusal := .next (settle (takeMirror 0x30 l.val p s))

/-- MIRROR_META (R155). -/
def execMirrorMeta (l : Fin 16) (p : Packet) (s : State) : Host.Outcome State Fault Refusal := .next (settle (takeMirror 0x31 l.val p s))

/-- MIRROR_RD (R163). -/
def execMirrorRd (l : Fin 16) (p : Packet) (s : State) : Host.Outcome State Fault Refusal := .next (settle (takeMirror 0x32 l.val p s))

/-- PAIR_OPEN: the conditions of R543, then the partner role with the state carried. -/
def execPairOpen (l : Fin 16) (p : Packet) (s : State) : Host.Outcome State Fault Refusal :=
  let p := { p with ptype := 0x33 }
  .next (mirrorIngress l.val p (fun m p s =>
    let n := msgLine p
    let g := groupOfLine n
    let x := getMirror s g
    let src := p.srcNode.toNat
    if m.partnerGroup ≠ p.code.toNat || (!x.partner && x.state ≠ .none) || (x.partner && (x.node ≠ src || x.group ≠ p.code.toNat)) then
      mirrorAnswer l.val p .tierFailed s
    else
      let st := pairOf (bits p.aux.toNat 0 3)
      mirrorAnswer l.val p .ok (modMirror g (fun x =>
        { x with
          partner := true, node := src, group := p.code.toNat, state := st
          highWater := if st = .resyncing then lineIndex n else x.highWater }) s)) s)

/-- PAIR_CLOSE: the partner's group leaves its role (R359). -/
def execPairClose (l : Fin 16) (p : Packet) (s : State) : Host.Outcome State Fault Refusal :=
  let p := { p with ptype := 0x34 }
  .next (mirrorIngress l.val p (fun _ p s =>
    let g := groupOfLine (msgLine p)
    mirrorAnswer l.val p .ok (whenS (getMirror s g).partner (modMirror g fun _ => {}) s)) s)

/-- The mirror packet of the home that an answer belongs to. -/
def findOp (s : State) (p : Packet) : Option MirrorOp :=
  s.integ.ops.find? fun o => o.tag = bits p.tag.toNat 0 20 && o.pkt.dstNode = p.srcNode

/-- MIRROR_ACCEPT: the hold is released and the write complete, or the pair breaks on a refusal (R157, R159, R543). -/
def execMirrorAccept (l : Fin 16) (p : Packet) (s : State) : Host.Outcome State Fault Refusal :=
  .next (settle (onLink l.val { p with ptype := 0x38 } (fun p s =>
    let s := takeIngress l.val p s
    match findOp s p with
    | none => unmatched l.val s
    | some o =>
      let c := statusOf p.code.toNat
      if c ≠ .ok then opFailed o true c s
      else match o.kind with
        | .write => opDone o o.status s
        | _ => tellCmd o .ok [] (freeOp o s)) s))

/-- The data of a partner copy that came again for a failed comparison passes (R145, R146). -/
def resentPassed (l part : Nat) (o : MirrorOp) (s : State) : State :=
  match o.again with
  | some f => pathRetried l part f s
  | none => s

/-- The partner copy of a line reaches the home (R147, R163, R178). DESIGN CHOICE (log 58): of a raw read's copy, DIR and TIER read as 0, since
MIRROR_DATA carries neither, and CHECK of a poisoned copy as 0. -/
def takeMirrorData (l : Nat) (p : Packet) (o : MirrorOp) (s : State) : State :=
  let good := p.code = 0
  let n := o.lines.headD 0
  let found := lineCheck (checkAddr s n) (p.data.headD 0)
  let part := partNo (groupOwner s.rig.cur o.group)
  if good && bodyCheck p ≠ found then
    match o.again with
    | some f =>
      let s := pathFailed l part part p.srcNode.toNat f s
      match o.kind with
      | .repair => repairFailed o s
      | .inspect => inspectEnd 2 (freeOp o s)
      | _ => tellCmd o .poisoned [] (dropOp o s)
    | none =>
      let upd (y : MirrorOp) : MirrorOp := if y.tag = o.tag then { y with again := some { addr := checkAddr s n, carried := bodyCheck p, found := found } } else y
      resendMirror o (pktFlag o.pkt 2 true) (modInteg (fun x => { x with ops := x.ops.map upd }) s)
  else
    let s := whenS good (resentPassed l part o) s
    match o.kind with
    | .repair => if good then repairFrom o p s else repairFailed o s
    | .inspect =>
      if !good && leAt p.body 6 1 % 2 = 0 then inspectEnd 2 (freeOp o s) else
      let seq := bodySeq p
      inspectEnd 1 (modInteg (fun x =>
        { x with
          inspData := p.data.headD 0
          inspMeta := BitVec.ofNat 64 (pack [(32, 32, (bodyCheck p).toNat), (20, 12, seq.toNat), (7, 1, leAt p.body 6 1), (4, 3, leAt p.body 7 1)]) })
        (freeOp o s))
    | _ => tellCmd o .ok [p.data.headD 0, lineOf (padTo 16 (p.body.take 16) ++ [p.code])] (dropOp o s)

/-- MIRROR_DATA (R163). -/
def execMirrorData (l : Fin 16) (p : Packet) (s : State) : Host.Outcome State Fault Refusal :=
  .next (settle (onLink l.val { p with ptype := 0x39 } (fun p s =>
    let s := takeIngress l.val p s
    match findOp s p with
    | none => unmatched l.val s
    | some o => takeMirrorData l.val p o s) s))

/-- A member no link reaches any longer, and its agents with it (R198, R390). -/
def checkReach (s : State) : State :=
  eachS ((List.range 8).filter fun i => memberLive s i && i ≠ thisIndex s &&
      !((List.range 16).any fun l => linkUp s l && unmarked s (memberNode s i) l)) (fun i s =>
    let s := modHome (fun h => { h with live := setBit h.live i false }) s
    eachS ((List.range 4).map (4 * i + ·)) (fun a s => declareLost a 0x71 s) s) s

/-- Requests that a link was to send and has not sent give their Tickets back, and wait for the link that R388 now gives them (R386, R388). -/
def takeBack (l : Nat) (ps : List Packet) (s : State) : State :=
  let mine (o : Outst) : Option Packet := ps.find? fun p => (pktClass p = 0 || pktClass p = 4) && bits p.tag.toNat 0 20 = o.tag
  let upd (o : Outst) : Outst :=
    match mine o with
    | some p => if o.link = l && o.ticketed then { o with ticketed := false, resend := if o.sent then some p else o.resend } else o
    | none => o
  let gone (p : Packet) : Bool := s.fab.outst.any fun o => o.link = l && o.ticketed && mine o = some p
  modLink l (fun x => { x with waiting := x.waiting.filter fun p => !gone p }) (modFab (fun x => { x with outst := x.outst.map upd }) s)

/-- NODE_UNREACHABLE: the link marks the node; the oldest of 256 marks is forgotten; what the link has sent waits for its response, and the
requests it has not sent are routed anew (R388, R390). -/
def execNodeUnreachable (l : Fin 16) (node : BitVec 16) (s : State) : Host.Outcome State Fault Refusal :=
  if !linkUp s l.val then .next s else
  let s := takeLocal l.val 0x61 s
  let s := modLink l.val (fun x =>
    let m := (x.marks.filter (· ≠ node.toNat)) ++ [node.toNat]
    { x with marks := m.drop (m.length - markLimit) }) s
  let s := takeBack l.val ((getLink s l.val).waiting.filter fun p => p.dstNode = node) s
  .next (settle (pumpOutst (checkReach s)))

/-- NODE_REACHABLE: the mark is removed, and waiting requests may leave (R390). -/
def execNodeReachable (l : Fin 16) (node : BitVec 16) (s : State) : Host.Outcome State Fault Refusal :=
  if !linkUp s l.val then .next s else
  .next (pumpOutst (modLink l.val (fun x => { x with marks := x.marks.filter (· ≠ node.toNat) }) (takeLocal l.val 0x62 s)))

end Sys2Proof.Machine
end

