-- ==== Sys2Proof/Machine/Link.lean ====
section
/-! DEFINITION. Links (12): training, flits and their retry, degradation, going DOWN, the bounce lists' grants, and the fabric's
timers. Timers act once their METER cycle has come. -/

namespace Sys2Proof.Machine

/-! ### States (R374 to R376, R379) -/

/-- The code of a link state (Table 12.10). -/
def linkCode : LinkSt → Nat
  | .off => 0 | .down => 1 | .training => 2 | .active => 3

/-- A LINK record (Table 14.5). -/
def linkEvent (l : Nat) (s : State) : State :=
  post { recOf s 0x0012 0 0xFF (0x20 + l / 2) with detail := pack [(8, 4, l), (0, 3, linkCode (getLink s l).st)] } s

/-- The PORT record of a link's port. -/
def portRec (s : State) (l : Nat) : Option PortRec := Tab.find s.rig.cur.ports (l / 2)

/-- The lanes of a link: all eight, or four when its port is two links (R369). -/
def linkLanes (s : State) (l : Nat) : Nat :=
  match portRec s l with
  | some r => if r.width = 0 then (if l % 2 = 0 then 0xFF else 0) else if l % 2 = 0 then 0x0F else 0xF0
  | none => 0

/-- Whether a link exists: its port is enabled and, for the second one, split (R369, R404). -/
def linkExists (s : State) (l : Nat) : Bool :=
  match portRec s l with
  | some r => r.enable && linkLanes s l ≠ 0
  | none => false

/-- The lanes a link takes of those that pass: the lowest aligned group of the largest width (R375). -/
def chooseLanes (lanes : Nat) : Nat :=
  let groups := [8, 4, 2, 1].flatMap fun w => (List.range (8 / w)).map fun i => (2 ^ w - 1) <<< (w * i)
  match groups.find? fun g => g &&& lanes = g with
  | some g => g
  | none => 0

/-- The registers of the scramblers of a set of active lanes (R370). -/
def seeds (active : Nat) : List Nat := (setBits active 8).map lfsrSeed

/-- A read is sent again at once on the link that R388 now gives, with RESEND, or ends with TARGET_DEAD (R379, R388). -/
def resendRead (o : Outst) (s : State) : State :=
  let upd (o : Outst) : Outst := { o with reread := true, ticketed := false }
  sendAgain (upd o) (pktFlag o.pkt 2 true) (modOutst o.tag upd s)

/-- What follows a link's leaving ACTIVE for a full training or DOWN: flits and marks are gone; packets that waited for credits go
elsewhere, requests that had not left among them, each with a Ticket there (R386); reads that flits not acknowledged carried are sent again (R379,
R388 to R390). -/
def linkDropped (l : Nat) (s : State) : State :=
  let s := takeBack l (getLink s l).waiting s
  let old := getLink s l
  let s := modLink l (fun x =>
    { x with
      unacked := [], tries := [], carries := [], waiting := [], marks := [], slots := [], credits := [], sizes := [], owed := [0, 0, 0, 0, 0], owedAt := none
      txSeq := 0, rxNext := 0, rxAck := 0, acked := 0, lfsr := [], tx := [], nakOwed := false, discarding := false, badTimes := [] }) s
  let s := eachS (old.waiting.filter fun p => !linkLocal p.ptype.toNat) (fun p s =>
    match anyLink s p.dstNode.toNat (offOf p.addr.toNat) with
    | some k =>
      let mine (o : MirrorOp) : Bool := pktClass p = 3 && o.tag = bits p.tag.toNat 0 20
      sendOn k p (modInteg (fun x => { x with ops := x.ops.map fun o => if mine o then { o with link := k } else o }) s)
    | none => s) s
  let lost (o : Outst) : Bool := o.link = l && o.sent && isReadType o.pkt.ptype.toNat && old.carries.any fun e => e.2 = o.tag && old.inFlight e.1
  let s := eachS (s.fab.outst.filter lost) resendRead s
  pumpOutst (checkReach s)

/-- A link changes state; each change into or out of ACTIVE or DOWN is posted (R374). Out of ACTIVE its lanes carry no traffic (R404). -/
def setLinkSt (l : Nat) (st : LinkSt) (s : State) : State :=
  let old := (getLink s l).st
  let s := modLink l (fun x => { x with st := st }) s
  let told := old ≠ st && (old = .active || old = .down || st = .active || st = .down)
  let s := whenS told (linkEvent l) s
  whenS (old = .active && st ≠ .active) (modLink l (fun x => { x with was := x.active, active := 0 })) s

/-- A full training starts at DETECT; the traffic of an ACTIVE link, or of one in a fast retrain, follows R379 (R374, R406). -/
def startTraining (l : Nat) (s : State) : State :=
  let was := (getLink s l).st = .active || ((getLink s l).st = .training && (getLink s l).fast)
  let s := setLinkSt l .training s
  let s := modLink l (fun x => { x with phase := .detect, phaseAt := s.now, attempts := 0, fast := false, fastTries := 0 }) s
  whenS was (linkDropped l) s

/-- The partitions whose requests a step has ended, since no link leads to their targets any longer. -/
def endedParts (before after : State) : List Nat :=
  ((before.fab.outst.filter fun o => !after.fab.outst.any fun x => x.tag = o.tag).map Outst.part).eraseDups

/-- A link goes DOWN (R374, R378, R379); its record goes to each partition that owned a request that this ends, too (R443). -/
def goDown (l : Nat) (s : State) : State :=
  let s := modLink l (fun x => { x with downAt := s.now }) (setLinkSt l .down s)
  let t := linkDropped l s
  eachS (endedParts s t) (fun p t =>
    post { recOf t 0x0012 0 (existing t p) (0x20 + l / 2) with detail := pack [(8, 4, l), (0, 3, linkCode .down)] } t) t

/-- A fast retrain fails, with the lanes that passed: the link has left ACTIVE and its marks are gone; DOWN after three, else another from LOCK (R378,
R390, R404). -/
def fastFailed (l pass : Nat) (s : State) : State :=
  let x := getLink s l
  let s := modLink l (fun y => { y with passing := BitVec.ofNat 8 pass }) s
  if 3 ≤ x.fastTries + 1 then goDown l s
  else
    checkReach (modLink l (fun y => { y with fast := true, fastTries := y.fastTries + 1, phase := .lock, phaseAt := s.now, marks := [] })
      (setLinkSt l .training s))

/-- An attempt fails: DOWN after three, else from DETECT again, a fast retrain from LOCK (R374, R378). -/
def attemptFailed (l : Nat) (s : State) : State :=
  let x := getLink s l
  if x.fast then fastFailed l 0 s else
  if 3 ≤ x.attempts + 1 then goDown l (modLink l (fun x => { x with attempts := x.attempts + 1 }) s)
  else modLink l (fun x => { x with attempts := x.attempts + 1, phase := .detect, phaseAt := s.now }) s

/-- RING_HELLO goes to each member not marked live that the link reaches (R182). -/
def sendHellos (l : Nat) (s : State) : State :=
  match ringOf s with
  | none => s
  | some r =>
    let x := getLink s l
    let reached (i : Nat) : Bool := i ≠ r.this && !memberLive s i && (x.peerKind = 2 || x.peerNode = memberNode s i)
    eachS ((List.range r.count).filter reached) (fun i s => sendOn l (helloPkt s r (memberNode s i) false) s) s

/-- The credit sizes of the ingress classes of a link: general and reserved slots, half of each on a link of four lanes (Table 12.7, R384). -/
def ingressSizes (s : State) (l : Nat) : List (Nat × Nat) :=
  let half : Bool := match portRec s l with | some r => decide (r.width ≠ 0) | none => false
  [(16384, 1024), (16384, 1024), (2048, 128), (8192, 512), (256, 16)].map fun z => if half then (z.1 / 2, z.2 / 2) else z

/-- What this device sends in EXCHANGE, with the lanes that pass at its end (R376). -/
def sendExchange (l lanes : Nat) (s : State) : State :=
  emit (.exchange l
    { lanes := BitVec.ofNat 8 lanes, node := BitVec.ofNat 16 (thisNode s), port := BitVec.ofNat 8 (l / 2), device := true,
      stepping := 0x00B0, compatA := s.power.compatA, credits := ingressSizes s l, inverted := 0, reversed := false, skew := 0 }) s

/-- The lane-to-lane skew, in symbols, that the receiver corrects (R370). -/
def skewLimit : Nat := 128

/-- What the peer sent in EXCHANGE, kept (R376, R405). -/
def keepPeer (x : Exchange) (y : Link) : Link :=
  { y with
    peerNode := x.node.toNat, peerPort := x.port.toNat, peerKind := if x.device then 1 else 2, peerStepping := x.stepping.toNat
    peerCompatA := x.compatA, trainings := satInc 16 y.trainings }

/-- EXCHANGE completes: what the peer sent is kept, the width chosen, and the link enters ACTIVE; an attempt without a lane, or
with a device of the same node, fails (R375, R376, R405). -/
def exchangeDone (l : Nat) (x : Exchange) (s : State) : State :=
  let lanes := x.lanes.toNat &&& linkLanes s l
  if lanes = 0 then attemptFailed l (modLink l (fun y => { y with passing := 0 }) s)
  else if x.device && x.node.toNat = thisNode s then attemptFailed l (linkEvent l s)
  else
    let act := chooseLanes lanes
    let s := modLink l (fun y =>
      { keepPeer x y with
        passing := BitVec.ofNat 8 lanes, usable := BitVec.ofNat 8 lanes, active := BitVec.ofNat 8 act
        lfsr := seeds act, tx := seeds act, attempts := 0, fastTries := 0
        txSeq := 0, rxNext := 0, rxAck := 0, acked := 0, unacked := [], tries := [], credits := x.credits, sizes := x.credits }) s
    pumpOutst (sendHellos l (setLinkSt l .active s))

/-- The lanes that a training may take: those of the link, in a fast retrain those that passed before it (R378). -/
def trainLanes (s : State) (l : Nat) : Nat := if (getLink s l).fast then (getLink s l).usable.toNat else linkLanes s l

/-- What a lock finds of polarity and lane order is kept (R370). -/
def keepLock (l : Nat) (x : Exchange) (s : State) : State := modLink l (fun y => { y with inverted := x.inverted, reversed := x.reversed }) s

/-- A lock: what it finds is kept, and the fields of EXCHANGE leave; a skew past the limit fails the attempt (R370, R376, Table 12.3, log 54). -/
def lockDone (l : Nat) (x : Exchange) (s : State) : State :=
  if skewLimit < x.skew then attemptFailed l s
  else sendExchange l (x.lanes.toNat &&& trainLanes s l)
    (modLink l (fun y => { y with phase := .exchange, phaseAt := s.now }) (keepLock l x s))

/-- The EXCHANGE of a fast retrain: ACTIVE on the lanes that pass at both ends, the retry buffer replayed at the new width (R376, R378); a link that had
left ACTIVE for it greets the members it reaches (R182). -/
def fastDone (l : Nat) (x : Exchange) (s : State) : State :=
  let was := (getLink s l).st
  let old := if was = .active then (getLink s l).active.toNat else (getLink s l).was.toNat
  let pass := x.lanes.toNat &&& (getLink s l).usable.toNat
  if pass = 0 then fastFailed l 0 s
  else if x.device && x.node.toNat = thisNode s then fastFailed l pass (linkEvent l s)
  else
    let act := chooseLanes pass
    let s := modLink l (fun y =>
      { keepPeer x y with
        passing := BitVec.ofNat 8 pass, usable := BitVec.ofNat 8 pass, active := BitVec.ofNat 8 act, lfsr := seeds act, tx := seeds act
        fast := false, fastTries := 0, badTimes := [], tries := y.tries.map fun _ => 0, discarding := false, nakOwed := false
        degrades := if popCount act 8 < popCount old 8 then satInc 8 y.degrades else y.degrades }) s
    let s := setLinkSt l .active s
    let s := eachS ((getLink s l).unacked.take retryFlits) (putFlit l) s
    let s := post { recOf s 0x0013 0 0xFF (0x20 + l / 2) with detail := old &&& (pass ^^^ 0xFF) } s
    let s := pumpCredits ((getLink s l).waiting.length + 1) l (whenS (decide (was ≠ .active)) (sendHellos l) s)
    pumpOutst s

/-- LINK_TRAINING_PHASE_DONE: the next phase of Table 12.3, and ACTIVE after EXCHANGE (R374). -/
def execLinkTrainingPhaseDone (l : Fin 16) (x : Exchange) (s : State) : Host.Outcome State Fault Refusal :=
  let y := getLink s l.val
  if y.st ≠ .training then .next s else
  let go (ph : Phase) (s : State) : State := modLink l.val (fun y => { y with phase := ph, phaseAt := s.now }) s
  .next (match y.phase with
    | .detect => go .equalise s
    | .equalise => go .lock s
    | .lock => lockDone l.val x s
    | .exchange => settle (if y.fast then fastDone l.val x s else exchangeDone l.val x s))

/-- The limit of a phase in METER cycles (Table 12.3). -/
def phaseLimit : Phase → Nat
  | .equalise => 400000
  | _ => 5000

/-- TRAINING_PHASE_TIMEOUT: a phase exceeds its limit (R374). -/
def execTrainingPhaseTimeout (l : Fin 16) (s : State) : Host.Outcome State Fault Refusal :=
  let y := getLink s l.val
  if y.st = .training && y.phaseAt + phaseLimit y.phase ≤ s.now then .next (settle (attemptFailed l.val s)) else .next s

/-- LINK_DOWN_RETRY: 50,000,000 METER cycles after entering DOWN a full training starts (R374). -/
def execLinkDownRetry (l : Fin 16) (s : State) : Host.Outcome State Fault Refusal :=
  let y := getLink s l.val
  if y.st = .down && y.downAt + 50000000 ≤ s.now then .next (startTraining l.val s) else .next s

/-! ### Flits (R377) -/

/-- Replays the retry buffer from its oldest flit (R377). -/
def replayLink (l : Nat) (s : State) : State :=
  let x := getLink s l
  if x.unacked.isEmpty then s else
  let s := eachS (x.unacked.take retryFlits) (putFlit l) s
  let again (t : List Nat) : List Nat := (t.take retryFlits).map (· + 1) ++ t.drop retryFlits
  modLink l (fun y => { y with replays := satInc 16 y.replays, tries := again y.tries, ackAt := s.now }) s

/-- Takes an ACK_SEQ: when it has advanced, the flits it covers leave the retry buffer, and flits beyond the buffer's size leave, then packets that
waited for room in it. The 0 that ACK_SEQ starts at covers no flit (R374, R377, log 23). -/
def takeAckSeq (l ack : Nat) (s : State) : State :=
  let x := getLink s l
  if ack = x.acked then s else
  match x.unacked.findIdx? fun f => f.1 = ack with
  | none => s
  | some i =>
    let s := modLink l (fun y => { y with unacked := y.unacked.drop (i + 1), tries := y.tries.drop (i + 1), acked := ack, ackAt := s.now }) s
    let s := eachS ((x.unacked.drop retryFlits).take (i + 1)) (putFlit l) s
    pumpCredits ((getLink s l).waiting.length + 1) l s

/-- The flits refused in the last 1 ms, this cycle among them (R378). -/
def badNow (s : State) (x : Link) : List Nat := (x.badTimes.filter fun t => s.now < t + 500000) ++ [s.now]

/-- A NAK is owed on the next flit; a flit of NULL slots carries it. Flits out of sequence that are discarded until the replay comes owe no other one
(R377). -/
def oweNak (l : Nat) (corrupt : Bool) (s : State) : State :=
  if (getLink s l).discarding && !corrupt then s else
  let s := modLink l (fun x => { x with nakOwed := true, discarding := true }) s
  sendFlit l (List.replicate 256 0) s

/-- The slots of a flit in order pass on: whole packets enter the ingress, one of an unknown TYPE or a wrong LEN is discarded with
a record (R380, R383, R541). -/
def takeSlots (l : Nat) (b : List Byte) (s : State) : State :=
  let x := getLink s l
  let r := readSlots (x.slots.length / 16 + 17) (x.slots ++ b)
  let s := modLink l (fun y => { y with slots := r.2.1, ingress := y.ingress ++ r.1 }) s
  eachS r.2.2 (fun h s => protocolEvent l h 0 s) s

/-- The bytes of the active lanes in their order, as the receiver corrects them: the order restored where it is reversed, and each inverted lane
turned over, which flips the first bit of each Gray pair (R370). -/
def correctLanes (x : Link) (lanes : List (List Byte)) : List (List Byte) :=
  let phys := setBits x.active.toNat 8
  let turned := List.zipWith (fun n b => if x.inverted.getLsbD n then b.map (· ^^^ 0xAA) else b) phys lanes
  if x.reversed then turned.reverse else turned

/-- A flit received: descrambled, decoded, acknowledged or NAKed, its slots passed on (R370 to R373, R377). -/
def takeFlit (l : Nat) (lanes : List (List Byte)) (s : State) : State :=
  let x := getLink s l
  let w := linkWidth s l
  if x.st ≠ .active || lanes.length ≠ w then s else
  let d := List.zipWith scramble x.lfsr (correctLanes x lanes)
  let s := modLink l (fun y => { y with lfsr := d.map Prod.snd }) s
  let (f, n) := readFlit (unstripe w (d.map Prod.fst))
  let s := modLink l (fun y => { y with corrected := satAdd 24 y.corrected n }) s
  match f with
  | none => oweNak l true (modLink l (fun y => { y with uncorrectable := satInc 16 y.uncorrectable, badTimes := badNow s y }) s)
  | some g =>
    let c := leAt g 0 4
    let s := takeAckSeq l (bits c 8 12) s
    let s := whenS (c.testBit 7) (replayLink l) s
    if bits c 20 12 ≠ (getLink s l).rxNext then oweNak l false s
    else
      let s := modLink l (fun y => { y with rxNext := (y.rxNext + 1) % 4096, rxAck := y.rxNext, discarding := false }) s
      if bits c 0 4 = 0 then takeSlots l ((g.drop 4).take 256) s else s

/-- LINK_FLIT (R377). -/
def execLinkFlit (l : Fin 16) (lanes : List (List Byte)) (s : State) : Host.Outcome State Fault Refusal :=
  .next (takeFlit l.val lanes s)

/-- LINK_ACK_TIMEOUT: no ACK_SEQ has advanced for 4,000 LINK cycles, which are 1,000 METER cycles (R377). -/
def execLinkAckTimeout (l : Fin 16) (s : State) : Host.Outcome State Fault Refusal :=
  let x := getLink s l.val
  if x.st = .active && !x.unacked.isEmpty && x.ackAt + 1000 ≤ s.now then .next (replayLink l.val s) else .next s

/-! ### Degradation (R378) -/

/-- A fast retrain: its LOCK, which a skew past the limit fails, and its EXCHANGE (R370, R378). -/
def fastRetrain (l : Nat) (x : Exchange) (s : State) : State :=
  if skewLimit < x.skew then fastFailed l 0 s
  else fastDone l x (sendExchange l (x.lanes.toNat &&& (getLink s l).usable.toNat) (keepLock l x s))

/-- LINK_FAST_RETRAIN: a flit replayed 8 times, or more than 16 flits refused within 1 ms, or an earlier fast retrain that failed;
`x` gives the lanes that now pass (R378). -/
def execLinkFastRetrain (l : Fin 16) (x : Exchange) (s : State) : Host.Outcome State Fault Refusal :=
  let y := getLink s l.val
  let cause := y.st = .active && (y.tries.any (8 ≤ ·) || 16 < (y.badTimes.filter fun t => s.now < t + 500000).length)
  if cause || (y.st = .training && y.fast) then .next (settle (fastRetrain l.val x s)) else .next s

/-- LANE_LOCK_LOST: a fast retrain without the lane (R378). -/
def execLaneLockLost (l : Fin 16) (lane : Fin 8) (x : Exchange) (s : State) : Host.Outcome State Fault Refusal :=
  let y := getLink s l.val
  if y.st = .active && y.active.getLsbD lane.val then
    .next (settle (fastRetrain l.val { x with lanes := BitVec.ofNat 8 (setBit x.lanes.toNat lane.val false) } s))
  else .next s

/-! ### Credits and grants (R385, R397) -/

/-- CREDIT_RETURN_TIMER: 512 LINK cycles, which are 128 METER cycles, after the first slot owed, on a link or a site (R385, R419). -/
def execCreditReturnTimer (port : Port) (s : State) : Host.Outcome State Fault Refusal :=
  match port with
  | .link l =>
    let x := getLink s l.val
    match x.owedAt with
    | some t => if x.st = .active && t + 128 ≤ s.now then .next (sendCredit l.val s) else .next s
    | none => .next s
  | .site k =>
    let x := getSite s k.val
    match x.owedAt with
    | some t => if x.st = .active && t + 128 ≤ s.now then .next (siteCredit k.val s) else .next s
    | none => .next s

/-- The reserved slots of a class on a link (Table 12.7). -/
def reservedSlots (s : State) (l c : Nat) : Nat := ((ingressSizes s l).getD c (0, 0)).2

/-- The slots of a class that grants and awaited resends hold on a link (R392, R397). -/
def grantedSlots (s : State) (l c : Nat) : Nat :=
  (((getPort s (l / 2)).bounce.filter fun b => b.link = l && b.granted.isSome && b.cls = c).map Bounce.len).foldl (· + ·) 0

/-- BOUNCE_GRANT: the head of a slice's list is granted when a Ticket and its slots are free (R397). -/
def execBounceGrant (pt : Fin 8) (slice : Fin 8) (s : State) : Host.Outcome State Fault Refusal :=
  let es := (getPort s pt.val).bounce
  match es.find? fun b => b.resend.isNone && b.wake.isNone && b.granted.isNone && b.slice = slice.val with
  | none => .next s
  | some b =>
    if sliceTickets s pt.val slice.val + sliceGrants s pt.val slice.val < 1024 && grantedSlots s b.link b.cls + b.len ≤ reservedSlots s b.link b.cls then
      let s := modPort pt.val (fun x => { x with bounce := x.bounce.map fun y => if y.id = b.id then { y with granted := some s.now } else y }) s
      .next (sendGrant 0x46 b.link b.node (BitVec.ofNat 32 b.tag) b.addr b.id s)
    else .next s

/-- GRANT_HOLD_EXPIRY: the resend did not arrive within 10,000 METER cycles of the grant (R397). -/
def execGrantHoldExpiry (pt : Fin 8) (grantId : BitVec 32) (s : State) : Host.Outcome State Fault Refusal :=
  match (getPort s pt.val).bounce.find? fun b => b.id = grantId.toNat with
  | some b =>
    match b.granted with
    | some t => if t + 10000 ≤ s.now then .next (dropBounce pt.val b.id s) else .next s
    | none => .next s
  | none => .next s

/-! ### Timeouts (R232, R399, R401) -/

/-- A request ends with TARGET_DEAD after its timeout: counted on its link, and posted once per target node and partition in each
FABRIC_TIMEOUT (R401). DESIGN CHOICE, log 59: the record is posted at the first end of its interval, and DETAIL counts that end and those of the interval
before it that no record told of (Table 14.5). -/
def targetDead (o : Outst) (s : State) : State :=
  let node := o.pkt.dstNode.toNat
  let s := modLink o.link (fun x => { x with timedOut := satInc 8 x.timedOut }) s
  let noted (d : DeadNote) : Bool := d.node = node && d.part = o.part && s.now < d.since + fabricTimeout s
  let s := match s.fab.dead.find? noted with
    | some d => modFab (fun x => { x with dead := x.dead.map fun y => if y = d then { y with count := y.count + 1 } else y }) s
    | none =>
      let untold := ((s.fab.dead.find? fun d => d.node = node && d.part = o.part).map fun d => d.count - 1).getD 0
      let s := modFab (fun x => { x with dead := (x.dead.filter fun y => !(y.node = node && y.part = o.part)) ++
        [{ node := node, part := o.part, since := s.now, count := 1 }] }) s
      let q := match o.origin with | .booth q _ _ => q | _ => 0xFFFF
      post { recOf s 0x0007 1 (existing s o.part) (0x20 + o.link / 2) with
             addr := o.pkt.addr, detail := untold + 1, node := node, status := 0x11, qp := q } s
  endWith o { status := .targetDead } false s

/-- An outstanding request by its tag. -/
def outstByTag (s : State) (tag : Nat) : Option Outst := s.fab.outst.find? fun o => o.tag = tag && o.sent

/-- FABRIC_TIMEOUT: a request other than a far atomic has no response, or every packet of a far atomic was bounced (R399, R401). -/
def execFabricTimeout (tag : BitVec 20) (s : State) : Host.Outcome State Fault Refusal :=
  match outstByTag s tag.toNat with
  | some o =>
    if o.lastAt + fabricTimeout s ≤ s.now && (o.pkt.ptype ≠ 0x08 || (o.grantId.isSome && o.unbounced.isEmpty)) then
      .next (settle (targetDead o s))
    else .next s
  | none => .next s

/-- MIRROR_TIMEOUT: a mirror packet unanswered for FABRIC_TIMEOUT (R159). -/
def execMirrorTimeout (tag : BitVec 20) (s : State) : Host.Outcome State Fault Refusal :=
  match s.integ.ops.find? fun o => o.tag = tag.toNat with
  | some o => if o.sent && o.sentAt + fabricTimeout s ≤ s.now then .next (settle (opFailed o false .targetDead s)) else .next s
  | none => .next s

/-- ATOMIC_RESEND_TIMER: a far atomic without reply leaves again with RESEND at 1/4, 2/4 and 3/4 of REPLAY_RETENTION, unless it
waits for a grant (R232, R399). -/
def execAtomicResendTimer (tag : BitVec 20) (s : State) : Host.Outcome State Fault Refusal :=
  match outstByTag s tag.toNat with
  | some o =>
    if o.pkt.ptype = 0x08 && o.grantId.isNone && !o.restart && o.resends < 3 && o.firstAt + (o.resends + 1) * retention s / 4 ≤ s.now then
      .next (sendAgain o (pktFlag o.pkt 2 true) (modOutst o.tag (fun x => { x with resends := x.resends + 1 }) s))
    else .next s
  | none => .next s

/-- ATOMIC_RETENTION_EXPIRY: a far atomic without reply by REPLAY_RETENTION ends with ATOMIC_UNKNOWN; one that waits for a grant,
at the later of the two cycles of R399 (R232). -/
def execAtomicRetentionExpiry (tag : BitVec 20) (s : State) : Host.Outcome State Fault Refusal :=
  match outstByTag s tag.toNat with
  | some o =>
    let due := match o.grantId, o.unbounced with
      | none, _ => if o.restart then none else some (o.firstAt + retention s)
      | some _, t :: _ => some (max (t + retention s) (o.lastAt + fabricTimeout s))
      | some _, [] => none
    match due with
    | some t => if o.pkt.ptype = 0x08 && t ≤ s.now then .next (settle (endWith o { status := .atomicUnknown } false s)) else .next s
    | none => .next s
  | none => .next s

/-- REPLAY_ENTRY_EXPIRY: an entry is no longer live (R230). -/
def execReplayEntryExpiry (node : BitVec 16) (tag : BitVec 20) (s : State) : Host.Outcome State Fault Refusal :=
  let dead (e : Replay) : Bool := e.node = node.toNat && e.tag = tag.toNat && !replayLive s s.now e
  .next (settle (modOrder (fun x => { x with replay := x.replay.filter fun e => !dead e }) s))

/-- TAG_REUSE_HOLD_EXPIRY: a held tag may be given again (R232, R379). -/
def execTagReuseHoldExpiry (tag : BitVec 20) (s : State) : Host.Outcome State Fault Refusal :=
  .next (modFab (fun x => { x with tagHolds := x.tagHolds.filter fun h => !(h.tag = tag.toNat && h.until_ ≤ s.now) }) s)

end Sys2Proof.Machine
end

