-- ==== Sys2Proof/Machine/Carousel.lean ====
section
/-! DEFINITION. What the stacks return, and the home's own timers (04, 05, 06). -/

namespace Sys2Proof.Machine

/-! ### Raw reads (R106, R113, R114, R124, R127, R128) -/

/-- Granule i of a raw block: its 32 bytes and its check-bit lanes. -/
def granule (r : RawLine) (i : Nat) : BitVec 256 × BitVec 32 := r.granules.getD i (0, 0)

/-- The element format that decodes a line's block: the one under which the block in the store was encoded, since a change of TIER moves no data
(R122), else that of its page. The descriptor names none (log 49). -/
def blockFormat (s : State) (l : Nat) : Option Elem :=
  if blockCompressed s l then elemOf (getLine s (blockOfLine l)).fmt else elemOf (attrOf s l).tier

/-- Whether the lanes that a read of a line meets first show a compressed block (R128). -/
def rawCompressed (s : State) (l : Nat) (r : RawLine) : Bool :=
  lanesCompressed (granule r (if (elemOf (attrOf s l).tier).isSome then 0 else 2 * (l % 4))).2

/-- The metadata words and lines of a compressed block as read, or a decode failure: a reserved bit that is not 0 in the lanes of an even granule of
the image is one (R114, R127). -/
def rawBlock (s : State) (l : Nat) (r : RawLine) : Option (List Word × List LineData) :=
  let lanes := (granule r (if (elemOf (attrOf s l).tier).isSome then 0 else 2 * (l % 4))).2
  if lanes ≠ blockDescriptor (descriptorK lanes) then none else
  let k := descriptorK lanes
  if !((List.range (ceilDiv k 2)).all fun i => descriptorOk (granule r (2 * i)).2) then none else
  let im := (List.range k).flatMap fun i => leBytes 32 (granule r i).1.toNat
  let im := match storeKey s l with
    | some key => im.take 32 ++ xtsDecrypt key (checkAddr s (blockOfLine l) ||| 1) (im.drop 32)
    | none => im
  match blockFormat s l with
  | some f => decodeBlock f k im
  | none => none

/-- The metadata word and the data of a line as read (R106, R114). -/
def rawPlain (s : State) (l : Nat) (r : RawLine) : Word × LineData :=
  let a := granule r (2 * (l % 4))
  let b := granule r (2 * (l % 4) + 1)
  let d := leBytes 32 a.1.toNat ++ leBytes 32 b.1.toNat
  (BitVec.ofNat 64 (a.2.toNat + (b.2.toNat <<< 32)),
   lineOf (match storeKey s l with | some k => xtsDecrypt k (checkAddr s l) d | none => d))

/-- The metadata word and the data of a line of a raw block, or a decode failure. -/
def rawLine (s : State) (l : Nat) (r : RawLine) : Option (Word × LineData) :=
  if rawCompressed s l r then
    (rawBlock s l r).map fun (ws, ds) => (ws.getD (l % 4) 0, ds.getD (l % 4) 0)
  else some (rawPlain s l r)

/-- POISON of a metadata word. -/
def wordPoison (w : Word) : Bool := w.getLsbD 7

/-- CHECK of a metadata word. -/
def wordCheck (w : Word) : BitVec 32 := BitVec.ofNat 32 (bits w.toNat 32 32)

/-- Whether a line as read is not to be compared or passes its check (R147). -/
def rawOk (s : State) (l : Nat) (x : Word × LineData) : Bool :=
  wordPoison x.1 || decide (lineCheck (checkAddr s l) x.2 = wordCheck x.1)

/-- A request whose read of a line the stack answered goes on: a load ends, a narrow write is merged (R116, R154). -/
def readGave (r : Req) (l : Nat) (c : Status) (w : Word) (d : LineData) (s : State) : State :=
  if isNarrow r.pkt then
    under r.epoch (perform { r with retried := true, got := [if wordPoison w then (l, .poisoned, allOnes) else (l, c, d)] }) s
  else if wordPoison w then finish r { status := .poisoned, data := [allOnes] } s
  else finish r { status := c, data := [hotView s l d] } s

/-- The lines that a read or its retry held are free again, but for those that another read holds (R148). -/
def freeRead (x : StackRead) (s : State) : State :=
  let mine (n : Nat) : Bool := n = x.line ||
    ((Tab.find s.mem.holds n = some .stackRead || Tab.find s.mem.holds n = some .retry) && !s.mem.reads.any fun y => y.line = n)
  eachS (blockLines x.line) (fun n s => if mine n then freeLine n s else s) (modMem (fun m => { m with reads := m.reads.erase x }) s)

/-- The end of a read that the stack answered. -/
def endRead (x : StackRead) (c : Status) (w : Word) (d : LineData) (s : State) : State :=
  match x.req with
  | some r => readGave r x.line c w d (freeRead x s)
  | none => freeRead x s

/-- The lines that a retry holds: all lines of a block that stands compressed (R148, R150). -/
def holdRetry (l : Nat) (s : State) : State :=
  eachS (readTogether s l) (fun n s => if n = l || !lineHeld s n then holdLine n .retry s else s) s

/-- The checks over what a read brought, for each line of a compressed block; 0 where it does not decode, and then no plaintext exists (R152, log 51). -/
def checksRead (s : State) (l : Nat) (raw : RawLine) : List (Nat × BitVec 32) :=
  if rawCompressed s l raw then
    match rawBlock s l raw with
    | some (_, ds) => (blockLines l).map fun n => (n, lineCheck (checkAddr s n) (ds.getD (n % 4) 0))
    | none => (blockLines l).map fun n => (n, 0)
  else [(l, lineCheck (checkAddr s l) (rawPlain s l raw).2)]

/-- The check found first of a line of a read. -/
def foundFirst (x : StackRead) (n : Nat) : BitVec 32 := (((x.found.getD []).find? fun e => e.1 = n).map Prod.snd).getD 0

/-- What a read from the stack comes to stands under the maps of its request's epoch (R54). -/
def underRead (x : StackRead) (f : State → State) (s : State) : State :=
  match x.req with
  | some r => under r.epoch f s
  | none => f s

/-- The stack returned a line: it is decrypted, decoded and compared; a mismatch starts the single retry (R113, R147). -/
def readReturn (x : StackRead) (raw : RawLine) (s : State) : State :=
  let l := x.line
  let retry (s : State) : State :=
    holdRetry l (modMem (fun m => { m with reads := m.reads.map fun y => if y = x then { y with found := some (checksRead s l raw) } else y }) s)
  match rawLine s l raw with
  | some (w, d) => if rawOk s l (w, d) then endRead x .ok w d s else retry s
  | none => retry s

/-- CAROUSEL_READ_RETURN (R113, R147). -/
def execCarouselReadReturn (line : BitVec 36) (raw : RawLine) (s : State) : Host.Outcome State Fault Refusal :=
  match s.mem.reads.find? fun x => x.line = line.toNat && x.found.isNone with
  | none => .next s
  | some x => .next (settle (underRead x (readReturn x raw) s))

/-- The request of a read whose mismatch persists: it ends poisoned, or waits for the repair (R147, R148). -/
def lastingRead (x : StackRead) (s : State) : State :=
  match x.req with
  | some r =>
    if lineHeld s x.line then resume { r with retried := true } s
    else if isNarrow r.pkt then under r.epoch (perform { r with retried := true }) s
    else finish r { status := .poisoned, data := [allOnes] } s
  | none => s

/-- The lines of a compressed block after its retry: good ones are transient, the others lasting; the block is then stored plain
when one is lasting (R150). -/
def settleBlock (x : StackRead) (v : Option (List Word × List LineData)) (s : State) : State :=
  let ls := blockLines x.line
  let good (l : Nat) : Bool := match v with
    | some (ws, ds) => rawOk s l (ws.getD (l % 4) 0, ds.getD (l % 4) 0)
    | none => false
  let poisoned (l : Nat) : Bool := match v with
    | some (ws, _) => wordPoison (ws.getD (l % 4) 0)
    | none => false
  let s := freeRead x s
  let s := if ls.all good then s else plainBlock x.line s
  let s := eachS ls (fun l s =>
    if poisoned l then s else if good l then lineTransient l (foundFirst x l) s else settleLasting l (foundFirst x l) s) s
  if good x.line then
    match v, x.req with
    | some (ws, ds), some r => readGave r x.line .okRetried (ws.getD (x.line % 4) 0) (ds.getD (x.line % 4) 0) s
    | _, _ => s
  else lastingRead x s

/-- The single retry decides between transient and lasting (R147 to R150). -/
def retryReturn (x : StackRead) (raw : RawLine) (s : State) : State :=
  let l := x.line
  if rawCompressed s l raw then settleBlock x (rawBlock s l raw) s
  else
    let (w, d) := rawPlain s l raw
    if rawOk s l (w, d) then endRead x .okRetried w d (lineTransient l (foundFirst x l) s)
    else lastingRead x (settleLasting l (foundFirst x l) (freeRead x s))

/-- LINE_RETRY_READ_RETURN (R147 to R150). -/
def execLineRetryReadReturn (line : BitVec 36) (raw : RawLine) (s : State) : Host.Outcome State Fault Refusal :=
  match s.mem.reads.find? fun x => x.line = line.toNat && x.found.isSome with
  | none => .next s
  | some x => .next (settle (underRead x (retryReturn x raw) s))

/-- INSPECT_READ_DONE: the metadata word and the bytes of the home copy; with no raw block, those of the store. DESIGN CHOICE, log 58: a copy whose
block does not decode is one that cannot be read (R178). -/
def execInspectReadDone (raw : Option RawLine) (s : State) : Host.Outcome State Fault Refusal :=
  let l := s.integ.inspLine
  if !s.integ.inspBusy || s.integ.inspPartner || Tab.find s.mem.holds l ≠ some .inspect then .next s else
  let copy := match raw with
    | none => (viewLine s l (getLine s l)).map fun d => (metaWord s l (getLine s l), d)
    | some r => rawLine s l r
  .next (settle (match copy with
    | some (w, d) => inspectEnd 1 (modInteg (fun x => { x with inspMeta := w, inspData := d }) s)
    | none => inspectEnd 2 s))

/-- CHANNEL_TRAINING_DONE: the channels of a stack that the device can use (R105, R133). -/
def execChannelTrainingDone (k : Fin 20) (up : BitVec 32) (s : State) : Host.Outcome State Fault Refusal :=
  if s.power.phase = .clocked then .next (modStack k.val (fun x => { x with trained := true, up := up }) s) else .next s

/-! ### Timers of the home (R195, R198, R200, R202) -/

/-- The agents a silent transaction declares lost: those whose probes have stood for HOME_TIMEOUT, every agent of a member that
sent nothing, and the requester whose COMPLETE is owed (R198). -/
def silentAgents (s : State) (t : Txn) : List Nat :=
  let late (at_ : Nat) : Bool := at_ + homeTimeout s ≤ s.now
  let ps := t.probes.filter fun p => late p.sentAt
  let fromProbe (p : Probe) : List Nat :=
    if p.member ≠ thisIndex s && !p.answered && t.owner.isNone then (List.range 4).map (4 * p.member + ·) else p.agents
  let req := match t.granted, t.agent with
    | some g, some a => if late g then [a] else []
    | _, _ => []
  (ps.flatMap fromProbe ++ req).eraseDups

/-- HOME_TIMEOUT: a probe or a grant unanswered in time makes the silent agents lost (R198). -/
def execHomeTimeout (slice : Fin 8) (idx : Fin 1024) (s : State) : Host.Outcome State Fault Refusal :=
  match s.home.txns.find? fun t => t.slice = slice.val && t.idx = idx.val with
  | none => .next s
  | some t =>
    let zs := silentAgents s t
    if zs.isEmpty then .next s else
    let s := modHome (fun h => { h with timeouts := satInc 16 h.timeouts }) s
    let lost := zs.filter (agentLostBit s)
    let s := eachS zs (fun z s => declareLost z (0x38 + slice.val) s) s
    .next (settle (eachS lost dropFromTxns s))

/-- AGENT_SWEEP_DONE: every line left owned by the agent is poisoned, and its sweep ends (R200). -/
def execAgentSweepDone (a : Fin 32) (s : State) : Host.Outcome State Fault Refusal :=
  if s.home.sweeps.any fun w => w.agent = a.val then
    let owned := (s.mem.lines.filter fun (l, v) => dirOf v.dir = .o a.val && (findTxn s l).isNone).map Prod.fst
    let s := eachS owned (fun l s => match dirState s l with
      | .o z => whenS (z = a.val) (ownerLost l) s
      | _ => s) s
    .next (settle (modHome (fun h => { h with sweeps := h.sweeps.filter fun w => w.agent ≠ a.val }) s))
  else .next s

/-- WAITER_RESERVATION_EXPIRY: the next waiter takes the reservation, or the line is free (R195). -/
def execWaiterReservationExpiry (line : BitVec 36) (s : State) : Host.Outcome State Fault Refusal :=
  match s.home.reserves.find? fun x => x.line = line.toNat with
  | none => .next s
  | some x =>
    if s.now < x.until_ then .next s else
    let others := s.home.reserves.filter fun y => y ≠ x
    .next (settle (modHome (fun h =>
      { h with reserves := match x.rest with
        | [] => others
        | w :: ws => others ++ [{ line := x.line, waiter := w, until_ := s.now + 256, rest := ws }] }) s))

/-- HOT_LINE_FLUSH: 256 HOME cycles, which are 64 METER cycles, after the first unflushed store (R202). -/
def execHotLineFlush (line : BitVec 36) (s : State) : Host.Outcome State Fault Refusal :=
  match (findHot s line.toNat).bind Hot.firstAt with
  | some t => if t + 64 ≤ s.now then .next (settle (hotFlush line.toNat s)) else .next s
  | none => .next s

/-- HOT_LINE_CLOSE: 2,000 HOME cycles, which are 500 METER cycles, without a store (R202). -/
def execHotLineClose (line : BitVec 36) (s : State) : Host.Outcome State Fault Refusal :=
  match findHot s line.toNat with
  | some h => if h.lastAt + 500 ≤ s.now then .next (settle (hotClose line.toNat s)) else .next s
  | none => .next s

end Sys2Proof.Machine
end

