-- ==== Sys2Proof/Machine/Xlat.lean ====
section
/-! DEFINITION. Booth translation (03): the translation buffers, the pinned table, misses and the page servers' messages. -/

namespace Sys2Proof.Machine

/-- The bytes of a page of a SIZE (R80). -/
def pageBytes (size : Nat) : Nat := if size = 0 then 2 ^ 29 else 2 ^ 34

/-- Whether a page covers a virtual address. -/
def pageCovers (virt size va : Nat) : Bool := virt ≤ va && va < virt + pageBytes size

/-- Whether two spans of virtual address overlap. -/
def spanMeets (a n b m : Nat) : Bool := a < b + m && b < a + n

/-- The entries of a Booth's translation buffer. -/
def tlbOf (s : State) (b : Nat) : List TlbEnt := Tab.get [] s.xlat.tlb b

/-- Updates a Booth's translation buffer. -/
def modTlb (b : Nat) (f : List TlbEnt → List TlbEnt) (s : State) : State :=
  modXlat (fun x => { x with tlb := Tab.insert x.tlb b (f (Tab.get [] x.tlb b)) }) s

/-- The entry that a lookup under an epoch hits (R92). -/
def tlbFind (s : State) (b epoch va : Nat) : Option TlbEnt :=
  (tlbOf s b).find? fun e => e.epoch = epoch && pageCovers e.virt e.size va

/-- The window with BOOTH_USE that holds a whole page (R93). -/
def pageWindow (m : Maps) (part global size : Nat) : Option (Nat × BitVec 128) :=
  let fits (k : Nat) : Option (Nat × BitVec 128) :=
    match findWin m part k global (pageBytes size) with
    | some (i, e) => if winBooth e then some (i, e) else none
    | none => none
  match fits 1 with
  | some x => some x
  | none => fits 2

/-- Installs a page entry: overlapping entries of the epoch leave, a full buffer gives up its least recently used; none when the
page lies in no window (R92, R93). -/
def install (b epoch part virt global size : Nat) (rd wr : Bool) (s : State) : Option State :=
  match pageWindow (mapsAt s epoch) part global size with
  | none => none
  | some (i, e) =>
    let ent : TlbEnt := { epoch := epoch, window := i, virt := virt, global := global, size := size, read := rd && winRead e,
                          write := wr && winWrite e, atomic := rd && wr && winAtomic e && winRead e && winWrite e,
                          used := s.xlat.stamp }
    let keep (l : List TlbEnt) : List TlbEnt :=
      let l := l.filter fun x => !(x.epoch = epoch && spanMeets x.virt (pageBytes x.size) virt (pageBytes size))
      if l.length < 256 then l else
      match l.foldl (fun (m : Option TlbEnt) x => match m with | some y => if x.used < y.used then some x else m | none => some x) none with
      | some v => l.erase v
      | none => l
    some (modXlat (fun x => { x with stamp := x.stamp + 1 }) (modTlb b (fun l => keep l ++ [ent]) s))

/-- What a lookup comes to: a global address with its window, a fault, or a miss that waits. -/
inductive Look where
  | hit (addr window : Nat)
  | fault (c : Status)
  | miss
deriving DecidableEq, Repr

/-- The pinned record of a partition that covers an address: the first of them in the order of the map, where records overlap (R94, log 55). -/
def pinFind (m : Maps) (part va : Nat) : Option PinRec :=
  m.pins.find? fun r => r.part = part && pageCovers r.virtBase r.size va

/-- The permissions an access of a command asks of an entry (R93). -/
def entPermits (e : TlbEnt) (rd wr at_ : Bool) : Bool := (!rd || e.read) && (!wr || e.write) && (!at_ || (e.read && e.write && e.atomic))

/-- The miss message of Table 3.7. -/
def missMsg (s : State) (m : Miss) : Packet :=
  { ptype := 0x72, len := 4,
    body := [0x40, BitVec.ofNat 8 m.booth, BitVec.ofNat 8 m.part, BitVec.ofNat 8 m.access, BitVec.ofNat 8 m.slot, BitVec.ofNat 8 m.epoch] ++
      leBytes 2 (jobKeyOf (mapsAt s m.epoch) m.part) ++ leBytes 8 m.va ++ leBytes 2 m.qp ++ leBytes 14 0 }

/-- The page-server site of a partition, when its record names one (R94). -/
def pageServer (m : Maps) (part : Nat) : Option Nat :=
  match Tab.find m.parts part with
  | some r => if r.pageServer < 4 then some r.pageServer else none
  | none => none

/-- A miss joins one of its span, takes a slot and sends its message, or waits for a slot (R95, R96). -/
def sendMiss (c : Cmd) (va access : Nat) (site : Nat) (s : State) : State :=
  let same (m : Miss) : Bool := m.booth = c.booth && m.epoch = c.epoch && m.va / 2 ^ 29 = va / 2 ^ 29
  let me := (c.qp, c.count, va)
  if s.xlat.misses.any same then
    modXlat (fun x => { x with misses := x.misses.map fun m => if same m && !m.waiters.contains me then { m with waiters := m.waiters ++ [me] } else m }) s
  else
    let used := (s.xlat.misses.filter fun m => m.booth = c.booth).map Miss.slot
    match (List.range 16).find? fun i => !used.contains i with
    | none => s
    | some i =>
      let m : Miss := { booth := c.booth, slot := i, epoch := c.epoch, part := c.part, va := va, access := access, qp := c.qp,
                        waiters := [me], reissue := false, site := site, sentAt := s.now }
      toSite site (missMsg s m) (modXlat (fun x => { x with misses := x.misses ++ [m] }) s)

/-- A Booth access that fails check 6 or 7 of Table 3.5 is posted and charged (R87). -/
def boothCheck (c : Cmd) (addr order : Nat) (st : Status) (s : State) : State :=
  checkFailed { origin := .booth c.qp c.count 0, pkt := { ptype := 0x01, addr := BitVec.ofNat 64 addr }, part := c.part,
                epoch := c.epoch, time := s.now } order st s

/-- An access through an entry that holds it: permitted, or PROTECTION, a check 7 failure when the window's own bits refuse (R87,
R93). -/
def useEntry (c : Cmd) (e : TlbEnt) (va : Nat) (rd wr at_ : Bool) (s : State) : Look × State :=
  let g := e.global + (va - e.virt)
  if entPermits e rd wr at_ then (.hit g e.window, s) else
  match Tab.find (mapsAt s c.epoch).wins e.window with
  | some w =>
    if winPermits w.entry (rd || at_) (wr || at_) at_ then (.fault .protection, s)
    else (.fault .protection, boothCheck c g 7 .protection s)
  | none => (.fault .protection, s)

/-- The translation of an access of a command: its buffer, the pinned table, then the page server (R92 to R95). An address that a command
reaches past bit 51 is not wrapped: no page covers it, and its miss names it as it is (log 55). -/
def translate (c : Cmd) (va : Nat) (rd wr at_ : Bool) (s : State) : Look × State :=
  match tlbFind s c.booth c.epoch va with
  | some e =>
    let s := modXlat (fun x => { x with stamp := x.stamp + 1 })
      (modTlb c.booth (fun l => l.map fun y => if y = e then { y with used := s.xlat.stamp } else y) s)
    useEntry c e va rd wr at_ s
  | none =>
    let m := mapsAt s c.epoch
    match pinFind m c.part va with
    | some r =>
      match install c.booth c.epoch c.part r.virtBase r.globalBase r.size (r.perm.testBit 0) (r.perm.testBit 1) s with
      | some s =>
        match tlbFind s c.booth c.epoch va with
        | some e => useEntry c e va rd wr at_ s
        | none => (.fault .xlatFault, s)
      | none => (.fault .xlatFault, boothCheck c (r.globalBase + (va - r.virtBase)) 6 .xlatFault s)
    | none =>
      match pageServer m c.part with
      | none => (.fault .xlatFault, s)
      | some k =>
        if (getSite s k).st ≠ .active then (.fault .xlatFault, s)
        else (.miss, sendMiss c va (bit (rd || at_) + 2 * bit (wr || at_)) k s)

/-! ### Replies (R97, R99, R100) -/

/-- Removes a miss: its slot is free. -/
def dropMiss (m : Miss) (s : State) : State :=
  modXlat (fun x => { x with misses := x.misses.filter fun y => !(y.booth = m.booth && y.slot = m.slot) }) s

/-- The commands that wait for a miss end with a fault at the address of each; a destination that one of them was to poison has no
translation (R97, R261, R340). -/
def failMiss (m : Miss) (c : Status) (s : State) : State :=
  let ws := m.waiters.filter fun w => (findCmd s w.1 w.2.1).isSome
  let clear (s : State) : State := eachS ws (fun w s => modCmd w.1 w.2.1 (fun d => { d with owes := d.owes.filter (· ≠ w.2.2) }) s) s
  faultCmds ws c (clear (dropMiss m s))

/-- A miss leaves again from its slot (R99). -/
def reissueMiss (m : Miss) (site : Nat) (s : State) : State :=
  let n : Miss := { m with reissue := false, site := site, sentAt := s.now }
  toSite site (missMsg s n) (modXlat (fun x => { x with misses := x.misses.map fun y => if y = m then n else y }) s)

/-- An XLAT_REPLY_BAD record that names the site (Table 3.8, Table 14.5). -/
def replyBad (k : Nat) (b : List Byte) (status : Nat) (s : State) : State :=
  post { recOf s 0x0006 1 (partNo (sitePart s.rig.cur k)) (0x30 + k) with
         detail := pack [(8, 8, leAt b 1 1), (0, 8, leAt b 2 1)], status := status } s

/-- Whether a reply is malformed in form (the MALFORMED row of Table 3.8). -/
def replyMalformed (b : List Byte) : Bool :=
  let e := leAt b 8 16
  2 < leAt b 3 1 || !zeroAt b 4 4 || !zeroAt b 24 8 || bits e 116 12 ≠ 0 || bits e 58 35 ≠ 0 || bits e 6 23 ≠ 0 || bits e 3 2 ≠ 0 ||
  (leAt b 3 1 ≠ 0 && e ≠ 0)

/-- Whether any command of a miss has not ended: a command that ends leaves the miss (R100). -/
def missRuns (s : State) (m : Miss) : Bool := m.waiters.any fun w => (findCmd s w.1 w.2.1).isSome

/-- A page server's reply that meets its miss (Table 3.8). A page in no window with BOOTH_USE ends the accesses that joined the miss with the one
that caused it (R93, log 55). DESIGN CHOICE, log 55: a miss that is marked for reissue is sent again even where all of its commands have ended: R99 sends
it again from its slot, and R100 has the reply free the slot. -/
def resolveMiss (k : Nat) (m : Miss) (b : List Byte) (s : State) : State :=
  let e := leAt b 8 16
  let virt := bits e 93 23 <<< 29
  let glob := bits e 29 29 <<< 29
  let size := bits e 5 1
  if m.reissue then reissueMiss m k s
  else if replyMalformed b then failMiss m .malformed (replyBad k b 0x1F s)
  else if leAt b 3 1 = 1 then failMiss m .xlatFault s
  else if leAt b 3 1 = 2 then failMiss m .protection s
  else if e % 2 = 0 || virt % pageBytes size ≠ 0 || glob % pageBytes size ≠ 0 || !pageCovers virt size m.va then
    failMiss m .xlatFault (replyBad k b 0x1A s)
  else if !missRuns s m then dropMiss m s
  else match install m.booth m.epoch m.part virt glob size (e.testBit 1) (e.testBit 2) s with
    | some s => dropMiss m s
    | none =>
      let s := match m.waiters.head?.bind fun w => findCmd s w.1 w.2.1 with
        | some c => boothCheck c (glob + (m.va - virt)) 6 .xlatFault s
        | none => s
      failMiss m .xlatFault s

/-- XLAT_REPLY (R97). One from a site that was not asked matches no miss (R100, log 55). -/
def execXlatReply (k : Fin 4) (p : Packet) (s : State) : Host.Outcome State Fault Refusal :=
  .next (settle (siteMessage k.val { p with ptype := 0x72 } (fun p s =>
    let b := p.body
    match s.xlat.misses.find? fun m => m.booth = leAt b 1 1 && m.slot = leAt b 2 1 && m.site = k.val with
    | some m => resolveMiss k.val m b s
    | none => replyBad k.val b 0 s) s))

/-- XLAT_MISS_TIMEOUT: no reply within FABRIC_TIMEOUT (R97). -/
def execXlatMissTimeout (b : Fin 40) (slot : Fin 16) (s : State) : Host.Outcome State Fault Refusal :=
  match s.xlat.misses.find? fun m => m.booth = b.val && m.slot = slot.val with
  | some m => if m.sentAt + fabricTimeout s ≤ s.now then .next (settle (failMiss m .timeout s)) else .next s
  | none => .next s

/-! ### Invalidates (R98, R99) -/

/-- Whether an invalidate is malformed (R98). -/
def invalMalformed (b : List Byte) : Bool :=
  let v := leAt b 8 8
  1 < leAt b 3 1 || !zeroAt b 5 3 || !zeroAt b 16 16 ||
  (leAt b 3 1 = 0 && (1 < leAt b 4 1 || v % pageBytes (leAt b 4 1) ≠ 0 || 2 ^ 52 ≤ v))

/-- An accepted invalidate: entries leave every Booth of the partition, misses are marked, and the accesses through the removed
entries are noted (R98, R99). -/
def invalidate (k part : Nat) (b : List Byte) (s : State) : State :=
  let all := leAt b 3 1 = 1
  let v := leAt b 8 8
  let n := pageBytes (leAt b 4 1)
  let hitsEnt (e : TlbEnt) : Bool := all || spanMeets e.virt (pageBytes e.size) v n
  let hitsMiss (m : Miss) : Bool := m.part = part && (all || spanMeets (m.va / 2 ^ 29 * 2 ^ 29) (2 ^ 29) v n)
  let bs := (List.range 40).filter fun x => match Tab.find s.rig.cur.booths x with | some r => r.part = part | none => false
  let through (c : Cmd) (a : Access) : Bool := (tlbOf s c.booth).any fun e =>
    hitsEnt e && e.epoch = c.epoch && pageCovers e.virt e.size a.va && e.global + (a.va - e.virt) = a.addr
  let waits := (s.cmds.filter fun c => bs.contains c.booth).flatMap fun c => (c.access.filter (through c)).map fun a => (c.qp, c.count, a.id)
  let s := eachS bs (fun x s => modTlb x (fun l => l.filter fun e => !hitsEnt e) s) s
  modXlat (fun x =>
    { x with
      misses := x.misses.map fun m => if hitsMiss m then { m with reissue := true } else m
      invals := x.invals ++ [{ site := k, id := leAt b 2 1, part := part, waits := waits }] }) s

/-- XLAT_INVALIDATE (R98). -/
def execXlatInvalidate (k : Fin 4) (p : Packet) (s : State) : Host.Outcome State Fault Refusal :=
  .next (siteMessage k.val { p with ptype := 0x72 } (fun p s =>
    let b := p.body
    let part := leAt b 1 1
    if pageServer s.rig.cur part ≠ some k.val then
      post { recOf s 0x0001 1 (partNo (sitePart s.rig.cur k.val)) (0x30 + k.val) with detail := leAt b 0 4 } s
    else if invalMalformed b then siteProtocol k.val 0x72 s
    else invalidate k.val part b s) s)

/-- Whether an access of an invalidate has ended. -/
def accessEnded (s : State) (w : Nat × Nat × Nat) : Bool :=
  match findCmd s w.1 w.2.1 with
  | some c => !(c.access.any fun a => a.id = w.2.2)
  | none => true

/-- XLAT_ACKNOWLEDGE: once the accesses through the removed entries have completed (R98). -/
def execXlatAcknowledge (k : Fin 4) (invalId : BitVec 8) (s : State) : Host.Outcome State Fault Refusal :=
  match s.xlat.invals.find? fun i => i.site = k.val && i.id = invalId.toNat with
  | some i =>
    if i.waits.all (accessEnded s) then
      let s := modXlat (fun x => { x with invals := x.invals.erase i }) s
      .next (toSite k.val { ptype := 0x72, len := 4, body := [0x43, BitVec.ofNat 8 i.part, BitVec.ofNat 8 i.id] ++ leBytes 29 0 } s)
    else .next s
  | none => .next s

end Sys2Proof.Machine
end

