-- ==== Sys2Proof/Machine/Writers.lean ====
section
/-! DEFINITION. Who writes a register: the partition a writer acts for, its privilege, and a write that is refused (R9, R249,
R505). -/

namespace Sys2Proof.Machine

/-- The partition a writer acts for (R505): none for the Ringmaster. -/
def writerPart (s : State) : Writer → Option Nat
  | .ringmaster => none
  | .site k => sitePart s.rig.cur k.val
  | .fabric _ _ p => some p.val

/-- Whether a writer is the Ringmaster, or acts for a partition with MGMT_PRIV. -/
def writerPriv (s : State) (w : Writer) : Bool :=
  match w, writerPart s w with
  | .ringmaster, _ => true
  | _, some p => mgmtPrivOf s.rig.cur p
  | _, none => false

/-- Whether a writer acts for a partition, or has MGMT_PRIV. -/
def writerMay (s : State) (w : Writer) (part : Nat) : Bool := writerPriv s w || writerPart s w = some part

/-- Whether a write reaches its block: from the Ringmaster; from a site that is ACTIVE and enabled with a running partition; from a
link that is ACTIVE for a running partition (R423, Table 3.5). -/
def writerLive (s : State) (w : Writer) : Bool :=
  let runs (p : Nat) : Bool := decide ((getPart s p).st = .running)
  match w with
  | .ringmaster => true
  | .site k => decide ((getSite s k.val).st = .active) && (match sitePart s.rig.cur k.val with | some p => runs p | none => false)
  | .fabric l _ p => linkUp s l.val && runs p.val

/-- The partition a record about a writer goes to. -/
def writerNo (s : State) (w : Writer) : Nat := match writerPart s w with | some p => existing s p | none => 0xFF

/-- A register write's outcome: the status a fabric writer receives (R505), and the state. -/
abbrev Wrote := Status × State

/-- A refused write: nothing changes, and an access-violation event is recorded (R9). -/
def denyWrite (w : Writer) (addr v : Nat) (c : Status) (s : State) : Wrote := (c, accessViolation w (writerNo s w) addr v s)

/-- A write acted on. -/
def wrote (s : State) : Wrote := (.ok, s)

/-- The meaning of a register command: the write at its block, when the writer's access reaches it. -/
def writeCmd (w : Writer) (f : State → Wrote) (s : State) : Host.Outcome State Fault Refusal :=
  if writerLive s w then .next (settle (f s).2) else .next s

end Sys2Proof.Machine
end

