-- ==== Sys2Proof/Machine/Booth.lean ====
section
/-! DEFINITION. The Booths' command engine (08, 11): a command is a program over its accesses. The program runs again from its
start whenever the command advances: an access that has ended gives its answer from `Cmd.fetched`, one that has not is waited
for, a new one is translated and issued. The numbers of the accesses are those of the order in which the program reaches
them. -/

namespace Sys2Proof.Machine

/-- Where a program stops short of its end: it waits, or its command ends with a fault at a virtual address. -/
inductive Halt where
  | wait
  | fault (c : Status) (va : Word)
deriving DecidableEq, Repr

/-- What a program runs in: the device, its command, and the number of its next access. -/
structure Ctx where
  s : State
  q : Nat
  n : Nat
  next : Nat

/-- A program of a command. -/
abbrev Prog := ExceptT Halt (StateM Ctx)

/-- The command of a program. -/
def theCmd : Prog Cmd := do
  let x ← get
  return (findCmd x.s x.q x.n).getD default

/-- The state of the device. -/
def theState : Prog State := do return (← get).s

/-- Changes the device. -/
def change (f : State → State) : Prog Unit := modify fun x => { x with s := f x.s }

/-- An access that another unit makes for the command was performed: EFFECT is 1 (Table 8.2). -/
def tookEffect : Prog Unit := do
  let c ← theCmd
  change (modCmd c.qp c.count fun c => { c with effect := true })

/-- The next access number. -/
def takeId : Prog Nat := modifyGet fun x => (x.next, { x with next := x.next + 1 })

/-- The program waits. -/
def waitHere {α : Type} : Prog α := throw .wait

/-- The address of a fault that arose at no access: all ones (Table 8.2). -/
def noAddr : Word := BitVec.allOnes 64

/-- The command ends with a status at an address. -/
def failAt {α : Type} (c : Status) (va : Nat) : Prog α := throw (.fault c (BitVec.ofNat 64 va))

/-- The command ends with a status at no access. -/
def failNow {α : Type} (c : Status) : Prog α := throw (.fault c noAddr)

/-- Goes on only when a condition of the command's encoding holds: otherwise MALFORMED (R12, R242). -/
def demand (b : Bool) : Prog Unit := if b then pure () else failNow .malformed

/-- The bytes of the entry. -/
def entryBytes : Prog (List Byte) := do return cmdBytes (← theCmd)

/-- The field of `n` bytes at an offset of the entry. -/
def operand (o n : Nat) : Prog Nat := do return leAt (← entryBytes) o n

/-- Keeps what a command observed under an access number. -/
def keepSeen (q n id : Nat) (d : LineData) (s : State) : State :=
  modCmd q n (fun c => { c with fetched := c.fetched ++ [{ id := id, data := d, status := .ok }] }) s

/-- A step that is made once: what it yields is kept, and a later run of the program takes it from there. -/
def once (f : Cmd → State → LineData × State) : Prog LineData := do
  let id ← takeId
  let c ← theCmd
  match answersOf c id with
  | a :: _ => return a.data
  | [] =>
    let x ← get
    let r := f c x.s
    set { x with s := keepSeen x.q x.n id r.1 r.2 }
    return r.1

/-- A change of the device that is made once. -/
def onceDo (f : Cmd → State → State) : Prog Unit := do
  let _ ← once fun c s => (0, f c s)

/-- A number observed once. -/
def onceNat (f : Cmd → State → Nat) : Prog Nat := do
  return (← once fun c s => (BitVec.ofNat 512 (f c s), s)).toNat

/-- A value that no rule states: a RESULT or a DETAIL that a chapter leaves open (Table 8.2, log 5). -/
def freeWord : Prog Word := do
  return (← once fun _ s => ((drawFree s).1.setWidth 512, (drawFree s).2)).setWidth 64

/-! ### Accesses (R93, R206, R212, R213) -/

/-- The line of a Booth's read buffer at an address. -/
def boothBufHit (s : State) (b a : Nat) : Option LineData :=
  if s.order.boothBuf then ((Tab.get [] s.order.boothBufs b).find? fun x => x.addr / 64 = a / 64).map BufLine.data else none

/-- A line leaves a Booth's read buffer before its own write issues, and a read of it under way does not bring it back (R213). -/
def boothForget (b a : Nat) (s : State) : State :=
  let keep (x : Access) : Access := { x with fill := x.fill && decide (x.addr / 64 ≠ a / 64) }
  let s := modCmds (fun l => l.map fun c => if c.booth = b then { c with access := c.access.map keep } else c) s
  modOrder (fun x => { x with boothBufs := Tab.insert x.boothBufs b (dropLine a (Tab.get [] x.boothBufs b)) }) s

/-- A buffered line becomes the most recently used. -/
def boothTouch (b a : Nat) (d : LineData) (s : State) : State :=
  let e : BufLine := { addr := a / 64 * 64, data := d, used := s.order.stamp }
  modOrder (fun x => { x with boothBufs := Tab.insert x.boothBufs b (dropLine a (Tab.get [] x.boothBufs b) ++ [e]) }) s

/-- A translated access of a command issues: from the buffer, at its home here, or to another node (R93, R212, R214), its events timed as its command's
(R32). A write that is refused before it issues leaves the buffer as it is (R213). -/
def issueAccess (c : Cmd) (id va g win : Nat) (p : Packet) (buffered : Bool) (share dst : Option Nat) (s : State) : State :=
  let p := { p with addr := BitVec.ofNat 64 g }
  let r : Req := { origin := .booth c.qp c.count id, pkt := p, part := c.part, epoch := c.epoch, time := c.time }
  let isRead := isReadType p.ptype.toNat
  let add (s : State) : State := modCmd c.qp c.count (fun c =>
    { c with access := c.access ++ [{ id := id, remote := decide (nodeOf g ≠ thisNode s), write := isWriteType p.ptype.toNat, addr := g, va := va,
                                      fill := buffered && s.order.boothBuf, share := share, dst := dst }] }) s
  match if buffered && isRead then boothBufHit s c.booth g else none with
  | some d => boothAnswer c.qp c.count id { status := .ok, data := [d] } (boothTouch c.booth g d s)
  | none =>
    let s := add s
    let forget (s : State) : State := whenS (!isRead) (boothForget c.booth g) s
    if nodeOf g = thisNode s then
      if counterOk s r then handOver serve r (forget s) else refuse r .protection (checkFailed r 8 .protection s)
    else
      match Tab.find (mapsAt s c.epoch).wins win with
      | some w =>
        let leaves : Bool := (outLink s r.epoch r.part (remotePkt s r w.entry (freshTag s))).isSome
        handOver (fun r s => sendRemote r win w.entry s) r (whenS leaves forget s)
      | none => refuse r .xlatFault s

/-- The kinds of window an access may go through. -/
inductive Via where
  | any | localWin | remoteWin
deriving DecidableEq, Repr

/-- Whether a window's kind is the one asked for. -/
def Via.admits (v : Via) (home : Bool) : Bool :=
  match v with
  | .any => true
  | .localWin => home
  | .remoteWin => !home

/-- The access of a number at a virtual address: its answers when it has ended, none while it has not. -/
def accessAs (id va : Nat) (rd wr at_ : Bool) (via : Via) (buffered : Bool) (share dst : Option Nat) (p : Packet) : Prog (List Fetched) := do
  let c ← theCmd
  match answersOf c id with
  | a :: l => return a :: l
  | [] =>
    if c.access.any fun x => x.id = id then return [] else
    let x ← get
    let t := translate c va rd wr at_ x.s
    set { x with s := t.2 }
    match t.1 with
    | .miss => waitHere
    | .fault st => failAt st va
    | .hit g w =>
      if !via.admits (nodeOf g = thisNode t.2) then failAt .protection va else
      change (issueAccess c id va g w p buffered share dst)
      return answersOf (← theCmd) id

/-- An access of a command at a virtual address: its answers when it has ended, none while it has not. -/
def access (va : Nat) (rd wr at_ : Bool) (via : Via) (buffered : Bool) (p : Packet) : Prog (List Fetched) := do
  accessAs (← takeId) va rd wr at_ via buffered none none p

/-- The answer of a read, none while it has not returned. -/
def tryRead (va : Nat) (buffered : Bool) : Prog (Option Fetched) := do
  return (← access (va / 64 * 64) true false false .any buffered { ptype := 0x01 }).head?

/-- Reads a line outside the read buffer; a status that is not OK ends the command (R338, R340). -/
def readLine (va : Nat) : Prog LineData := do
  match ← tryRead va false with
  | none => waitHere
  | some a => if statusGood a.status then return a.data else failAt a.status va

/-- Reads a line through the Booth's read buffer. -/
def readBuffered (va : Nat) : Prog LineData := do
  match ← tryRead va true with
  | none => waitHere
  | some a => if statusGood a.status then return a.data else failAt a.status va

/-- Reads an aligned burst of 256 bytes outside the read buffer (R273). -/
def readBurst (va : Nat) : Prog (List LineData) := do
  match ← access va true false false .any false { ptype := 0x02 } with
  | [] => waitHere
  | a :: l => if statusGood a.status then return (a :: l).map Fetched.data else failAt a.status va

/-- The program goes on to its last access: the command has then issued all its accesses (step 3 of R261). -/
def lastAccess : Prog Unit := do
  let c ← theCmd
  change (modCmd c.qp c.count fun c => { c with issued := true })

/-- Writes a line, whole or under a mask, naming a counter or none, and gives the number of the access; the program goes on while the write is
under way. -/
def writeAs (via : Via) (va : Nat) (d : LineData) (mask : Option Word) (ctr : Option Nat) : Prog Nat := do
  let id ← takeId
  let p : Packet :=
    { ptype := if mask.isSome then 0x05 else 0x04, data := [d], mask := mask.getD 0,
      flags := BitVec.ofNat 8 (8 * bit ctr.isSome), counter := BitVec.ofNat 16 (ctr.getD 0) }
  match ← accessAs id (va / 64 * 64) false true false via false none none p with
  | a :: _ => if statusGood a.status then return id else failAt a.status va
  | [] => return id

/-- Writes a line. -/
def writeVia (via : Via) (va : Nat) (d : LineData) (mask : Option Word) (ctr : Option Nat) : Prog Unit := do
  let _ ← writeAs via va d mask ctr

/-- Writes a whole line. -/
def writeTo (va : Nat) (d : LineData) (ctr : Option Nat) : Prog Unit := writeVia .any va d none ctr

/-- Waits until every access of the command has ended. -/
def drain : Prog Unit := do
  if (← theCmd).access.isEmpty then pure () else waitHere

/-- Whether no bit of [63:52] of a virtual address is set (R90). -/
def vaOk (va : Nat) : Bool := decide (va < 2 ^ 52)

/-- Whether an address operand is aligned and within the address space. -/
def vaAlign (va n : Nat) : Bool := vaOk va && va % n = 0

/-- The bytes from an address, read line by line in order (R337). -/
def bytesBy (read : Nat → Prog LineData) (va n : Nat) : Prog (List Byte) := do
  let first := va / 64
  let count := if n = 0 then 0 else (va + n - 1) / 64 - first + 1
  let ls ← (List.range count).mapM fun i => read (64 * (first + i))
  return ((ls.flatMap lineBytes).drop (va % 64)).take n

/-- The bytes from an address, read outside the read buffer. -/
def readBytes (va n : Nat) : Prog (List Byte) := bytesBy readLine va n

/-- The bytes from an address, read through the read buffer (R212). -/
def readHeld (va n : Nat) : Prog (List Byte) := bytesBy readBuffered va n

/-! ### The Booth store (R268 to R270, R318) -/

/-- The stream area of a Booth store in bytes (Table 9.1). -/
def streamArea : Nat := 5 * 2 ^ 20

/-- Whether a running ATTN_DECODE or SEARCH has still to be given its part of the stream area, or to find that it needs none. -/
def wantsStream (d : Cmd) : Bool := d.begun && !d.granted && !d.stop && d.done.isNone && (cmdOp d = 0x08 || cmdOp d = 0x10)

/-- Whether a Booth grants a command `n` bytes of its stream area: they are free, and no command that began before it has still to be given its
own (R270, R318). -/
def streamFree (s : State) (c : Cmd) (n : Nat) : Bool :=
  let mine := s.cmds.filter fun d => d.booth = c.booth && !(d.qp = c.qp && d.count = c.count)
  n = 0 || decide ((mine.map Cmd.stream).sum + n ≤ streamArea) && !mine.any fun d => wantsStream d && d.beganAs < c.beganAs

/-- The command waits for `n` bytes of the stream area, once; with none needed, those that began after it no longer wait for it. -/
def holdStream (n : Nat) : Prog Unit := do
  let id ← takeId
  let c ← theCmd
  if (answersOf c id).isEmpty then
    if streamFree (← theState) c n then
      change fun s => keepSeen c.qp c.count id 0 (modCmd c.qp c.count (fun c => { c with stream := n, granted := true }) s)
    else waitHere

/-- The command gives its stream area back. -/
def freeStream : Prog Unit := onceDo fun c s => modCmd c.qp c.count (fun c => { c with stream := 0 }) s

/-- The contexts of a Booth whose block pair waits for the array. -/
def readyContexts (s : State) (b : Nat) : List Nat :=
  (s.cmds.filter fun c => c.booth = b && c.ready && !c.stop).filterMap Cmd.context

/-- The context that the array serves next: round robin over the context numbers (R270). -/
def nextContext (s : State) (b : Nat) : Option Nat :=
  let ks := readyContexts s b
  let least (l : List Nat) : Option Nat := (sortBy (fun a b => a < b) l).head?
  (least (ks.filter fun k => (getBooth s b).arrayAt < k)).orElse fun _ => least ks

/-- Whether no other command of its Booth streams blocks beside a command. -/
def streamsAlone (s : State) (c : Cmd) : Bool :=
  !s.cmds.any fun d => d.booth = c.booth && (d.qp, d.count) ≠ (c.qp, c.count) && cmdOp d = 0x08 && d.stream ≠ 0 && !d.stop

/-- The array serves one block pair of the command, when its turn has come: at once where no other command of the Booth streams, else at a later
row of its own, the pair standing ready for its turn until then (R270, log 25). -/
def useArray : Prog Unit := do
  let id ← takeId
  let c ← theCmd
  if (answersOf c id).isEmpty then
    let s ← theState
    if !c.ready then
      change (modCmd c.qp c.count fun c => { c with ready := true })
      if !streamsAlone s c then waitHere
    let s ← theState
    if c.context.isSome && nextContext s c.booth ≠ c.context then waitHere
    change fun s => keepSeen c.qp c.count id 0 (modBooth c.booth (fun b => { b with arrayAt := c.context.getD b.arrayAt })
      (modCmd c.qp c.count (fun c => { c with ready := false }) s))

/-! ### Range commands (R336 to R341) -/

/-- Whether a LENGTH is a multiple of 64 up to a limit (R336). -/
def lengthOk (n limit : Nat) : Bool := 64 ≤ n && n % 64 = 0 && decide (n ≤ limit)

/-- The limit of a range: 64 GiB (R336). -/
def rangeLimit : Nat := 2 ^ 36

/-- Whether two virtual ranges overlap. -/
def rangesMeet (a b n : Nat) : Bool := spanMeets a n b n

/-- COUNTER when COUNT_OUT is 1; otherwise it must be 0 (Table 11.1). -/
def counterOf (on : Bool) (n : Nat) : Prog (Option Nat) := do
  demand (if on then decide (n < 2048) else n = 0)
  return if on then some n else none

/-- The destinations that a command owes the poison of a source that died, each when its translation comes: a line on this node is poisoned; one
with no translation, or on another node, is left as it is (R340). -/
def payPoison (q n : Nat) (s : State) : State :=
  match findCmd s q n with
  | none => s
  | some c =>
    eachS c.owes (fun va s =>
      let paid (s : State) : State := modCmd q n (fun c => { c with owes := c.owes.filter (· ≠ va) }) s
      match translate c va false true false s with
      | (.hit g _, s) =>
        let l := lineNo (offOf g)
        if lineHeld s l then s else paid (whenS (decide (nodeOf g = thisNode s)) (poisonLine l 4) s)
      | (.miss, s) => s
      | (.fault _, s) => paid s) s

/-- Reads a source line on which a destination line depends; should the source have died, the command owes the destination its poison (R340). -/
def readSource (va dst : Nat) : Prog LineData := do
  match ← accessAs (← takeId) (va / 64 * 64) true false false .any false none (some (dst / 64 * 64)) { ptype := 0x01 } with
  | [] => waitHere
  | a :: _ => if statusGood a.status then return a.data else failAt a.status va

/-- The check address of a line at a global address: of another node's line its own address (R144, R167). -/
def checkAddrAt (s : State) (g : Nat) : Word :=
  if nodeOf g = thisNode s then checkAddr s (lineNo (offOf g)) else BitVec.ofNat 64 (g / 64 * 64)

/-- The check of a destination line whose bytes come from one source line, made twice before its write issues: when the two results differ
twice, the line is not written and the command ends with STATE_LOST. Where the two check addresses are equal, the check is carried as it is
(R339). -/
def checkTwice (src dst : Nat) : Prog Unit := do
  let id ← takeId
  let c ← theCmd
  let x ← get
  let issued : Bool := (c.access.any fun a => a.id = id + 1) || !(answersOf c (id + 1)).isEmpty
  if x.s.upsets.isEmpty || issued || !(answersOf c id).isEmpty then pure () else
  let from_ := translate c (src / 64 * 64) true false false x.s
  let dest := translate c (dst / 64 * 64) false true false from_.2
  change fun s => (translate c (dst / 64 * 64) false true false (translate c (src / 64 * 64) true false false s).2).2
  match from_.1, dest.1 with
  | .miss, _ | _, .miss => waitHere
  | .hit g _, .hit h _ =>
    if checkAddrAt dest.2 g = checkAddrAt dest.2 h then pure () else
    let struck := strikesMerge (lineNo (offOf h))
    change fun s => keepSeen c.qp c.count id 0 (strike struck s).2
    match (strike struck dest.2).1 with
    | some (.merge _ true) => failAt .stateLost dst
    | _ => pure ()
  | _, _ => pure ()

/-- Copies `n` lines in ascending order (R337, R339, R343). -/
def copyLines (src dst n : Nat) (ctr : Option Nat) : Prog Unit :=
  (List.range n).forM fun j => do
    let d ← readSource (src + 64 * j) (dst + 64 * j)
    checkTwice (src + 64 * j) (dst + 64 * j)
    writeTo (dst + 64 * j) d ctr

/-- A program that ends with OK, its RESULT as two words, and DETAIL. -/
def okWith (lo hi detail : Nat) : Done :=
  { status := .ok, result := BitVec.ofNat 128 (pack [(0, 64, lo), (64, 64, hi)]), detail := BitVec.ofNat 32 detail }

/-- NOP (R254). -/
def nopProg : Prog Done := do
  demand (zeroAt (← entryBytes) 0x10 48)
  return { status := .ok, result := 0, detail := (← freeWord).setWidth 32 }

/-- The line a FILL writes: PATTERN 8 times (Table 11.1). -/
def patternLine (v : Nat) : LineData := BitVec.ofNat 512 ((List.range 8).foldl (fun a i => a ||| (v <<< (64 * i))) 0)

/-- FILL (R336, R337, R342, R343). -/
def fillProg : Prog Done := do
  let b ← entryBytes
  let dst := leAt b 0x10 8
  let len := leAt b 0x18 8
  demand (leAt b 0x28 1 ≤ 1 && zeroAt b 0x29 1 && zeroAt b 0x2C 20)
  let ctr ← counterOf (leAt b 0x28 1 = 1) (leAt b 0x2A 2)
  demand (vaAlign dst 64 && lengthOk len rangeLimit)
  (List.range (len / 64)).forM fun j => writeTo (dst + 64 * j) (patternLine (leAt b 0x20 8)) ctr
  return okWith (len / 64) 0 0

/-- COPY (R336, R337, R343). -/
def copyProg : Prog Done := do
  let b ← entryBytes
  let src := leAt b 0x10 8
  let dst := leAt b 0x18 8
  let len := leAt b 0x20 8
  demand (leAt b 0x28 1 ≤ 1 && zeroAt b 0x29 1 && zeroAt b 0x2C 20)
  let ctr ← counterOf (leAt b 0x28 1 = 1) (leAt b 0x2A 2)
  demand (vaAlign src 64 && vaAlign dst 64 && lengthOk len rangeLimit && !rangesMeet src dst len)
  copyLines src dst (len / 64) ctr
  return okWith (len / 64) 0 0

/-- The first byte at which two lines differ. -/
def firstDiff (a b : LineData) : Option Nat := (List.range 64).find? fun i => lineField a i 1 ≠ lineField b i 1

/-- Reads a line outside the read buffer, the last access of its command. -/
def readLast (va : Nat) : Prog LineData := do
  let r ← tryRead va false
  lastAccess
  match r with
  | none => waitHere
  | some a => if statusGood a.status then return a.data else failAt a.status va

/-- The lines of a COMPARE in order: the first difference, the lines that differ and the lines compared (R344). -/
def compareLines (a b : Nat) (stop : Bool) : List Nat → Option Nat × Nat × Nat → Prog (Option Nat × Nat × Nat)
  | [], r => pure r
  | j :: t, (first, diffs, n) => do
    let x ← readLine (a + 64 * j)
    let y ← if t.isEmpty then readLast (b + 64 * j) else readLine (b + 64 * j)
    match firstDiff x y with
    | none => compareLines a b stop t (first, diffs, n + 1)
    | some i =>
      let r := (some (first.getD (64 * j + i)), diffs + 1, n + 1)
      if stop then return r else compareLines a b stop t r

/-- COMPARE (R336, R344). -/
def compareProg : Prog Done := do
  let b ← entryBytes
  let va := leAt b 0x10 8
  let vb := leAt b 0x18 8
  let len := leAt b 0x20 8
  demand (leAt b 0x28 1 ≤ 1 && zeroAt b 0x29 23)
  demand (vaAlign va 64 && vaAlign vb 64 && lengthOk len rangeLimit)
  let r ← compareLines va vb (leAt b 0x28 1 = 1) (List.range (len / 64)) (none, 0, 0)
  return okWith (r.1.getD (2 ^ 64 - 1)) r.2.1 r.2.2

/-! ### FENCE, COUNTER_WAIT and ATOMIC (07) -/

/-- Whether an access of a command still holds a FENCE: a remote write without REMOTE does until it has left (R222, R223). -/
def holdsFence (s : State) (remote : Bool) (c : Cmd) (x : Access) : Bool :=
  if x.remote && x.write && !remote then
    s.fab.outst.any fun o => o.origin = .booth c.qp c.count x.id && !o.sent
  else true

/-- FENCE (R222 to R224). -/
def fenceProg : Prog Done := do
  let b ← entryBytes
  demand (leAt b 0x10 1 ≤ 1 && zeroAt b 0x11 47)
  let c ← theCmd
  let s ← theState
  let earlier := (qpCmds s c.qp).filter fun d => d.order < c.order
  if earlier.any fun d => (!d.begun && !d.aborted) || (d.begun && !isBarrier d && d.done.isNone && d.fault.isNone && !d.aborted) ||
      d.access.any (holdsFence s (leAt b 0x10 1 = 1) d) then waitHere
  else return { status := .ok, result := 0, detail := (← freeWord).setWidth 32 }

/-- A wait is entered in the list and the counters are settled (R219). -/
def enterWait (w : CtrWait) (s : State) : State :=
  settleCtr (modOrder (fun x => { x with waits := x.waits ++ [w] }) s)

/-- COUNTER_WAIT (R218 to R220): it ends when its wait is satisfied. -/
def counterWaitProg : Prog Done := do
  let b ← entryBytes
  let n := leAt b 0x10 2
  demand (n < 2048 && leAt b 0x12 1 ≤ 1 && zeroAt b 0x13 5 && zeroAt b 0x24 28)
  let c ← theCmd
  let s ← theState
  if ctrOwner (mapsAt s c.epoch) n ≠ some c.part then failNow .protection
  let w : CtrWait := { qp := some (c.qp, c.count), site := 0, tag := 0, counter := n, target := BitVec.ofNat 64 (leAt b 0x18 8),
                       consume := leAt b 0x12 1 = 1, time := c.time, limit := leAt b 0x20 4 }
  if s.order.waits.any fun w => w.qp = some (c.qp, c.count) then waitHere
  change (enterWait w)
  waitHere

/-- ATOMIC (R227, R228). -/
def atomicProg : Prog Done := do
  let b ← entryBytes
  let va := leAt b 0x10 8
  let op := leAt b 0x18 1
  let size := leAt b 0x19 1
  let a := leAt b 0x20 16
  let v := leAt b 0x30 16
  demand (op ≤ 9 && size ≤ 2 && zeroAt b 0x1A 6)
  demand (vaAlign va (4 <<< size) && decide (a < 2 ^ (8 * (4 <<< size))) && decide (v < 2 ^ (8 * (4 <<< size))) && (op = 9 || v = 0))
  let p : Packet := { ptype := 0x08, code := BitVec.ofNat 8 (pack [(0, 4, op), (4, 2, size)]), opA := BitVec.ofNat 128 a,
                      opB := BitVec.ofNat 128 v }
  let rs ← access va true true true .any false p
  lastAccess
  match rs with
  | [] => waitHere
  | r :: _ =>
    if statusGood r.status then
      return { status := r.status, result := r.data.setWidth 128, detail := (← freeWord).setWidth 32 }
    else failAt r.status va

end Sys2Proof.Machine
end

