-- ==== Sys2Proof/Machine/Float.lean ====
section
/-! DEFINITION. The arithmetic of the Booths (09, 10, 11): IEEE 754 values, each operation computed exactly and rounded once
to nearest even, the formats of Tables 9.2 and 10.4, the fixed tree sum, the exponent unit, and quantise-on-write. -/

namespace Sys2Proof.Machine

/-- A number as an encoding names it: a NaN, an infinity, or a signed m × 2^e. -/
inductive Fp where
  | nan
  | inf (neg : Bool)
  | fin (neg : Bool) (m : Nat) (e : Int)
deriving DecidableEq, Repr, Inhabited

/-- A binary format: the widths of its exponent and its mantissa. -/
structure Fmt where
  ebits : Nat
  mbits : Nat
deriving DecidableEq, Repr

/-- binary32. -/
def fp32 : Fmt := { ebits := 8, mbits := 23 }
/-- BF16. -/
def bf16 : Fmt := { ebits := 8, mbits := 7 }
/-- binary16. -/
def fp16 : Fmt := { ebits := 5, mbits := 10 }
/-- FP8 E5M2. -/
def e5m2 : Fmt := { ebits := 5, mbits := 2 }
/-- FP8 E4M3, whose top exponent holds finite values (Table 9.2). -/
def e4m3 : Fmt := { ebits := 4, mbits := 3 }
/-- E2M1, whose values are all finite (Table 9.2). -/
def e2m1 : Fmt := { ebits := 2, mbits := 1 }

/-- The bias of a format's exponent. -/
def Fmt.bias (f : Fmt) : Nat := 2 ^ (f.ebits - 1) - 1

/-- The exponent of the least subnormal of a format. -/
def Fmt.least (f : Fmt) : Int := 1 - (f.bias : Int) - f.mbits

/-- The sign bit's place in a format. -/
def Fmt.sign (f : Fmt) : Nat := f.ebits + f.mbits

/-- The magnitude code of infinity. -/
def Fmt.infCode (f : Fmt) : Nat := (2 ^ f.ebits - 1) <<< f.mbits

/-- The finite value of a magnitude code. -/
def Fmt.magnitude (f : Fmt) (neg : Bool) (c : Nat) : Fp :=
  let x := c >>> f.mbits
  if x = 0 then .fin neg c f.least else .fin neg (c % 2 ^ f.mbits + 2 ^ f.mbits) (f.least + x - 1)

/-- Decodes an IEEE format. -/
def Fmt.decode (f : Fmt) (v : Nat) : Fp :=
  let c := v % 2 ^ f.sign
  if c = f.infCode then .inf (v.testBit f.sign) else if f.infCode < c then .nan
  else f.magnitude (v.testBit f.sign) c

/-- The magnitude code of m × 2^e, rounded to nearest even, its exponent unbounded above. -/
def Fmt.round (f : Fmt) (m : Nat) (e : Int) : Nat :=
  if m = 0 then 0 else
  let q : Int := max (e + m.log2 - f.mbits) f.least
  let r : Nat :=
    if q ≤ e then m <<< (e - q).toNat
    else
      let k := (q - e).toNat
      let r := m >>> k
      let rest := m % 2 ^ k
      let half := 2 ^ (k - 1)
      if half < rest || (rest = half && r % 2 = 1) then r + 1 else r
  (q - f.least).toNat * 2 ^ f.mbits + r

/-- The canonical NaN of an IEEE format: sign 0, the top mantissa bit set (R272, Table 11.3). -/
def Fmt.nanCode (f : Fmt) : Nat := f.infCode + 2 ^ (f.mbits - 1)

/-- Encodes in an IEEE format, rounded to nearest even; a result too large becomes infinity. -/
def Fmt.encode (f : Fmt) : Fp → Nat
  | .nan => f.nanCode
  | .inf neg => f.infCode + (bit neg <<< f.sign)
  | .fin neg m e => min (f.round m e) f.infCode + (bit neg <<< f.sign)

/-! ### binary32 operations, each rounded once (R272) -/

/-- A binary32 value: its encoding. -/
abbrev F32 := Nat

/-- The value of a binary32 encoding. -/
def val (a : F32) : Fp := fp32.decode a

/-- Rounds a value to binary32. -/
def toF32 (v : Fp) : F32 := fp32.encode v

/-- The exact sum of two finite values, as a signed integer and an exponent. -/
def sumParts (n1 : Bool) (m1 : Nat) (e1 : Int) (n2 : Bool) (m2 : Nat) (e2 : Int) : Int × Int :=
  let e := min e1 e2
  let a : Int := (m1 <<< (e1 - e).toNat : Nat)
  let b : Int := (m2 <<< (e2 - e).toNat : Nat)
  ((if n1 then -a else a) + (if n2 then -b else b), e)

/-- The exact sum of two values; a zero sum is -0 only for two values with sign set. -/
def addV : Fp → Fp → Fp
  | .nan, _ => .nan
  | _, .nan => .nan
  | .inf a, .inf b => if a = b then .inf a else .nan
  | .inf a, _ => .inf a
  | _, .inf b => .inf b
  | .fin n1 m1 e1, .fin n2 m2 e2 =>
    match sumParts n1 m1 e1 n2 m2 e2 with
    | (t, e) => if t = 0 then .fin (n1 && n2) 0 0 else .fin (t < 0) t.natAbs e

/-- The exact product of two values. -/
def mulV : Fp → Fp → Fp
  | .nan, _ => .nan
  | _, .nan => .nan
  | .inf a, .inf b => .inf (a != b)
  | .inf a, .fin n m _ => if m = 0 then .nan else .inf (a != n)
  | .fin n m _, .inf b => if m = 0 then .nan else .inf (n != b)
  | .fin n1 m1 e1, .fin n2 m2 e2 => .fin (n1 != n2) (m1 * m2) (e1 + e2)

/-- A quotient of two values to 80 bits, with a last bit that says whether it is exact. -/
def divV : Fp → Fp → Fp
  | .nan, _ => .nan
  | _, .nan => .nan
  | .inf _, .inf _ => .nan
  | .inf a, .fin n _ _ => .inf (a != n)
  | .fin n _ _, .inf b => .fin (n != b) 0 0
  | .fin n1 m1 e1, .fin n2 m2 e2 =>
    if m2 = 0 then (if m1 = 0 then .nan else .inf (n1 != n2)) else
    let k := 80 + m2.log2
    let q := (m1 <<< k) / m2
    .fin (n1 != n2) (2 * q + (if (m1 <<< k) % m2 = 0 then 0 else 1)) (e1 - e2 - k - 1)

/-- The rounded sum. -/
def fadd (a b : F32) : F32 := toF32 (addV (val a) (val b))
/-- The value with its sign bit changed. -/
def fneg (a : F32) : F32 := a ^^^ 0x80000000
/-- The rounded difference. -/
def fsub (a b : F32) : F32 := fadd a (fneg b)
/-- The rounded product. -/
def fmul (a b : F32) : F32 := toF32 (mulV (val a) (val b))
/-- The rounded quotient. -/
def fdiv (a b : F32) : F32 := toF32 (divV (val a) (val b))
/-- The rounded a × b + c. -/
def ffma (a b c : F32) : F32 := toF32 (addV (mulV (val a) (val b)) (val c))

/-- The integer square root, by bits from the top. -/
def isqrt : Nat → Nat → Nat → Nat
  | 0, r, _ => r
  | k + 1, r, n => let t := r + 2 ^ k; if t * t ≤ n then isqrt k t n else isqrt k r n

/-- The rounded square root; NaN below zero (R310). -/
def fsqrt (a : F32) : F32 :=
  match val a with
  | .nan => fp32.nanCode
  | .inf n => if n then fp32.nanCode else a
  | .fin n m e =>
    if m = 0 then a else if n then fp32.nanCode else
    let k : Nat := if e % 2 = 0 then 80 else 81
    let w := m <<< k
    let r := isqrt 64 0 w
    toF32 (.fin false (2 * r + (if r * r = w then 0 else 1)) ((e - k) / 2 - 1))

/-- Whether a value is a NaN. -/
def isNan (a : F32) : Bool := val a = .nan

/-- Whether a value is a NaN or infinite. -/
def notFinite (a : F32) : Bool := match val a with | .fin _ _ _ => false | _ => true

/-- The order of finite and infinite values: less. -/
def ltV : Fp → Fp → Bool
  | .inf a, .inf b => a && !b
  | .inf a, .fin _ _ _ => a
  | .fin _ _ _, .inf b => !b
  | .fin n1 m1 e1, .fin n2 m2 e2 => (sumParts n1 m1 e1 (!n2) m2 e2).1 < 0
  | _, _ => false

/-- Whether a value is less than another; false with a NaN. -/
def flt (a b : F32) : Bool := ltV (val a) (val b)

/-- The maximum of IEEE 754, NaN when either operand is one, +0 above -0 (09 "Arithmetic", R272). -/
def fmax (a b : F32) : F32 :=
  if isNan a || isNan b then fp32.nanCode
  else if flt a b then b else if flt b a then a else if a.testBit 31 then b else a

/-- -∞. -/
def negInf : F32 := 0xFF800000

/-- Adds neighbours of a list of even length. -/
def addPairs : List F32 → List F32
  | a :: b :: t => fadd a b :: addPairs t
  | l => l

/-- The rounds of the tree, with fuel. -/
def treeRounds : Nat → List F32 → F32
  | 0, l => l.headD 0
  | n + 1, l => match l with | [] => 0 | [x] => x | l => treeRounds n (addPairs l)

/-- tree of R283: padded with +0 to the next power of two, then added in pairs. -/
def tree (l : List F32) : F32 :=
  let n := if l.length ≤ 1 then 1 else 2 ^ ((l.length - 1).log2 + 1)
  treeRounds 13 (l ++ List.replicate (n - l.length) 0)

/-- The value rounded to BF16 and back (R287). -/
def roundBf16 (a : F32) : F32 := bf16.encode (val a) <<< 16

/-- exp2 of R286, for arguments that are not positive: n is the integer below x, f the exact rest. -/
def exp2 (x : F32) : F32 :=
  match val x with
  | .nan => fp32.nanCode
  | .inf n => if n then 0 else 0x7F800000
  | .fin neg m e =>
    if flt x 0xC2FC0000 then 0 else
    let t : Int := if neg then -(m : Int) else m
    let n : Int := if 0 ≤ e then t * 2 ^ e.toNat else t / 2 ^ (-e).toNat
    let r : Int := if 0 ≤ e then 0 else t % 2 ^ (-e).toNat
    let f : Fp := .fin false r.toNat e
    let p := [0x3C1D9556, 0x3D635847, 0x3E75FDF0, 0x3F317218, 0x3F800000].foldl (fun p c => toF32 (addV (mulV (val p) f) (val c))) 0x3AAEC430
    toF32 (mulV (val p) (.fin false 1 n))

/-! ### The formats of K, V and vectors (Tables 9.2, 10.4) -/

/-- Decodes FP8 E4M3: no infinities, 0x7F and 0xFF are NaN. -/
def decE4m3 (b : Nat) : F32 := if b % 128 = 127 then fp32.nanCode else toF32 (e4m3.magnitude (b.testBit 7) (b % 128))

/-- Decodes FP8 E5M2. -/
def decE5m2 (b : Nat) : F32 := toF32 (e5m2.decode b)

/-- Decodes FP16. -/
def decF16 (b : Nat) : F32 := toF32 (fp16.decode b)

/-- Decodes BF16; a NaN stays one. -/
def decBf16 (b : Nat) : F32 := toF32 (bf16.decode b)

/-- Decodes a two's complement byte. -/
def decI8 (b : Nat) : F32 := if b < 128 then toF32 (.fin false b 0) else toF32 (.fin true (256 - b) 0)

/-- An element of MXFP4 under its scale byte; scale 0xFF is NaN. DESIGN CHOICE (log 61): under scales 253 and 254 an element of 2^128 or more,
which FP32 cannot hold although Table 9.2 calls the decoding exact, is an infinity of its sign (R272). -/
def decMx (nibble scale : Nat) : F32 :=
  if scale = 255 then fp32.nanCode else
  match e2m1.magnitude (nibble.testBit 3) (nibble % 8) with
  | .fin n m e => toF32 (.fin n m (e + scale - 127))
  | v => toF32 v

/-! ### Quantise-on-write (Table 9.10) -/

/-- Whether the magnitude m × 2^e exceeds another. -/
def magAbove (m : Nat) (e : Int) (m2 : Nat) (e2 : Int) : Bool := 0 < (sumParts false m e true m2 e2).1

/-- Rounds to an FP8 format whose largest magnitude is a code; saturated elements are counted. -/
def quantFp8 (f : Fmt) (top : Nat) (x : F32) : Nat × Bool :=
  match val x with
  | .nan => (0x7F, true)
  | .inf n => (top + 128 * bit n, true)
  | .fin n m e =>
    match f.magnitude false top with
    | .fin _ tm te => if magAbove m e tm te then (top + 128 * bit n, true) else (f.round m e + 128 * bit n, false)
    | _ => (0x7F, true)

/-- The integer nearest to a value, ties to even, as sign and magnitude; none for a NaN or an infinity. -/
def nearestInt (x : F32) : Option (Bool × Nat) :=
  match val x with
  | .fin n m e =>
    if 0 ≤ e then some (n, m <<< e.toNat) else
    let k := (-e).toNat
    let r := m >>> k
    let rest := m % 2 ^ k
    let half := 2 ^ (k - 1)
    some (n, if half < rest || (rest = half && r % 2 = 1) then r + 1 else r)
  | _ => none

/-- INT8: x divided by the scale, rounded and clamped to -127 to 127. -/
def quantInt8 (scale x : F32) : Nat × Bool :=
  let q := fdiv x scale
  match nearestInt q, val q with
  | some (n, v), _ => (if n then (256 - min v 127) % 256 else min v 127, 127 < v)
  | none, .inf n => (if n then 129 else 127, true)
  | none, _ => (0, true)

/-- The E8M0 scale byte of 32 elements: 0xFF with any NaN or infinity among them. -/
def mxScale (xs : List F32) : Nat :=
  if xs.any notFinite then 255 else
  let top (x : F32) : Int := match val x with | .fin _ m e => if m = 0 then -1000 else e + m.log2 | _ => -1000
  let a := xs.foldl (fun a x => max a (top x)) (-1000)
  if a = -1000 then 0 else (min (max (a - 2 + 127) 0) 254).toNat

/-- One MXFP4 element under its scale. -/
def quantMx (scale : Nat) (x : F32) : Nat × Bool :=
  if scale = 255 then (0, true) else
  match val x with
  | .fin n m e =>
    let c := e2m1.round m (e - scale + 127)
    (min c 7 + 8 * bit n, 7 < c)
  | _ => (0, true)

end Sys2Proof.Machine
end

