-- ==== Sys2Proof/Machine/Attention.lean ====
section
/-! DEFINITION. ATTN_DECODE, ATTN_MERGE and KV_APPEND (09). -/

namespace Sys2Proof.Machine

/-- The attention descriptor (Table 9.4), d the head dimension D. -/
structure Desc where
  kf : Nat
  vf : Nat
  d : Nat
  g : Nat
  outBf16 : Bool
  softcap : Bool
  ctr : Option Nat
  qhead : Nat
  qkScale : F32
  cap : F32
  capInv : F32
deriving DecidableEq, Repr

/-- Whether a number is finite and positive. -/
def finitePos (a : F32) : Bool := match val a with | .fin n m _ => !n && m ≠ 0 | _ => false

/-- The descriptor of 64 bytes, none when a field is outside its range (R275). -/
def descOf (b : List Byte) : Option Desc :=
  let f := leAt b 4 1
  let cap := leAt b 0x0C 4
  let inv := leAt b 0x10 4
  let c := leAt b 0x14 2
  let capOk : Bool := if f.testBit 1 then finitePos cap && finitePos inv else cap = 0 && inv = 0
  let ctrOk : Bool := if f.testBit 2 then c < 2048 else c = 0
  if leAt b 0 1 ≤ 4 && leAt b 1 1 ≤ 4 && 1 ≤ leAt b 2 1 && leAt b 2 1 ≤ 8 && 1 ≤ leAt b 3 1 && leAt b 3 1 ≤ 16 && f < 8 &&
     zeroAt b 5 1 && decide (leAt b 6 2 + leAt b 3 1 ≤ 65536) && !notFinite (leAt b 8 4) && capOk && ctrOk && zeroAt b 0x16 42 then
    some { kf := leAt b 0 1, vf := leAt b 1 1, d := 32 * leAt b 2 1, g := leAt b 3 1, outBf16 := f.testBit 0, softcap := f.testBit 1,
           ctr := if f.testBit 2 then some c else none, qhead := leAt b 6 2, qkScale := leAt b 8 4, cap := cap, capInv := inv }
  else none

/-- Reads the descriptor, through the Booth's read buffer or outside it (R212, R271). -/
def readDesc (va : Nat) (buffered : Bool) : Prog Desc := do
  demand (vaAlign va 64)
  match descOf (lineBytes (← if buffered then readBuffered va else readLine va)) with
  | some d => return d
  | none => failNow .malformed

/-! ### Blocks (R273, R274) -/

/-- The footprint of a block (Table 9.3). -/
def footprint (f d : Nat) : Nat :=
  match f with
  | 2 => 128 * d
  | 3 => 64 * d + 256
  | 4 => ceilDiv (34 * d) 256 * 256
  | _ => 64 * d

/-- Element i of row r of a block's bytes, decoded (Tables 9.2, 9.3). -/
def blockElem (f d : Nat) (b : Array Byte) (r i : Nat) : F32 :=
  let at_ (k : Nat) : Nat := (b.getD k 0).toNat
  match f with
  | 0 => decE4m3 (at_ (r * d + i))
  | 1 => decE5m2 (at_ (r * d + i))
  | 2 => decBf16 (at_ (2 * (r * d + i)) + 256 * at_ (2 * (r * d + i) + 1))
  | 3 => decI8 (at_ (r * d + i))
  | _ =>
    let v := at_ ((r * d + i) / 2)
    decMx (if i % 2 = 0 then v % 16 else v / 16) (at_ (32 * d + r * (d / 32) + i / 32))

/-- The FP32 scale of an INT8 block. -/
def blockScale (d : Nat) (b : Array Byte) : F32 :=
  (List.range 4).foldl (fun a k => a + (b.getD (64 * d + k) 0).toNat * 256 ^ k) 0

/-- Counts a block that ATTN_DECODE has read (Table 9.14). -/
def countBlock : Prog Unit := onceDo fun c s => modBooth c.booth (fun y => { y with blocksRead := satInc 32 y.blocksRead }) s

/-- Reads a block in aligned bursts of 256 bytes (R273). -/
def readBlock (f d va : Nat) : Prog (Array Byte) := do
  let ls ← (List.range (footprint f d / 256)).mapM fun i => readBurst (va + 256 * i)
  countBlock
  return (ls.flatten.flatMap lineBytes).toArray

/-- Whether a block address is one (R274). -/
def blockOk (va : Nat) : Bool := vaAlign va 256

/-! ### Arithmetic (R283 to R289) -/

/-- The soft-cap (R285). -/
def softCap (cap inv s : F32) : F32 :=
  let u := fmul s inv
  let u := if flt 0x40400000 u then 0x40400000 else u
  let u := if flt u 0xC0400000 then 0xC0400000 else u
  let w := fmul u u
  let num := fmul u (fadd 0x41D80000 w)
  let den := fadd 0x41D80000 (fmul 0x41100000 w)
  fmul cap (fdiv num den)

/-- The score of a token in base-2 units (R284). -/
def score (x : Desc) (q k : List F32) (scale : F32) : F32 :=
  let d := tree (List.zipWith fmul q k)
  let d := if x.kf = 3 then fmul d scale else d
  let s := fmul d x.qkScale
  let s := if x.softcap then softCap x.cap x.capInv s else s
  fmul s 0x3FB8AA3B

/-- The running state of a head over a range (R287). -/
structure Soft where
  m : F32
  l : F32
  o : List F32
deriving DecidableEq, Repr, Inhabited

/-- The state of no token. -/
def Soft.start (d : Nat) : Soft := { m := negInf, l := 0, o := List.replicate d 0 }

/-- One block: its attended rows, the scores of the rows, and the columns of V (R287). -/
def blockStep (x : Desc) (st : Soft) (att : List Bool) (z : List F32) (cols : List (List F32)) (vscale : F32) : Soft :=
  let mb := ((att.zip z).filter fun p => p.1).foldl (fun a p => match a with | none => some p.2 | some y => some (fmax y p.2)) (none : Option F32)
  let m := fmax st.m (mb.getD negInf)
  let a := if st.m = negInf then 0 else exp2 (fsub st.m m)
  let p := (att.zip z).map fun t => if t.1 then roundBf16 (exp2 (fsub t.2 m)) else 0
  let mix (o : F32) (col : List F32) : F32 :=
    let w := tree ((att.zip (List.zipWith fmul p col)).map fun t => if t.1 then t.2 else 0)
    let w := if x.vf = 3 then fmul w vscale else w
    fadd (fmul o a) w
  { m := m, l := fadd (fmul st.l a) (tree p), o := List.zipWith mix st.o cols }

/-- The merge of two states, the first of earlier tokens (R288). -/
def Soft.merge (a b : Soft) : Soft :=
  let m := fmax a.m b.m
  if m = negInf then { m := negInf, l := 0, o := a.o.map fun _ => 0 } else
  let sa := exp2 (fsub a.m m)
  let sb := exp2 (fsub b.m m)
  { m := m, l := fadd (fmul a.l sa) (fmul b.l sb), o := List.zipWith (fun u v => fadd (fmul u sa) (fmul v sb)) a.o b.o }

/-- The finish: each element divided by l, +0 where l is +0 (R289). -/
def Soft.finish (a : Soft) : Soft := { a with o := a.o.map fun v => if a.l = 0 then 0 else fdiv v a.l }

/-! ### Records (R280, R281) -/

/-- The bytes of an output element. -/
def outBytes (x : Desc) : Nat := if x.outBf16 then 2 else 4

/-- The record size R. -/
def recordSize (x : Desc) : Nat := 64 + 64 * ceilDiv (x.d * outBytes x) 64

/-- A number as the device writes it: the one NaN where it is a NaN (R272). -/
def written (a : F32) : F32 := if isNan a then 0x7FC00000 else a

/-- The bytes of a record. -/
def recordBytes (x : Desc) (h first last : Nat) (fin : Bool) (st : Soft) : List Byte :=
  let es := st.o.flatMap fun v => if x.outBf16 then leBytes 2 (bf16.encode (val v)) else leBytes 4 (written v)
  padTo 64 (leBytes 4 (written st.m) ++ leBytes 4 (written st.l) ++ leBytes 2 (x.qhead + h) ++
    [BitVec.ofNat 8 (bit x.outBf16 + 2 * bit fin), BitVec.ofNat 8 (x.d / 32)] ++ leBytes 4 first ++ leBytes 4 last) ++
  padTo (recordSize x - 64) es

/-- The output elements that are NaN or infinite, as written. -/
def wildOut (x : Desc) (st : Soft) : Nat :=
  (st.o.filter fun v => if x.outBf16 then notFinite (roundBf16 v) else notFinite v).length

/-- Writes bytes as whole lines. -/
def writeLines (va : Nat) (b : List Byte) (ctr : Option Nat) : Prog Unit :=
  (chunks 64 (b.length / 64 + 1) b).zipIdx.forM fun p => writeTo (va + 64 * p.2) (lineOf (padTo 64 p.1)) ctr

/-- Writes a set: one record per head, in order. -/
def writeSet (x : Desc) (va first last : Nat) (fin : Bool) (ctr : Option Nat) (sts : List Soft) : Prog Unit :=
  sts.zipIdx.forM fun p => writeLines (va + recordSize x * p.2) (recordBytes x p.2 first last fin p.1) ctr

/-! ### ATTN_DECODE (R276 to R282) -/

/-- The operands of an ATTN_DECODE. -/
structure DecodeOps where
  qs : List (List F32)
  table : Nat
  mask : Nat
  last : Nat
deriving DecidableEq, Repr

/-- Whether each of the 64 tokens of a block is attended (R278). -/
def attendedOf (o : DecodeOps) (blk : Nat) : Prog (List Bool) := do
  let m ← if o.mask = 0 then pure [] else readBytes (o.mask + 8 * blk) (ceilDiv (min 64 (o.last - 64 * blk)) 8)
  return (List.range 64).map fun r =>
    decide (64 * blk + r < o.last) && (o.mask = 0 || (m.getD (r / 8) 0).getLsbD (r % 8))

/-- Counts a logical block that is skipped (Table 9.14). -/
def countSkipped : Prog Unit := onceDo fun c s => modBooth c.booth (fun y => { y with blocksSkipped := satInc 32 y.blocksSkipped }) s

/-- Charges the array's work on a block pair: 64 tokens of 2 × G × D multiply-accumulates (R301, Table 16.7). -/
def chargePair (x : Desc) : Prog Unit := onceDo fun c s => charge c.part c.epoch 6 (128 * x.g * x.d) c.time s

/-- The states after one block, with the attended tokens and the blocks read so far. -/
def attnBlock (x : Desc) (o : DecodeOps) (acc : List Soft × Nat × Nat) (blk : Nat) : Prog (List Soft × Nat × Nat) := do
  let att ← attendedOf o blk
  let e ← readBytes (o.table + 16 * blk) 16
  if att.all (! ·) then
    countSkipped
    return acc
  let kva := leAt e 0 8
  let vva := leAt e 8 8
  if !(blockOk kva && blockOk vva) then failAt .malformed (o.table + 16 * blk)
  let kb ← readBlock x.kf x.d kva
  let vb ← readBlock x.vf x.d vva
  useArray
  chargePair x
  let rows := (List.range 64).map fun r => (List.range x.d).map fun i => blockElem x.kf x.d kb r i
  let cols := (List.range x.d).map fun i => (List.range 64).map fun r => blockElem x.vf x.d vb r i
  let sts := (acc.1.zip o.qs).map fun p =>
    blockStep x p.1 att (rows.map fun k => score x p.2 k (blockScale x.d kb)) cols (blockScale x.d vb)
  return (sts, acc.2.1 + (att.filter id).length, acc.2.2 + 2)

/-- The states of one segment from the start state (R287). -/
def decodeSegment (x : Desc) (o : DecodeOps) (seg tokens blocks : Nat) : Prog (List Soft × Nat × Nat) :=
  let n := min 64 (ceilDiv (o.last - 4096 * seg) 64)
  ((List.range n).map fun j => 64 * seg + j).foldlM (attnBlock x o) (List.replicate x.g (Soft.start x.d), tokens, blocks)

/-- RESULT of four words. -/
def words4 (a b c d : Nat) : BitVec 128 := BitVec.ofNat 128 (pack [(0, 32, a), (32, 32, b), (64, 32, c), (96, 32, d)])

/-- PARTIALS: one set per segment (R281). -/
def decodePartials (x : Desc) (o : DecodeOps) (out first : Nat) (segs : List Nat) : Prog (Nat × Nat × Nat) :=
  segs.foldlM (fun (acc : Nat × Nat × Nat) seg => do
    let r ← decodeSegment x o seg acc.1 acc.2.1
    writeSet x (out + (seg - first) * (x.g * recordSize x)) (4096 * seg) (min o.last (4096 * (seg + 1))) false x.ctr r.1
    return (r.2.1, r.2.2, acc.2.2 + (r.1.map (wildOut x)).sum)) (0, 0, 0)

/-- FINAL: the segments folded in order, finished, one set (R290). -/
def decodeFinal (x : Desc) (o : DecodeOps) (out : Nat) (segs : List Nat) : Prog (Nat × Nat × Nat) := do
  let r ← segs.foldlM (fun (acc : Option (List Soft) × Nat × Nat) seg => do
    let r ← decodeSegment x o seg acc.2.1 acc.2.2
    return (some (match acc.1 with | none => r.1 | some a => List.zipWith Soft.merge a r.1), r.2.1, r.2.2)) (none, 0, 0)
  let sts := (r.1.getD []).map Soft.finish
  writeSet x out 0 o.last true x.ctr sts
  return (r.2.1, r.2.2, (sts.map (wildOut x)).sum)

/-- ATTN_DECODE. -/
def attnDecodeProg : Prog Done := do
  let b ← entryBytes
  let desc := leAt b 0x10 8
  let q := leAt b 0x18 8
  let out := leAt b 0x28 8
  let first := leAt b 0x38 2
  let mode := leAt b 0x3A 1
  let o : DecodeOps := { qs := [], table := leAt b 0x20 8, mask := leAt b 0x30 8, last := leAt b 0x3C 4 }
  demand (vaAlign desc 64 && vaAlign q 64 && vaAlign o.table 16 && vaAlign out 64 && vaOk o.mask && mode ≤ 1 && zeroAt b 0x3B 1 &&
    decide (4096 * first < o.last) && decide (o.last ≤ 4194304) && (mode = 0 || first = 0))
  let x ← readDesc desc false
  let qb := (← readBytes q (2 * x.d * x.g)).toArray
  let row (h : Nat) : List F32 := (List.range x.d).map fun i =>
    let k := 2 * (x.d * h + i)
    decBf16 ((qb.getD k 0).toNat + 256 * (qb.getD (k + 1) 0).toNat)
  let o := { o with qs := (List.range x.g).map row }
  let segs := (List.range (ceilDiv o.last 4096 - first)).map fun k => first + k
  holdStream (2 * (footprint x.kf x.d + footprint x.vf x.d))
  let r ← if mode = 0 then decodePartials x o out first segs else decodeFinal x o out segs
  return { status := .ok, result := words4 r.1 r.2.1 (min r.2.2 (2 ^ 32 - 1)) 0,
           detail := BitVec.ofNat 32 (x.g * (if mode = 0 then segs.length else 1)) }

/-! ### ATTN_MERGE (R292 to R294) -/

/-- Reads bytes through the Booth's read buffer (R271). -/
def readRecord (va n : Nat) : Prog (List Byte) := do
  let ls ← (List.range (n / 64)).mapM fun i => readBuffered (va + 64 * i)
  return ls.flatMap lineBytes

/-- Whether a record's header meets R293 in itself, and in its set. -/
def headerOk (x : Desc) (h : Nat) (first last : Nat) (b : List Byte) : Bool :=
  leAt b 8 2 = x.qhead + h && leAt b 0x0A 1 ≤ 1 && leAt b 0x0B 1 = x.d / 32 && zeroAt b 0x14 44 &&
  leAt b 0x0C 4 = first && leAt b 0x10 4 = last

/-- The bytes of a record whose elements are BF16 or not. -/
def recordSpan (x : Desc) (b16 : Bool) : Nat := 64 + 64 * ceilDiv (x.d * (if b16 then 2 else 4)) 64

/-- The headers of a set: its range and the form of each record. The record size is that of the descriptor's form unless the
set's own first record states the other. -/
def readHeaders (x : Desc) (va : Nat) : Prog (Nat × Nat × List (Nat × Bool) × Bool) := do
  let h0 ← readRecord va 64
  let first := leAt h0 0x0C 4
  let last := leAt h0 0x10 4
  let r ← (List.range x.g).foldlM (fun (acc : Nat × List (Nat × Bool) × Bool) h => do
    let b ← readRecord acc.1 64
    let b16 : Bool := leAt b 0x0A 1 % 2 = 1
    return (acc.1 + recordSpan x b16, acc.2.1 ++ [(acc.1, b16)], acc.2.2 && headerOk x h first last b)) (va, [], true)
  return (first, last, r.2.1, r.2.2 && first < last && first % 4096 = 0)

/-- The state that a record holds. -/
def readState (x : Desc) (p : Nat × Bool) : Prog Soft := do
  let b := (← readRecord p.1 (recordSpan x p.2))
  let a := b.toArray
  let at_ (k : Nat) : Nat := (a.getD k 0).toNat
  let elem (i : Nat) : F32 :=
    if p.2 then decBf16 (at_ (64 + 2 * i) + 256 * at_ (65 + 2 * i))
    else at_ (64 + 4 * i) + 256 * at_ (65 + 4 * i) + 65536 * at_ (66 + 4 * i) + 16777216 * at_ (67 + 4 * i)
  return { m := leAt b 0 4, l := leAt b 4 4, o := (List.range x.d).map elem }

/-- Checks that a set continues the one before it, and covers at most one segment (R293). -/
def chainOk (prev : Option Nat) (first last : Nat) : Bool :=
  match prev with
  | none => true
  | some e => first = e && decide (last ≤ 4096 * (first / 4096 + 1))

/-- Checks the sets of a list in order. -/
def checkSets (x : Desc) : List Nat → Option Nat → List (Nat × Nat × List (Nat × Bool)) →
    Prog (List (Nat × Nat × List (Nat × Bool)))
  | [], _, acc => return acc.reverse
  | va :: t, prev, acc => do
    if !vaAlign va 64 then failAt .malformed va
    let h ← readHeaders x va
    if !(h.2.2.2 && chainOk prev h.1 h.2.1) then failAt .malformed va
    checkSets x t (some h.2.1) ((h.1, h.2.1, h.2.2.1) :: acc)

/-- ATTN_MERGE. -/
def attnMergeProg : Prog Done := do
  let b ← entryBytes
  let list := leAt b 0x18 8
  let out := leAt b 0x20 8
  let count := leAt b 0x28 2
  let mode := leAt b 0x2A 1
  demand (vaAlign list 8 && vaAlign out 64 && 1 ≤ count && count ≤ 1024 && mode ≤ 1 && leAt b 0x2B 1 ≤ 1 && zeroAt b 0x2E 18)
  let ctr ← counterOf (leAt b 0x2B 1 = 1) (leAt b 0x2C 2)
  let x ← readDesc (leAt b 0x10 8) true
  let lb ← readHeld list (8 * count)
  let sets ← checkSets x ((List.range count).map fun i => leAt lb (8 * i) 8) none []
  let sts ← sets.foldlM (fun (acc : Option (List Soft)) set => do
    let rs ← set.2.2.mapM (readState x)
    return some (match acc with | none => rs | some a => List.zipWith Soft.merge a rs)) none
  let sts := (sts.getD []).map fun st => if mode = 1 then st.finish else st
  let first := match sets.head? with | some h => h.1 | none => 0
  let last := match sets.getLast? with | some h => h.2.1 | none => 0
  writeSet x out first last (mode = 1) ctr sts
  return { status := .ok, result := words4 count 0 (min ((sts.map (wildOut x)).sum) (2 ^ 32 - 1)) 0, detail := BitVec.ofNat 32 x.g }

/-! ### KV_APPEND (R295 to R298) -/

/-- The bytes of a row in a format, with its scale bytes for MXFP4, and the elements counted (Table 9.10). -/
def quantRow (f : Nat) (scale : F32) (row : List Nat) : List Byte × List Byte × Nat :=
  let xs := row.map decBf16
  let of8 (l : List (Nat × Bool)) : List Byte × List Byte × Nat :=
    (l.map fun p => BitVec.ofNat 8 p.1, [], (l.filter fun p => p.2).length)
  match f with
  | 0 => of8 (xs.map (quantFp8 e4m3 0x7E))
  | 1 => of8 (xs.map (quantFp8 e5m2 0x7B))
  | 2 => (row.flatMap fun v => leBytes 2 v, [], 0)
  | 3 => of8 (xs.map (quantInt8 scale))
  | _ =>
    let gs := chunks 32 (xs.length / 32 + 1) xs
    let scales := gs.map mxScale
    let q := (gs.zip scales).flatMap fun p => p.1.map (quantMx p.2)
    let ns := (chunks 2 (q.length / 2 + 1) q).map fun p => BitVec.ofNat 8 ((p.getD 0 (0, false)).1 + 16 * (p.getD 1 (0, false)).1)
    (ns, scales.map (BitVec.ofNat 8), (q.filter fun p => p.2).length)

/-- Writes bytes at an address, each line under the mask of its own bytes: whole lines whole, the others narrow (R298); gives the numbers of the
accesses. -/
def writeSpanAs (va : Nat) (b : List Byte) : Prog (List Nat) :=
  if b.isEmpty then return [] else
  (List.range ((va + b.length - 1) / 64 - va / 64 + 1)).mapM fun i => do
    let line := va / 64 + i
    let lo := if i = 0 then va % 64 else 0
    let hi := min 64 (va + b.length - 64 * line)
    let skip := 64 * line + lo - va
    let d := lineOf (List.replicate lo 0 ++ (b.drop skip).take (hi - lo))
    writeAs .any (64 * line) d (if lo = 0 && hi = 64 then none else some (rangeMask lo (hi - lo))) none

/-- Writes bytes at an address. -/
def writeSpan (va : Nat) (b : List Byte) : Prog Unit := do
  let _ ← writeSpanAs va b

/-- The bytes at which a row and its scale bytes stand in a block (Table 9.3). -/
def rowAt (f d r : Nat) : Nat × Nat :=
  match f with
  | 2 => (2 * d * r, 0)
  | 4 => (r * d / 2, 32 * d + r * (d / 32))
  | _ => (r * d, 64 * d)

/-- The scale of a block's rows: the operand where the command writes its row 0, else the one stored in the block, read once
(R297). -/
def appendScale (f d block : Nat) (own : Bool) (opScale : F32) : Prog F32 := do
  if f ≠ 3 then return 0 else
  if own then return opScale else
  let v := leAt (← readBytes (block + 64 * d) 4) 0 4
  demand (finitePos v)
  return v

/-- One row of K or V: its elements and scale bytes written, and the count of those saturated (R296, R297); the row is counted once its writes
are performed. -/
def appendRow (f d block tok : Nat) (scale : F32) (row : List Nat) : Prog Nat := do
  let q := quantRow f scale row
  let a ← writeSpanAs (block + (rowAt f d (tok % 64)).1) q.1
  let e ← if f = 4 then writeSpanAs (block + (rowAt f d (tok % 64)).2) q.2.1 else pure []
  let t ← if f = 3 && tok % 64 = 0 then writeSpanAs (block + 64 * d) (leBytes 4 scale) else pure []
  onceDo fun c s => countRows c.qp c.count (modCmd c.qp c.count (fun c => { c with rows := c.rows ++ [(a ++ e ++ t, q.2.2)] }) s)
  return q.2.2

/-- The rows of the command that lie in one block. -/
def appendBlock (x : Desc) (table pos count ks vs : Nat) (row : Nat → List Nat) (acc : Nat × Nat) (blk : Nat) : Prog (Nat × Nat) := do
  let e ← readBytes (table + 16 * blk) 16
  let kva := leAt e 0 8
  let vva := leAt e 8 8
  if !(blockOk kva && blockOk vva) then failAt .malformed (table + 16 * blk)
  let own : Bool := pos ≤ 64 * blk
  let ksc ← appendScale x.kf x.d kva own ks
  let vsc ← appendScale x.vf x.d vva own vs
  ((List.range count).filter fun i => (pos + i) / 64 = blk).foldlM (fun (acc : Nat × Nat) i => do
    let a ← appendRow x.kf x.d kva (pos + i) ksc (row i)
    let c ← appendRow x.vf x.d vva (pos + i) vsc (row (count + i))
    return (acc.1 + a, acc.2 + c)) acc

/-- Whether an operand scale is needed: INT8, and the command writes row 0 of a block (R297). -/
def scaleNeeded (f pos count : Nat) : Bool := f = 3 && (List.range count).any fun i => (pos + i) % 64 = 0

/-- KV_APPEND. -/
def kvAppendProg : Prog Done := do
  let b ← entryBytes
  let table := leAt b 0x18 8
  let src := leAt b 0x20 8
  let pos := leAt b 0x28 4
  let count := leAt b 0x2C 1
  let ks := leAt b 0x30 4
  let vs := leAt b 0x34 4
  demand (vaAlign table 16 && vaAlign src 64 && 1 ≤ count && count ≤ 64 && zeroAt b 0x2D 3 && zeroAt b 0x38 8 &&
    decide (pos + count ≤ 4194304))
  let x ← readDesc (leAt b 0x10 8) false
  demand ((!scaleNeeded x.kf pos count || finitePos ks) && (!scaleNeeded x.vf pos count || finitePos vs))
  let sb := (← readHeld src (4 * x.d * count)).toArray
  let row (j : Nat) : List Nat := (List.range x.d).map fun i =>
    let k := 2 * (x.d * j + i)
    (sb.getD k 0).toNat + 256 * (sb.getD (k + 1) 0).toNat
  let blks := (List.range ((pos + count - 1) / 64 - pos / 64 + 1)).map fun k => pos / 64 + k
  let r ← blks.foldlM (appendBlock x table pos count ks vs row) (0, 0)
  return { status := .ok, result := words4 r.1 r.2 0 0, detail := BitVec.ofNat 32 count }

end Sys2Proof.Machine
end

