-- ==== Sys2Proof/Machine/Search.lean ====
section
/-! DEFINITION. SEARCH, SEARCH_INSERT, SEARCH_DELETE and SEARCH_EPOCH_ADVANCE (10), and the batches of list-batch mode. -/

namespace Sys2Proof.Machine

/-- The index descriptor (Table 10.1), with the row length V and its stride, and the record stride W (R305, R307). -/
structure Index where
  pq : Bool
  fmt : Nat
  metric : Nat
  pqm : Nat
  dim : Nat
  rerank : Nat
  nlist : Nat
  limit : Nat
  cents : Nat
  book : Nat
  dir : Nat
  vectors : Bool
  cur : Nat
  base : Nat
  v : Nat
  v64 : Nat
  w : Nat
deriving DecidableEq, Repr

/-- The bytes of a row of DIM elements (R305). -/
def rowBytes (fmt dim : Nat) : Nat := if fmt = 5 then dim / 8 else if fmt ≤ 1 then 2 * dim else dim

/-- The descriptor of 128 bytes, none when a field is outside its range (R303, R304). -/
def indexOf (b : List Byte) : Option Index :=
  let kind := leAt b 0 1
  let fmt := leAt b 1 1
  let metric := leAt b 2 1
  let pqm := leAt b 3 1
  let dim := leAt b 4 2
  let rr := leAt b 6 2
  let nlist := leAt b 8 4
  let book := leAt b 0x18 8
  let flags := leAt b 0x28 1
  let cur := leAt b 0x40 4
  let pq : Bool := kind = 1
  let binary : Bool := fmt = 5
  let v := rowBytes fmt dim
  let kindOk : Bool :=
    if pq then [8, 16, 32, 56, 64].contains pqm && dim % pqm = 0 && vaAlign book 256 && rr ≤ 1024 && (rr = 0 || flags = 1)
    else pqm = 0 && book = 0 && flags = 0 && rr = 0
  if kind ≤ 1 && fmt ≤ 5 && metric ≤ 3 && 1 ≤ dim && dim ≤ 4096 && kindOk && 1 ≤ nlist && nlist ≤ 1048576 && 1 ≤ leAt b 0x0C 4 &&
     vaAlign (leAt b 0x10 8) 256 && vaAlign (leAt b 0x20 8) 256 && flags ≤ 1 && zeroAt b 0x29 23 && decide (cur ≤ 0xFFFFFFFD) &&
     decide (leAt b 0x44 4 ≤ cur) && zeroAt b 0x48 56 && ((metric = 3) == binary) && (!binary || (!pq && dim % 8 = 0)) then
    some { pq := pq, fmt := fmt, metric := metric, pqm := pqm, dim := dim, rerank := rr, nlist := nlist, limit := leAt b 0x0C 4,
           cents := leAt b 0x10 8, book := book, dir := leAt b 0x20 8, vectors := flags = 1, cur := cur, base := leAt b 0x44 4,
           v := v, v64 := ceilDiv v 64 * 64, w := ceilDiv (16 + (if pq then pqm else v)) 16 * 16 }
  else none

/-- Reads the descriptor. -/
def readIndex (va : Nat) : Prog Index := do
  demand (vaAlign va 64)
  match indexOf (← readBytes va 128) with
  | some x => return x
  | none => failNow .malformed

/-- A list header (Table 10.2). -/
structure Header where
  records : Nat
  vectors : Nat
  capacity : Nat
  used : Nat
deriving DecidableEq, Repr

/-- A list header as read; a field outside its range is a reserved encoding (R307). -/
def listHeader (x : Index) (b : List Byte) : Prog Header := do
  let h : Header := { records := leAt b 0 8, vectors := leAt b 8 8, capacity := leAt b 0x10 4, used := leAt b 0x14 4 }
  demand (vaAlign h.records 256 && vaOk h.vectors && (x.vectors || h.vectors = 0) && zeroAt b 0x18 8)
  return h

/-- Reads a list header. -/
def readListHeader (x : Index) (l : Nat) : Prog Header := do listHeader x (← readBytes (x.dir + 32 * l) 32)

/-! ### Distances (R309 to R312) -/

/-- A row decoded to FP32, or its bytes for BINARY (Table 10.4). -/
def vecOf (fmt dim : Nat) (b : List Byte) : List F32 :=
  let a := b.toArray
  let at_ (k : Nat) : Nat := (a.getD k 0).toNat
  (List.range (if fmt = 5 then dim / 8 else dim)).map fun i =>
    match fmt with
    | 0 => decF16 (at_ (2 * i) + 256 * at_ (2 * i + 1))
    | 1 => decBf16 (at_ (2 * i) + 256 * at_ (2 * i + 1))
    | 2 => decI8 (at_ i)
    | 3 => decE4m3 (at_ i)
    | 4 => decE5m2 (at_ i)
    | _ => at_ i

/-- The L2 distance. -/
def distL2 (q x : List F32) : F32 := tree (List.zipWith (fun a b => let e := fsub a b; fmul e e) q x)

/-- The distance of a metric, the query of COSINE already q' (R310). -/
def distOf (metric : Nat) (q x : List F32) : F32 :=
  match metric with
  | 0 => distL2 q x
  | 3 => toF32 (.fin false ((List.zipWith (fun a b => popCount (a ^^^ b) 8) q x).sum) 0)
  | _ => fneg (tree (List.zipWith fmul q x))

/-- q' of COSINE, none when the norm is 0 or not finite (R310). -/
def unitRow (q : List F32) : Option (List F32) :=
  let n := fsqrt (tree (List.zipWith fmul q q))
  if notFinite n || n % 2 ^ 31 = 0 then none else some (q.map fun a => roundBf16 (fdiv a n))

/-- A candidate of a SEARCH: its distance, its item, its list and its slot, and where its full vector lies. -/
structure Cand where
  d : F32
  item : Nat
  list : Nat
  slot : Nat
  vec : Nat
deriving DecidableEq, Repr

/-- Distances as real values: -0 equals +0, a NaN above every number (R312). -/
def distLess (a b : F32) : Bool := if isNan a then false else if isNan b then true else flt a b

/-- The order of candidates (R312): (d, ITEM, list, slot), without ITEM under COMPAT_A. -/
def candLess (compat : Bool) (a b : Cand) : Bool :=
  if distLess a.d b.d then true else if distLess b.d a.d then false
  else
    let x := if compat then [a.list, a.slot] else [a.item, a.list, a.slot]
    let y := if compat then [b.list, b.slot] else [b.item, b.list, b.slot]
    decide (x < y)

/-- The `n` least candidates of a sorted list and one more. -/
def keepBest (compat : Bool) (n : Nat) (c : Cand) (l : List Cand) : List Cand := (insertBy (candLess compat) c l).take n

/-- The closed batch of a command. -/
def batchOf (s : State) (c : Cmd) : Option Batch :=
  (getBooth s c.booth).closed.find? fun b => b.members.any fun m => m.cmd = (c.qp, c.count)

/-- Updates the closed batch of a command. -/
def modBatch (c : Cmd) (f : Batch → Batch) (s : State) : State :=
  modBooth c.booth (fun b => { b with closed := b.closed.map fun t => if t.members.any (fun m => m.cmd = (c.qp, c.count)) then f t else t }) s

/-- The line of a list that is held for the batch of a command. -/
def heldFor (s : State) (c : Cmd) (list va : Nat) : Option LineData :=
  (batchOf s c).bind fun b => (b.lines.find? fun e => e.1 = list && e.2.1 = c.epoch && e.2.2.1 = va / 64).map fun e => e.2.2.2

/-- Whether another member of its batch is reading a line of a list. -/
def beingRead (s : State) (c : Cmd) (list va : Nat) : Bool :=
  match batchOf s c with
  | none => false
  | some b => s.cmds.any fun d => b.members.any (fun m => m.cmd = (d.qp, d.count)) && d.epoch = c.epoch && (d.qp, d.count) ≠ (c.qp, c.count) &&
      d.access.any fun a => a.share = some list && a.va / 64 = va / 64

/-- Reads a line of a list, or of the centroid table as list 2^32, and whether the command read it itself: in list-batch mode it is read once for
all the members of the batch (R331). -/
def readShared (list va : Nat) : Prog (LineData × Bool) := do
  let id ← takeId
  let c ← theCmd
  let s ← theState
  let own ← takeId
  if !(answersOf c own).isEmpty || (c.access.any fun a => a.id = id) || !(answersOf c id).isEmpty then pure () else
    match heldFor s c list va with
    | some d => change (keepSeen c.qp c.count own d)
    | none => if beingRead s c list va then waitHere
  match answersOf (← theCmd) own with
  | a :: _ => return (a.data, false)
  | [] =>
    match ← accessAs id (va / 64 * 64) true false false .any false ((batchOf s c).map fun _ => list) none { ptype := 0x01 } with
    | [] => waitHere
    | a :: _ => if statusGood a.status then return (a.data, true) else failAt a.status va

/-- The centroid table's place among the lists of a batch. -/
def centroidTable : Nat := 2 ^ 32

/-- The `n` lists of smallest key (d, list number) among the centroids of an index (R315). -/
def bestLists (x : Index) (q : List F32) (n : Nat) : Prog (List Nat) := do
  let l ← (List.range x.nlist).foldlM (fun (acc : List Cand) l => do
    let c := vecOf x.fmt x.dim (← bytesBy (fun va => do return (← readShared centroidTable va).1) (x.cents + l * x.v64) x.v)
    return keepBest true n { d := distOf x.metric q c, item := 0, list := l, slot := 0, vec := 0 } acc) []
  return l.map Cand.list

/-- A centroid of the codebook (R306). -/
def readCentroid (x : Index) (j c : Nat) : Prog (List F32) := do
  let n := x.dim / x.pqm
  let b ← readBytes (x.book + 4 * ((256 * j + c) * n)) (4 * n)
  return (List.range n).map fun i => leAt b (4 * i) 4

/-- The sub-vector j of a vector. -/
def subVec (x : Index) (j : Nat) (q : List F32) : List F32 := (q.drop (j * (x.dim / x.pqm))).take (x.dim / x.pqm)

/-- The table T (R311), row by row. -/
def buildTable (x : Index) (q : List F32) : Prog (List (Array F32)) :=
  (List.range x.pqm).mapM fun j => do
    let r ← (List.range 256).mapM fun c => do return distOf x.metric (subVec x j q) (← readCentroid x j c)
    return r.toArray

/-! ### SEARCH (R313 to R322) -/

/-- The filter lines a command holds: up to 256, the most recently used last (R321). -/
abbrev FilterLines := List (Nat × LineData)

/-- The filter bit of an item (R320, R321). -/
def filterBit (va item : Nat) (ls : FilterLines) : Prog (Bool × FilterLines) := do
  let a := va + item / 8
  let d ← match ls.find? fun e => e.1 = a / 64 with
    | some e => pure e.2
    | none => readLine (a / 64 * 64)
  let rest := ls.filter fun e => e.1 ≠ a / 64
  let rest := if rest.length ≥ 256 then rest.drop 1 else rest
  return ((lineField d (a % 64) 1).testBit (item % 8), rest ++ [(a / 64, d)])

/-- A scan so far: the candidates kept, the records visible, those excluded, and the filter lines held. -/
structure Scan where
  kept : List Cand
  visible : Nat
  excluded : Nat
  lines : FilterLines
deriving DecidableEq, Repr

/-- One record of a scan: its visibility, its filter bit, its distance (R315, R320, R322). -/
def scanRecord (x : Index) (compat : Bool) (pin filter cap l : Nat) (h : Header) (dist : List Byte → F32) (st : Scan)
    (slot : Nat) (r : List Byte) : Prog Scan := do
  let item := leAt r 0 4
  if !(leAt r 4 4 ≤ pin && pin < leAt r 8 4) then return st else
  let st := { st with visible := st.visible + 1 }
  let (ok, lines) ←
    if x.limit ≤ item then pure (false, st.lines)
    else if filter = 0 then pure (true, st.lines) else filterBit filter item st.lines
  let st := { st with lines := lines }
  if !ok then return { st with excluded := st.excluded + 1 } else
  return { st with kept := keepBest compat cap { d := dist (r.drop 16), item := item, list := l, slot := slot,
                                                  vec := h.vectors + slot * x.v64 } st.kept }

/-- Record slots read by SEARCH are counted (Table 10.12). -/
def countScanned (n : Nat) : Prog Unit :=
  onceDo fun c s => modBooth c.booth (fun y => { y with scanned := satAdd 64 y.scanned n }) s

/-- The record slots that lie wholly in the first `n` lines of a list. -/
def slotsIn (w total n : Nat) : Nat := min total (64 * n / w)

/-- The record lines of a list in order; each slot counts as it is read (R315, Table 10.12). -/
def readRecords (x : Index) (l va n : Nat) : Prog (List Byte) := do
  let ls ← (List.range (ceilDiv (n * x.w) 64)).mapM fun i => do
    let r ← readShared l (va + 64 * i)
    if r.2 then countScanned (slotsIn x.w n (i + 1) - slotsIn x.w n i) else let _ ← takeId
    return r.1
  return (ls.flatMap lineBytes).take (n * x.w)

/-- The scan of one list: its header, then its slots below USED and CAPACITY (R315). -/
def scanList (x : Index) (compat : Bool) (pin filter cap : Nat) (dist : List Byte → F32) (st : Scan) (l : Nat) : Prog Scan := do
  let h ← listHeader x (← bytesBy (fun va => do return (← readShared l va).1) (x.dir + 32 * l) 32)
  let n := min h.used h.capacity
  let b ← readRecords x l h.records n
  (chunks x.w (n + 1) b).zipIdx.foldlM (fun st p => scanRecord x compat pin filter cap l h dist st p.2 p.1) st

/-- The lists of probe entries: each below NLIST and named once (R314). -/
def readProbes (x : Index) (va n : Nat) : Prog (List Nat) := do
  let b ← readBytes va (16 * n)
  let ls := (List.range n).map fun i => leAt b (16 * i) 4
  demand (ls.all (fun l => decide (l < x.nlist)) && decide (ls.eraseDups.length = ls.length))
  return ls

/-- The full distance of a kept candidate (stage 6 of R315). -/
def rerankOne (x : Index) (q : List F32) (c : Cand) : Prog Cand := do
  return { c with d := distOf x.metric q (vecOf x.fmt x.dim (← readBytes c.vec x.v)) }

/-- A result entry (Table 10.6). -/
def resultEntry (item list d slot : Nat) : List Byte := leBytes 4 item ++ leBytes 4 list ++ leBytes 4 d ++ leBytes 4 slot

/-- Whether a Booth runs in list-batch mode (R329). -/
def listBatch (s : State) (b : Nat) : Bool :=
  match Tab.find s.rig.cur.booths b with | some r => r.listBatch | none => false

/-- A member of the open batch waits for the batch to close (R331). -/
def batchWait : Prog Unit := do
  let c ← theCmd
  if ((getBooth (← theState) c.booth).batch.contains (c.qp, c.count)) then waitHere else pure ()

/-- Reads of a batch that a member shares, made: each of its lists, and the centroid table as list 2^32, counts once per extra member
(Table 10.13). -/
def batchReads (c : Cmd) (ls : List Nat) (s : State) : State :=
  match batchOf s c with
  | none => s
  | some b =>
    modBatch c (fun y => { y with lists := y.lists ++ ls.filter fun l => !b.lists.contains l })
      (modBooth c.booth (fun x => { x with saved := satAdd 32 x.saved (ls.filter b.lists.contains).length }) s)

/-- The members of the batch of a command that the others wait for: those that have not ended, failed or been stopped (R331, log 56). -/
def liveMembers (s : State) (c : Cmd) : List Member :=
  match batchOf s c with
  | none => []
  | some b => b.members.filter fun m => match findCmd s m.cmd.1 m.cmd.2 with | some d => !d.stop | none => false

/-- Changes the command's own entry in its batch, once. -/
def asMember (f : Member → Member) : Prog Unit :=
  onceDo fun c s => modBatch c (fun b => { b with members := b.members.map fun m => if m.cmd = (c.qp, c.count) then f m else m }) s

/-- The command waits until every live member of its batch meets a test, once. -/
def untilMembers (ok : Cmd → Member → Bool) : Prog Unit := do
  let id ← takeId
  let c ← theCmd
  if (answersOf c id).isEmpty then
    if (liveMembers (← theState) c).all (ok c) then change (keepSeen c.qp c.count id 0) else waitHere

/-- A member has scanned a list; its lines are dropped once no member has it before it. -/
def listScanned (l : Nat) : Prog Unit := do
  onceDo fun c s => batchReads c [l] s
  asMember fun m => { m with lists := m.lists.map fun ls => ls.filter (· ≠ l) }
  onceDo fun c s => modBatch c (fun b =>
    if b.members.any fun m => match m.lists with | some ls => ls.contains l | none => true then b
    else { b with lines := b.lines.filter fun e => e.1 ≠ l && e.1 ≠ centroidTable }) s

/-- A row as its distances take it: of length 1 under METRIC COSINE, where a norm of 0 ends the command (R310). -/
def metricRow (x : Index) (row : List F32) : Prog (List F32) :=
  if x.metric ≠ 2 then pure row else
    match unitRow row with
    | some r => pure r
    | none => failNow .malformed

/-- The query of a SEARCH: read in the format of its index, and of length 1 under METRIC COSINE (R315). -/
def readQuery (x : Index) (q : Nat) : Prog (List F32) := do
  let qf := if x.fmt = 5 then 5 else 1
  metricRow x (vecOf qf x.dim (← readBytes q (rowBytes qf x.dim)))

/-- Whether a member of a batch began before a command (R331). -/
def earlierMember (s : State) (c : Cmd) (m : Member) : Bool :=
  match findCmd s m.cmd.1 m.cmd.2 with | some d => d.beganAs < c.beganAs | none => false

/-- The stream area that the held filter lines of a command take: 256 lines (R321). -/
def filterArea : Nat := 256 * 64

/-- The candidates of a SEARCH: the best records of its lists, ranked again by their full vectors where the index has them; with the counts of
the scan (R315, R320 to R322). -/
def searchLists (x : Index) (k pin filter : Nat) (row : List F32) (lists : List Nat) : Prog (List Cand × Scan) := do
  let compat := (← theState).power.compatA
  holdStream ((if x.pq then 1024 * x.pqm else 0) + if filter = 0 then 0 else filterArea)
  let dist ← if x.pq then do
      let t ← buildTable x row
      pure fun (p : List Byte) => tree (t.zipIdx.map fun e => e.1.getD (p.getD e.2 0).toNat 0)
    else pure fun (p : List Byte) => distOf x.metric row (vecOf x.fmt x.dim p)
  let again : Bool := x.pq && x.vectors && x.rerank ≠ 0
  let st ← lists.foldlM (fun st l => do
    untilMembers fun _ m => match m.lists with | some ls => ls.all fun n => l ≤ n | none => false
    let st ← scanList x compat pin filter (if again then max k x.rerank else k) dist st l
    listScanned l
    return st) { kept := [], visible := 0, excluded := 0, lines := [] }
  freeStream
  untilMembers fun c m => m.cmd = (c.qp, c.count) || (m.lists = some [])
  let s ← theState
  untilMembers fun c m => m.wrote || !earlierMember s c m
  if again then do
    let cs ← st.kept.mapM (rerankOne x row)
    return ((sortBy (candLess compat) cs).take k, st)
  else return (st.kept, st)

/-- SEARCH. -/
def searchProg : Prog Done := do
  let b ← entryBytes
  let q := leAt b 0x18 8
  let out := leAt b 0x20 8
  let filter := leAt b 0x28 8
  let probe := leAt b 0x30 8
  let k := leAt b 0x3C 2
  let np := leAt b 0x3E 2
  demand (vaAlign (leAt b 0x10 8) 64 && vaAlign q 64 && vaAlign out 64 && vaOk filter && vaAlign probe 64 && 1 ≤ k && k ≤ 1024 &&
    1 ≤ np && np ≤ 1024)
  batchWait
  let x ← readIndex (leAt b 0x10 8)
  demand (decide (np ≤ x.nlist))
  let pin := if leAt b 0x38 4 = 0xFFFFFFFF then x.cur else leAt b 0x38 4
  demand (decide (x.base ≤ pin) && decide (pin ≤ x.cur))
  let row ← readQuery x q
  let lists ← if probe = 0 then bestLists x row np else readProbes x probe np
  let batched ← onceNat fun c s => bit (batchOf s c).isSome
  let lists := if batched = 1 then sortBy (fun a b => a < b) lists else lists
  onceDo fun c s => batchReads c (if probe = 0 then [centroidTable] else []) s
  asMember fun m => { m with lists := some lists }
  let found ← searchLists x k pin filter row lists
  writeLines out (found.1.flatMap fun c => resultEntry c.item c.list c.d c.slot) none
  asMember fun m => { m with wrote := true }
  let n := found.1.length
  let lim (v : Nat) : Nat := min v (2 ^ 32 - 1)
  return { status := if n < k then .okShort else .ok, result := words4 n (lim found.2.visible) lists.length pin,
           detail := BitVec.ofNat 32 (lim found.2.excluded) }

/-! ### Inserts, deletes and the epoch (R323 to R326) -/

/-- A far atomic that a command performs at a line's home, which asks for READ and WRITE; `last` says that it is the last access of its command
(R93, R226, R261). -/
def homeAtomic (last : Bool) (va op size a b : Nat) : Prog Nat := do
  let p : Packet := { ptype := 0x08, code := BitVec.ofNat 8 (pack [(0, 4, op), (4, 2, size)]), opA := BitVec.ofNat 128 a,
                      opB := BitVec.ofNat 128 b }
  let rs ← access va true true false .any false p
  if last then lastAccess
  match rs with
  | [] => waitHere
  | r :: _ => if statusGood r.status then return r.data.toNat else failAt r.status va

/-- The code of a sub-vector: the centroid of least L2 distance, ties to the lower (R324). -/
def pqCode (x : Index) (j : Nat) (row : List F32) : Prog Nat := do
  let r ← (List.range 256).foldlM (fun (best : Option (F32 × Nat)) c => do
    let d := distL2 (subVec x j row) (← readCentroid x j c)
    return match best with
      | none => some (d, c)
      | some (e, i) => if distLess d e then some (d, c) else some (e, i)) none
  return match r with | some (_, c) => c | none => 0

/-- How an insert of one entry ended. -/
inductive Inserted where
  | done (list slot : Nat)
  | full (list : Nat)
  | refused (list : Nat)
deriving DecidableEq, Repr

/-- An entry refused or not found is counted as it is met (Table 10.11). -/
def countRefused : Prog Unit := onceDo fun c s => modBooth c.booth (fun y => { y with refused := satInc 16 y.refused }) s

/-- One entry of SEARCH_INSERT (R324). -/
def insertOne (x : Index) (item list : Nat) (raw : List Byte) : Prog Inserted := do
  if x.limit ≤ item || (x.nlist ≤ list && list ≠ 0xFFFFFFFF) then do
    countRefused
    return .refused list
  else
  let row := vecOf x.fmt x.dim raw
  let l ← if list ≠ 0xFFFFFFFF then pure list else do pure ((← bestLists x (← metricRow x row) 1).headD 0)
  let pay ← if x.pq then (List.range x.pqm).mapM fun j => do return BitVec.ofNat 8 (← pqCode x j row) else pure raw
  let h ← readListHeader x l
  let s ← homeAtomic false (x.dir + 32 * l + 0x14) 0 0 1 0
  if h.capacity ≤ s then do
    countRefused
    return .full l
  else
  writeSpan (h.records + s * x.w + 16) pay
  if x.vectors then writeSpan (h.vectors + s * x.v64) raw
  drain
  writeSpan (h.records + s * x.w) (leBytes 4 item ++ leBytes 4 (x.cur + 1) ++ leBytes 4 0xFFFFFFFF)
  return .done l s

/-- SEARCH_INSERT. -/
def searchInsertProg : Prog Done := do
  let b ← entryBytes
  let src := leAt b 0x18 8
  let out := leAt b 0x20 8
  let count := leAt b 0x28 2
  demand (vaAlign (leAt b 0x10 8) 64 && vaAlign src 64 && vaAlign out 64 && 1 ≤ count && count ≤ 1024 && zeroAt b 0x2A 22)
  let x ← readIndex (leAt b 0x10 8)
  let rs ← (List.range count).mapM fun i => do
    let e ← readHeld (src + i * (64 + x.v64)) (64 + x.v)
    return (leAt e 0 4, ← insertOne x (leAt e 0 4) (leAt e 4 4) (e.drop 64))
  let entry (r : Nat × Inserted) : List Byte :=
    match r.2 with
    | .done l s => resultEntry r.1 l 0 s
    | .full l => resultEntry r.1 l 0 0xFFFFFFFF
    | .refused l => resultEntry r.1 l 0 0xFFFFFFFF
  if out ≠ 0 then writeSpan out (rs.flatMap entry)
  let done := (rs.filter fun r => match r.2 with | .done _ _ => true | _ => false).length
  let full := (rs.filter fun r => match r.2 with | .full _ => true | _ => false).length
  lastAccess
  drain
  return { status := if done = count then .ok else .okShort, result := words4 done full (count - done - full) 0,
           detail := BitVec.ofNat 32 done }

/-- The record that an entry of SEARCH_DELETE names (R325). -/
def findRecord (x : Index) (item list slot : Nat) : Prog (Option Nat) := do
  if x.nlist ≤ list then return none else
  let h ← readListHeader x list
  let n := min h.used h.capacity
  let fits (r : List Byte) : Bool := leAt r 0 4 = item && decide (leAt r 4 4 ≤ x.cur + 1)
  if slot ≠ 0xFFFFFFFF then
    if n ≤ slot then return none else
    let r ← readBytes (h.records + slot * x.w) 16
    return if fits r then some (h.records + slot * x.w) else none
  else
    let b ← readBytes h.records (n * x.w)
    return ((chunks x.w (n + 1) b).zipIdx.find? fun p => fits p.1 && leAt p.1 8 4 = 0xFFFFFFFF).map fun p => h.records + p.2 * x.w

/-- SEARCH_DELETE. -/
def searchDeleteProg : Prog Done := do
  let b ← entryBytes
  let src := leAt b 0x18 8
  let count := leAt b 0x20 2
  demand (vaAlign (leAt b 0x10 8) 64 && vaAlign src 16 && 1 ≤ count && count ≤ 1024 && zeroAt b 0x22 30)
  let x ← readIndex (leAt b 0x10 8)
  let done ← (List.range count).foldlM (fun (n : Nat) i => do
    let e ← readHeld (src + 16 * i) 16
    match ← findRecord x (leAt e 0 4) (leAt e 4 4) (leAt e 0x0C 4) with
    | none => do
      countRefused
      return n
    | some a =>
      let old ← homeAtomic (i + 1 = count) (a + 8) 9 0 0xFFFFFFFF (x.cur + 1)
      if old ≠ 0xFFFFFFFF then countRefused
      return n + bit (old = 0xFFFFFFFF)) 0
  return { status := if done = count then .ok else .okShort, result := words4 done (count - done) 0 0,
           detail := BitVec.ofNat 32 done }

/-- The new value of the two epochs of a descriptor's line 1, none when the advance is refused (R326). -/
def advancedEpochs (old base : Nat) : Option Nat :=
  let cur := bits old 0 32
  let b := bits old 32 32
  if cur = 0xFFFFFFFD || (base ≠ 0xFFFFFFFF && (base < b || cur + 1 < base)) then none
  else some (pack [(0, 32, cur + 1), (32, 32, if base = 0xFFFFFFFF then b else base)])

/-- The swap of the epochs at the home, made again after a lost race (R326). -/
def advanceEpoch (va base : Nat) : Nat → Nat → Prog Nat
  | 0, _ => waitHere
  | n + 1, old => do
    match advancedEpochs old base with
    | none => failNow .malformed
    | some new =>
      let got ← homeAtomic false va 9 1 old new
      if got = old then return bits new 0 32 else advanceEpoch va base n got

/-- SEARCH_EPOCH_ADVANCE. -/
def searchEpochAdvanceProg : Prog Done := do
  let b ← entryBytes
  demand (vaAlign (leAt b 0x10 8) 64 && zeroAt b 0x1C 36)
  let x ← readIndex (leAt b 0x10 8)
  let n ← advanceEpoch (leAt b 0x10 8 + 0x40) (leAt b 0x18 4) (2 ^ 32) (pack [(0, 32, x.cur), (32, 32, x.base)])
  return { status := .ok, result := words4 n 0 0 0, detail := 0 }

end Sys2Proof.Machine
end

