-- ==== Sys2Proof/Machine/RunningOrder.lean ====
section
/-! DEFINITION. PREFETCH_RUN and its running orders (R350 to R354), and PUBLISH (R363 to R368). -/

namespace Sys2Proof.Machine

/-! ### Running orders -/

/-- A running order's header (Table 11.5). -/
structure RunHeader where
  steps : Nat
  repeat_ : Nat
  period : Nat
  trigger : Nat
  ahead : Nat
deriving DecidableEq, Repr

/-- Reads the header of a running order (R350, R353). -/
def readRun (va : Nat) : Prog RunHeader := do
  let b ← readBytes va 64
  let h : RunHeader := { steps := leAt b 0 4, repeat_ := leAt b 4 4, period := leAt b 8 8, trigger := leAt b 0x10 2, ahead := leAt b 0x12 1 }
  demand (1 ≤ h.steps && h.steps ≤ 65536 && h.trigger < 2048 && 1 ≤ h.ahead && h.ahead ≤ 8 && zeroAt b 0x13 45)
  return h

/-- A step of a running order (Table 11.6). -/
structure RunStep where
  src : Nat
  dst : Nat
  len : Nat
  signal : Option Nat
  threshold : Nat
deriving DecidableEq, Repr

/-- Reads the entry of a step (R350, R353). -/
def readStep (va : Nat) : Prog RunStep := do
  let b ← readBytes va 32
  let src := leAt b 0 8
  let dst := leAt b 8 8
  let len := leAt b 0x10 4
  demand (vaAlign src 64 && vaAlign dst 64 && lengthOk len 0xFFFFFFC0 && leAt b 0x14 1 ≤ 1 && zeroAt b 0x15 1 && !rangesMeet src dst len)
  let sig ← counterOf (leAt b 0x14 1 = 1) (leAt b 0x16 2)
  return { src := src, dst := dst, len := len, signal := sig, threshold := leAt b 0x18 8 }

/-- Runs a program beside the one it stands in, with access numbers of its own from `base` on: true at its end, false where it waits; its fault
is the command's. -/
def attempt (base : Nat) (p : Prog Unit) : Prog Bool := ExceptT.mk fun x =>
  match (ExceptT.run p).run { x with next := base } with
  | (.ok _, y) => (.ok true, { y with next := x.next })
  | (.error .wait, y) => (.ok false, { y with next := x.next })
  | (.error (.fault st va), y) => (.error (.fault st va), { y with next := x.next })

/-- A step that has begun: its place in the order of the steps, its pass, and whether all its accesses have issued. -/
structure Begun where
  place : Nat
  pass : Nat
  issued : Bool
deriving DecidableEq, Repr

/-- The first access number of a step of the run. -/
def stepBase (place : Nat) : Nat := (place + 1) * 2 ^ 64

/-- The steps in flight: those that have begun and whose destination writes are not all complete (R352). -/
def inFlight (c : Cmd) (steps : List Begun) : List Begun :=
  steps.filter fun b => !b.issued || c.access.any fun x => stepBase b.place ≤ x.id && x.id < stepBase (b.place + 1)

/-- The pass in progress: that of the earliest step in flight, else the one whose turn has come (R354, log 28). -/
def passNow (c : Cmd) (steps : List Begun) (pass : Nat) : Nat :=
  match inFlight c steps with
  | b :: _ => b.pass
  | [] => pass

/-- DETAIL, should the run end here. -/
def tellPass (steps : List Begun) (pass : Nat) : Prog Unit := do
  let c ← theCmd
  change (modCmd c.qp c.count fun c => { c with detail := passNow c steps pass })

/-- Waits until no step is in flight. -/
def awaitSteps (steps : List Begun) : Prog Unit := do
  if (inFlight (← theCmd) steps).isEmpty then pure () else waitHere

/-- Waits until fewer than LOOKAHEAD steps are in flight; it has then been seen once (R352). -/
def awaitPlace (ahead : Nat) (steps : List Begun) : Prog Unit := do
  let id ← takeId
  let c ← theCmd
  if !(answersOf c id).isEmpty then return () else
  if ahead ≤ (inFlight c steps).length then waitHere else
  change (keepSeen c.qp c.count id 0)

/-- Waits until a step has fallen due; one whose limit has passed ends the run once the steps in flight are complete (R351, R354). -/
def awaitDue (ctr : Nat) (thr : Word) (limit : Nat) (steps : List Begun) : Prog Unit := do
  let id ← takeId
  let c ← theCmd
  if !(answersOf c id).isEmpty then return () else
  let mine (d : Due) : Bool := d.qp = c.qp && d.count = c.count
  let s ← theState
  match s.order.due.find? mine with
  | none =>
    if dueAt (getCtr s ctr) thr then change (keepSeen c.qp c.count id 0) else
    change (modOrder fun x => { x with due := x.due ++
      [{ qp := c.qp, count := c.count, counter := ctr, threshold := thr, since := s.now, limit := limit, met := false, expired := false }] })
    waitHere
  | some d =>
    if d.expired then
      awaitSteps steps
      change (modOrder fun x => { x with due := x.due.filter fun d => !mine d })
      failNow .timeout
    else if d.met then
      change fun s => keepSeen c.qp c.count id 0 (modOrder (fun x => { x with due := x.due.filter fun d => !mine d }) s)
    else waitHere

/-- The command rests once here, and goes on when it next advances. -/
def restOnce : Prog Unit := do
  let id ← takeId
  let c ← theCmd
  if !(answersOf c id).isEmpty then return () else
  change (keepSeen c.qp c.count id 0)
  waitHere

/-- What a run has done: the steps begun, in order, and the bytes they copy. -/
structure RunSoFar where
  steps : List Begun
  bytes : Nat
deriving DecidableEq, Repr

/-- One step of a pass: read at its turn and awaited; its copy then runs beside the steps that follow (R351 to R353). -/
def runStep (prog : Nat) (h : RunHeader) (pass limit : Nat) (acc : RunSoFar) (i : Nat) : Prog RunSoFar := do
  tellPass acc.steps pass
  let st ← readStep (prog + 64 + 32 * i)
  awaitPlace h.ahead acc.steps
  awaitDue h.trigger (BitVec.ofNat 64 (st.threshold + pass * h.period)) limit acc.steps
  let place := acc.steps.length
  tellPass (acc.steps ++ [{ place := place, pass := pass, issued := false }]) pass
  let ended ← attempt (stepBase place) (copyLines st.src st.dst (st.len / 64) st.signal)
  return { steps := acc.steps ++ [{ place := place, pass := pass, issued := ended }], bytes := acc.bytes + st.len }

/-- The passes from one on, each reading the header anew; the command rests between two passes (R353). -/
def runPasses (prog limit : Nat) : Nat → Nat → RunSoFar → Prog (Nat × RunSoFar)
  | 0, pass, acc => return (pass, acc)
  | n + 1, pass, acc => do
    tellPass acc.steps pass
    let h ← readRun prog
    if h.repeat_ ≠ 0xFFFFFFFF && h.repeat_ ≤ pass then return (pass, acc) else
    let acc ← (List.range h.steps).foldlM (runStep prog h pass limit) acc
    restOnce
    runPasses prog limit n (pass + 1) acc

/-- PREFETCH_RUN. -/
def prefetchRunProg : Prog Done := do
  let b ← entryBytes
  let prog := leAt b 0x10 8
  let limit := leAt b 0x18 4
  let first := leAt b 0x1C 4
  demand (vaAlign prog 64 && zeroAt b 0x20 32)
  tellPass [] first
  let h ← readRun prog
  let c ← theCmd
  if ctrOwner (mapsAt (← theState) c.epoch) h.trigger ≠ some c.part then failNow .protection
  if h.repeat_ ≠ 0xFFFFFFFF && h.repeat_ ≤ first then return { status := .ok, result := 0, detail := BitVec.ofNat 32 first } else
  let r ← runPasses prog limit (2 ^ 64) first { steps := [], bytes := 0 }
  if r.2.steps.all Begun.issued then lastAccess
  awaitSteps r.2.steps
  drain
  return { status := .ok,
           result := BitVec.ofNat 128 (pack [(0, 32, r.1 - first), (32, 32, r.2.steps.length), (64, 64, r.2.bytes)]),
           detail := BitVec.ofNat 32 r.1 }

/-! ### PUBLISH (R364, R365, R367) -/

/-- Where a virtual address lies under the permissions asked, and its window: found once (R93). -/
def resolveFor (rd wr : Bool) (va : Nat) : Prog (Nat × Nat) := do
  let id ← takeId
  let c ← theCmd
  match answersOf c id with
  | a :: _ => return (bits a.data.toNat 0 64, bits a.data.toNat 64 64)
  | [] =>
    let x ← get
    let t := translate c va rd wr false x.s
    set { x with s := t.2 }
    match t.1 with
    | .miss => waitHere
    | .fault st => failAt st va
    | .hit g w =>
      change (keepSeen c.qp c.count id (BitVec.ofNat 512 (pack [(0, 64, g), (64, 64, w)])))
      return (g, w)

/-- Where a destination lies. -/
def resolve (va : Nat) : Prog (Nat × Nat) := resolveFor false true va

/-- The global address of a page that must be readable and writable (R355). -/
def resolveRw (va : Nat) : Prog Nat := do return (← resolveFor true true va).1

/-- The pieces of a virtual range that lie in one 512 MiB span each: address and length. -/
def pieces : Nat → Nat → Nat → List (Nat × Nat)
  | 0, _, _ => []
  | f + 1, va, n =>
    if n = 0 then [] else
    let m := min n (2 ^ 29 - va % 2 ^ 29)
    (va, m) :: pieces f (va + m) (n - m)

/-- Whether a page of this store at an address is PUBLISHABLE, or lies on another node (R364). -/
def mayPublish (s : State) (g : Nat) : Bool := nodeOf g ≠ thisNode s || publishable s (BitVec.ofNat 64 g)

/-- The commit at the header's home: an access of type PUBLISH_COMMIT, the last of its command (R365). -/
def commitAccess (va : Nat) (b : List Byte) (ctr : Option Nat) : Prog Fetched := do
  let p : Packet := { ptype := 0x09, body := b, flags := BitVec.ofNat 8 (8 * bit ctr.isSome), counter := BitVec.ofNat 16 (ctr.getD 0) }
  let rs ← access va false true false .any false p
  lastAccess
  match rs with
  | [] => waitHere
  | r :: _ => return r

/-- PUBLISH. -/
def publishProg : Prog Done := do
  let b ← entryBytes
  let region := leAt b 0x10 8
  let src := leAt b 0x18 8
  let dst := leAt b 0x20 8
  let len := leAt b 0x28 4
  let version := leAt b 0x30 8
  let digest := leAt b 0x38 8 + leAt b 0x08 8 * 2 ^ 64
  demand (leAt b 0x2C 1 ≤ 1 && zeroAt b 0x2D 1)
  let ctr ← counterOf (leAt b 0x2C 1 = 1) (leAt b 0x2E 2)
  demand (vaAlign region 64 && vaAlign src 64 && vaAlign dst 64 && lengthOk len 0xFFFFFFC0 && version ≠ 0)
  let home ← resolve region
  let spans ← (pieces 16 dst len).mapM fun p => do return ((← resolve p.1), p.1, p.2)
  let s ← theState
  spans.forM fun p =>
    if nodeOf p.1.1 = nodeOf home.1 && mayPublish s p.1.1 then pure () else failAt .protection p.2.1
  let h ← readLine region
  demand (lineField h 0x30 8 = 0 && lineField h 0x38 8 = 0)
  let first := verdictOf h version digest
  demand (first = .already || spans.all fun p => !spanMeets p.1.1 p.2.2 (lineField h 0x18 8) (lineField h 0x20 8))
  let words (v acc lines : Nat) : BitVec 128 := BitVec.ofNat 128 (pack [(0, 64, v), (64, 32, lines), (96, 32, acc)])
  if first ≠ .replace then
    return { status := verdictStatus first, result := words (lineField h 0 8) (lineField h 0x2C 4) 0, detail := BitVec.ofNat 32 (bit (first = .already)) }
  else
    copyLines src dst (len / 64) none
    drain
    let c ← theCmd
    let data := match spans.head? with | some p => p.1.1 | none => 0
    let r ← commitAccess region (commitBody version digest data len c.qp) ctr
    if r.status = .ok || r.status = .okRetried || r.status = .conflict || r.status = .staleVersion then
      let a := r.data.toNat
      let already : Bool := a.testBit 96
      return { status := r.status, result := words (bits a 0 64) (bits a 64 32) (len / 64),
               detail := BitVec.ofNat 32 (bit already + 2 * bit (already || !statusGood r.status)) }
    else failAt r.status region

end Sys2Proof.Machine
end

