-- ==== Sys2Proof/Machine/Maintain.lean ====
section
/-! DEFINITION. The maintenance commands: TIER_MOVE and HINT (11), SCRUB, MIRROR_RESYNC and MIRROR_PROMOTE (05). -/

namespace Sys2Proof.Machine

/-! ### Pages (R355) -/

/-- The attributes of bits [15:8] of MEM_PAGE_ATTR (Table 4.13). -/
def attrOfBits (v : Nat) : PageAttr :=
  { encrypt := v.testBit 15, mirror := v.testBit 14, publishable := v.testBit 13, hint := bits v 11 2, tier := bits v 8 3 }

/-- MEM_PAGE_ATTR as it reads (Table 4.13). -/
def attrBits (a : PageAttr) : Nat :=
  pack [(15, 1, bit a.encrypt), (14, 1, bit a.mirror), (13, 1, bit a.publishable), (11, 2, a.hint), (8, 3, a.tier)]

/-- The pages of a SIZE: 1 or 32. -/
def pagesOf (size : Nat) : Nat := if size = 0 then 1 else 32

/-- Where the page of a command lies: the number of its first page over all stacks. It must translate, readable and writable,
through a LOCAL window, all of it in one page of its SIZE (R355). -/
def pageHome (va size : Nat) : Prog Nat := do
  let gs ← (List.range (pagesOf size)).mapM fun i => resolveRw (va + i * 2 ^ 29)
  let g := gs.headD 0
  let s ← theState
  if nodeOf g ≠ thisNode s || g % pageBytes size ≠ 0 || gs ≠ (List.range (pagesOf size)).map fun i => g + i * 2 ^ 29 then failAt .protection va
  else return pageOfLine (lineNo (offOf g))

/-- The move record that covers any of some pages. -/
def moveOver (s : State) (page n : Nat) : Option MoveRec := s.mem.moves.find? fun m => m.page < page + n && page < m.page + m.pages

/-- Sets the attributes of pages in one update. -/
def setAttrs (page n : Nat) (f : PageAttr → PageAttr) (s : State) : State :=
  modMem (fun m => { m with attrs := (List.range n).foldl (fun t i => Tab.put {} t (page + i) (f (Tab.get {} t (page + i)))) m.attrs }) s

/-- The group of a page. -/
def groupOfPage (page : Nat) : Nat := page / 64

/-- HINT (R362). -/
def hintProg : Prog Done := do
  let b ← entryBytes
  let va := leAt b 0x10 8
  let size := leAt b 0x18 1
  let h := leAt b 0x19 1
  demand (size ≤ 1 && h ≤ 2 && zeroAt b 0x1A 38 && vaAlign va (pageBytes (min size 1)))
  let page ← pageHome va size
  let seen ← once fun _ s =>
    match moveOver s page (pagesOf size) with
    | none => (0, setAttrs page (pagesOf size) (fun a => { a with hint := h }) s)
    | some m => (if m.runner.isSome then 1 else 2, s)
  if seen = 0 then return okWith 0 0 0
  else if seen = 2 then failNow .tierFailed
  else hintWait page (pagesOf size) h
where
  /-- HINT waits until the running move has ended, then writes or finds the page split. -/
  hintWait (page n h : Nat) : Prog Done := do
    match moveOver (← theState) page n with
    | some m => if m.runner.isSome then waitHere else failNow .tierFailed
    | none =>
      onceDo fun _ s => setAttrs page n (fun a => { a with hint := h }) s
      return okWith 0 0 0

/-! ### TIER_MOVE (R356 to R361) -/

/-- Whether the pair of a page's group can be used by a move that sets MIRROR: NONE with a MIRROR record, or IN_STEP at the home
(05 "Mirror writes", R356). -/
def pairUsable (s : State) (g : Nat) : Bool :=
  let m := getMirror s g
  !m.partner && (m.state = .inStep || (m.state = .none && (Tab.find s.rig.cur.mirs g).isSome))

/-- Whether a move fails before it moves any line (R356). -/
def moveFails (s : State) (page n : Nat) (a : PageAttr) : Bool :=
  let l := page * 2 ^ 23
  (a.encrypt && (ownerKey s l).isNone) || (a.mirror && !pairUsable s (groupOfPage page)) ||
  (match moveOver s page n with
   | some _ => s.mem.moves.any fun m => decide (m.page < page + n) && decide (page < m.page + m.pages) && m.attr ≠ a
   | none => 4 ≤ (s.mem.moves.filter fun m => m.page / 256 = page / 256).length)

/-- A mirror packet of the home that is an access of the command: its answers, none while it has not been answered. -/
def mirrorAccess (f : Cmd → Nat → State → State) : Prog (List Fetched) := do
  let id ← takeId
  let c ← theCmd
  match answersOf c id with
  | a :: l => return a :: l
  | [] =>
    if c.access.any fun x => x.id = id then waitHere else
    let x : Access := { id := id, remote := true, write := false, addr := 0, va := 0, fill := false, share := none, dst := none }
    change fun s => f c id (modCmd c.qp c.count (fun c => { c with access := c.access ++ [x] }) s)
    match answersOf (← theCmd) id with
    | [] => waitHere
    | l => return l

/-- A pair packet of the home: PAIR_OPEN or PAIR_CLOSE with the state carried (R543). -/
def pairPkt (s : State) (t g line : Nat) (st : Pair) : Packet :=
  let m := getMirror s g
  { ptype := BitVec.ofNat 8 t, srcNode := BitVec.ofNat 16 (thisNode s), dstNode := BitVec.ofNat 16 m.node, code := BitVec.ofNat 8 g,
    addr := BitVec.ofNat 64 (globalAddr m.node ((m.group <<< 35) ||| (line * 64))), aux := BitVec.ofNat 8 (pairCode st) }

/-- Opens the pair of a group in state NONE with the node and group of its MIRROR record; a refusal or no answer leaves nothing
changed (05 "Mirror writes", R543). -/
def openPair (g : Nat) : Prog Unit := do
  let st ← onceNat fun _ s => pairCode (getMirror s g).state
  if pairOf st ≠ .none then return () else
  let r ← mirrorAccess fun c id s =>
    match Tab.find s.rig.cur.mirs g with
    | some m =>
      let s := modMirror g (fun x => { x with node := m.partnerNode, group := m.partnerGroup }) s
      sendMirror g .open [] (pairPkt s 0x33 g 0 .inStep) [] .ok (some (c.qp, c.count, id)) s
    | none => boothAnswer c.qp c.count id { status := .tierFailed } s
  match r with
  | a :: _ =>
    if a.status = .ok then onceDo fun _ s => modMirror g (fun x => { x with state := .inStep }) s
    else
      onceDo fun _ s => modMirror g (fun x => if x.state = .none then {} else x) s
      failNow .tierFailed
  | [] => waitHere

/-- Waits until none of the lines that a state names is held, with what was seen then (R111). -/
def awaitLines (ls : State → List Nat) (f : Cmd → State → LineData × State) : Prog LineData := do
  let id ← takeId
  let c ← theCmd
  match answersOf c id with
  | a :: _ => return a.data
  | [] =>
    let s ← theState
    if (ls s).any (lineHeld s) then waitHere else
    change fun s => keepSeen c.qp c.count id (f c s).1 (f c s).2
    return (f c s).1

/-- Waits until none of some lines is held. -/
def awaitFree (ls : List Nat) (f : Cmd → State → LineData × State) : Prog LineData := awaitLines (fun _ => ls) f

/-- A number observed once none of some lines is held. -/
def awaitNat (ls : List Nat) (f : State → Nat) : Prog Nat := do
  return (← awaitFree ls fun _ s => (BitVec.ofNat 512 (f s), s)).toNat

/-- What a command meets at a line before it reads it: 0 nothing, 1 an unusable channel, 2 a missing key, 3 a fence. -/
def barOf (s : State) (fences : Bool) (l : Nat) : Nat :=
  if fences && fenced s l then 3 else if !channelUp s l then 1 else if keyMissing s l then 2 else 0

/-- What a command meets at some lines before it reads them: 3 where any is fenced, else 2 where any wants its key, each such line posted, else 1
where any cannot be read, else 0 (R105, R115, R451). -/
def meetBars (fences : Bool) (ls : List Nat) : Prog Nat := do
  let v ← once fun c s =>
    let worst := (ls.map (barOf s fences)).foldl max 0
    (BitVec.ofNat 512 worst, if worst = 2 then eachS (ls.filter fun l => barOf s fences l = 2) (keyMissingOf (0x40 + c.booth) c.qp (thisNode s)) s else s)
  return v.toNat

/-- What a read of a line that is not poisoned finds of the lines read with it: which fail their checks lastingly and which only at the first
read (R147, R150). -/
def judged (s : State) (l : Nat) : List Nat × List Nat :=
  let ls := readTogether s l
  let bad := ls.filter (badCheck s)
  if !channelUp s l || (getLine s l).poison || bad.isEmpty && !s.upsets.any (strikesRead s l) then ([], [])
  else (bad, ls.filter fun n => !(getLine s n).poison && !bad.contains n)

/-- Some lines of a block as a mask. -/
def blockMask (ls : List Nat) : Nat := ls.foldl (fun a n => a ||| 1 <<< (n % 4)) 0

/-- The lines of a mask over the block of a line. -/
def ofBlockMask (l m : Nat) : List Nat := (blockLines l).filter fun n => m.testBit (n % 4)

/-- The read of a line by a command: its mismatches are settled, the lasting ones as `lasting` says, and it tells the lasting and the transient
lines; a block with a lasting line is stored plain where `fix` says so (R147, R150). -/
def readSettled (fix : Bool) (lasting : Nat → BitVec 32 → State → State) (l : Nat) : Prog (List Nat × List Nat) := do
  let v ← awaitLines (fun s => readTogether s l) fun _ s =>
    let j := judged s l
    (BitVec.ofNat 512 (pack [(0, 4, blockMask j.1), (4, 4, blockMask j.2)]),
     if j.1.isEmpty && j.2.isEmpty then s else settleRead (readTogether s l) fix lasting s)
  return (ofBlockMask l (bits v.toNat 0 4), ofBlockMask l (bits v.toNat 4 4))

/-- Those of some lines of a block that are poisoned, once none is held. -/
def poisonedOf (l : Nat) (ls : List Nat) : Prog (List Nat) := do
  if ls.isEmpty then return [] else
  return ofBlockMask l (← awaitNat ls fun s => blockMask (ls.filter fun n => (getLine s n).poison))

/-- The lines that a command's read of a line settles by a retry or a repair (R147, R361). -/
def settleOne (l : Nat) : Prog Nat := do
  let j ← readSettled true settleLasting l
  let p ← poisonedOf l j.1
  return j.1.length - p.length + j.2.length

/-- A line rewritten under the attributes in force on its side of P; its CHECK stays (R144, R358). -/
def moveLine (data : LineData) (l : Nat) (s : State) : State :=
  let v := getLine s l
  putLine l { v with data := data, flip := lineCheckOf s l v ^^^ lineCheck (checkAddr s l) data, tier := plainTier s l, key := storeKey s l, fmt := 0 } s

/-- The form that a move gives to a line that nothing has written: that of a block of zeros under the new attributes (R357, log 2). -/
def blankForm (s : State) (page : Nat) (a : PageAttr) : Line :=
  let packs : Bool := !s.power.compatA && ((elemOf a.tier).bind fun f => encodeBlock f (List.replicate 4 0) (List.replicate 4 0)).isSome
  let tier := if packs then 1 else if a.tier = 0 then 0 else if a.tier = 5 then 3 else if s.power.compatA then 0 else 2
  { tier := tier, fmt := if packs then a.tier else 0, key := if a.encrypt then ownerKey s (page * pageLines) else none }

/-- P of a running move advances to a block. -/
def setPtr (page l : Nat) (s : State) : State :=
  modMoves (fun m => m.map fun r => if r.page ≤ page && page < r.page + r.pages then { r with ptr := l } else r) s

/-- Whether a move clears MIRROR on a page. -/
def movesOff (m : MoveRec) (page : Nat) : Bool := (m.old.getD (page - m.page) {}).mirror && !m.attr.mirror

/-- A line of the home goes to the partner, the line held until it is accepted; a poisoned line's POISON follows it. Of a poisoned line whose
CHECK no longer fits its data only POISON goes, since a packet with that CHECK could not pass (R145, R155, R162, log 29). -/
def sendHome (l : Nat) (sweep : Bool) (s : State) : State :=
  let send (k : MirrorKind) (p : Packet) (s : State) : State := holdLine l .mirror (sendMirror (groupOfLine l) k [l] p [] .ok none s)
  let v := getLine s l
  let s := whenS (!v.poison || checkOk s l v) (send .write (mirrorLinePkt s 0x30 l sweep)) s
  whenS v.poison (send .metadata (mirrorMetaPkt s l sweep)) s

/-- The block at P rewritten under the new attributes, P advanced past it, and its lines sent to the partner when MIRROR is set
(R357). -/
def moveBlock (page l : Nat) (s : State) : State :=
  let ls := blockLines l
  let vs := ls.map fun n => (n, if (getLine s n).poison then (getLine s n).data else viewData s n (getLine s n))
  let clears := match moveOver s page 1 with | some m => movesOff m (pageOfLine l) | none => false
  let s := setPtr page (l + 4) s
  let s := eachS vs (fun p s => moveLine p.2 p.1 s) s
  let s := whenS ((elemOf (attrOf s l).tier).isSome && !s.power.compatA) (rewriteBlock l) s
  let s := whenS clears (modHome fun h => { h with fences := h.fences.filter fun x => !ls.contains x }) s
  eachS ls (fun n s => whenS (mirrored s n) (sendHome n false) s) s

/-- The counts of a move: lines found or made poisoned, lines settled, blocks stored compressed. -/
structure Moved where
  poisoned : Nat
  settled : Nat
  packed : Nat
deriving DecidableEq, Repr

/-- The first block of a move from `at_` that is not all lines that nothing has written; those before it are rewritten together, each to the
form of the move, as P passes them (R357, log 29). With MIRROR to be set, where a line may be unreadable, or where the move would now
give another form, it is the block at `at_`. -/
def nextBlock (s : State) (page at_ last : Nat) : Nat :=
  let alone := match moveOver s page 1 with | some m => m.attr.mirror || m.form ≠ blankForm s (pageOfLine at_) m.attr | none => false
  if alone || (getStack s (stackOfLine at_)).up ≠ BitVec.allOnes 32 || keyMissing s at_ then at_
  else (s.mem.lines.map Prod.fst ++ s.mem.holds.map Prod.fst ++ s.home.fences).foldl (fun a l => if at_ ≤ l && l < last then min a (blockOfLine l) else a) last

/-- The blocks from `at_` to `l` rewritten as P passes them, with the counts of R134: how many stand compressed (R126, R129). -/
def passBlocks (page at_ l : Nat) (s : State) : Nat × State :=
  let n := (l - at_) / 4
  match moveOver s page 1 with
  | some m =>
    let packed := m.form.tier = 1
    let counted (x : MemStack) : MemStack :=
      if packed then { x with compressed := satAdd 32 x.compressed n }
      else if m.form.tier = 2 then { x with plain := satAdd 32 x.plain n } else x
    (if packed then n else 0, setPtr page l (modStack (stackOfLine at_) counted s))
  | none => (0, s)

/-- One block of a move; `base` is the address of its first line (R357). -/
def moveOne (page base : Nat) (a : Moved) (l : Nat) : Prog Moved := do
  let ls := blockLines l
  let off ← onceNat fun _ s => bit (match moveOver s page 1 with | some m => movesOff m (pageOfLine l) | none => false)
  let bar ← meetBars (off = 0) ls
  if bar = 1 then failAt .poisoned base
  if bar = 2 then failAt .protection base
  if bar = 3 then failAt .stateLost base
  let r ← ls.foldlM (fun (r : Nat) n => do return r + (← settleOne n)) 0
  let _ ← awaitFree ls fun _ s => (0, moveBlock page l s)
  tookEffect
  let seen ← awaitFree ls fun _ s =>
    (BitVec.ofNat 512 (pack [(0, 8, (ls.filter fun n => (getLine s n).poison).length), (8, 1, bit (blockCompressed s l))]), s)
  return { poisoned := a.poisoned + bits seen.toNat 0 8, settled := a.settled + r, packed := a.packed + bits seen.toNat 8 1 }

/-- The blocks of a move from `at_` to `last`, with fuel; `base` is the address of line 0 of the store, as the command's page gives it
(R357). -/
def moveRun (page base last : Nat) : Nat → Nat → Moved → Prog Moved
  | 0, _, a => pure a
  | f + 1, at_, a => do
    let v ← once fun _ s =>
      let l := nextBlock s page at_ last
      let r := passBlocks page at_ l s
      (BitVec.ofNat 512 (pack [(0, 64, l), (64, 64, r.1)]), r.2)
    let l := bits v.toNat 0 64
    let a := { a with packed := a.packed + bits v.toNat 64 64 }
    if at_ < l then tookEffect
    if last ≤ l then return a else
    moveRun page base last f (l + 4) (← moveOne page ((base + 64 * l) % 2 ^ 64) a l)

/-- The end of a move: the registers take NEW_ATTR, the record is freed, the lines that nothing has written keep the form it gave them, and a
pair without a mirrored page is closed (R357, R359). -/
def endMove (m : MoveRec) (s : State) : State :=
  let keep (t : Tab Line) : Tab Line := (List.range m.pages).foldl (fun t i => Tab.put {} t (m.page + i) m.form) t
  let s := modForms (fun x => { x with blank := keep x.blank, moves := x.moves.filter fun r => r.page ≠ m.page }) (setAttrs m.page m.pages (fun _ => m.attr) s)
  let g := groupOfPage m.page
  let x := getMirror s g
  let left := (List.range 64).any fun i => (Tab.get {} s.mem.attrs (64 * g + i)).mirror
  let under := s.mem.moves.any fun r => groupOfPage r.page = g && (r.attr.mirror || r.old.any PageAttr.mirror)
  if m.attr.mirror || left || under || x.partner || x.state = .none || x.state = .promoted then s
  else modMirror g (fun _ => {}) (sendMirror g .open [] (pairPkt s 0x34 g 0 .none) [] .ok none s)

/-- What the moves of one command have done: their counts, the lines rewritten, and whether a pair broke under one. -/
structure MoveSum where
  counts : Moved
  lines : Nat
  broke : Bool
deriving DecidableEq, Repr

/-- One move of a command, from where its record's pointer stands to its end (R356, R357). -/
def runMove (base page pages ptr : Nat) (x : MoveSum) : Prog MoveSum := do
  let last := (page + pages) * pageLines
  let r ← moveRun page base last ((last - ptr) / 4 + 1) ptr x.counts
  let bad ← once fun _ s =>
    match moveOver s page 1 with
    | some m => (BitVec.ofNat 512 (bit m.broke), endMove m s)
    | none => (0, s)
  return { counts := r, lines := x.lines + (last - ptr), broke := x.broke || bad = 1 }

/-- The record of the move: 0 when it fails, 1 when it is new, 2 when it resumes one left split; it waits while another command runs
an equal move. -/
def moveStart (page n : Nat) (a : PageAttr) : Prog Nat := do
  let id ← takeId
  let c ← theCmd
  match answersOf c id with
  | x :: _ => return x.data.toNat
  | [] =>
    let s ← theState
    let me := some (c.qp, c.count)
    if moveFails s page n a then
      change (keepSeen c.qp c.count id 0)
      return 0
    else match moveOver s page n with
      | some m =>
        if m.runner.isSome then waitHere else
        change fun s => keepSeen c.qp c.count id 2 (modMoves (fun l => l.map fun r => if r = m then { r with runner := me, broke := false } else r) s)
        return 2
      | none =>
        let old := (List.range n).map fun i => Tab.get {} s.mem.attrs (page + i)
        let r : MoveRec := { page := page, pages := n, attr := a, old := old, ptr := page * pageLines, runner := me, form := blankForm s page a,
                             broke := false }
        change fun s => keepSeen c.qp c.count id 1 (modMoves (fun l => l ++ [r]) s)
        return 1

/-- The pair is opened before any line moves; when it cannot be, a record made for this move leaves with nothing changed. -/
def moveOpen (page n : Nat) (fresh : Bool) : Prog Unit := fun x =>
  match (openPair (groupOfPage page)).run x with
  | (.ok r, y) => (.ok r, y)
  | (.error .wait, y) => (.error .wait, y)
  | (.error f, y) => (.error f, { y with s := if fresh then modMoves (fun l => l.filter fun r => !(r.page = page && r.pages = n)) y.s else y.s })

/-- The moves of the command, with fuel: a move left split that covers its pages is resumed, and is all; those left split among its pages
are run to their ends before its own (R356, R360, log 29). -/
def moveAll (page n base : Nat) (a : PageAttr) : Nat → MoveSum → Prog MoveSum
  | 0, x => pure x
  | f + 1, x => do
    let kind ← moveStart page n a
    if kind = 0 then failNow .tierFailed
    if a.mirror then moveOpen page n (kind = 1)
    let w ← once fun _ s =>
      match moveOver s page n with
      | some m => (BitVec.ofNat 512 (pack [(0, 64, m.page), (64, 64, m.pages), (128, 64, m.ptr)]), s)
      | none => (0, s)
    let at_ := bits w.toNat 0 64
    let pages := bits w.toNat 64 64
    let x ← runMove base at_ pages (bits w.toNat 128 64) x
    if at_ ≤ page && page + n ≤ at_ + pages then return x else moveAll page n base a f x

/-- TIER_MOVE. -/
def tierMoveProg : Prog Done := do
  let b ← entryBytes
  let va := leAt b 0x10 8
  let size := leAt b 0x18 1
  let v := leAt b 0x1A 2
  let a := attrOfBits v
  demand (size ≤ 1 && zeroAt b 0x19 1 && v % 256 = 0 && a.hint ≤ 2 && a.tier ≤ 5 && zeroAt b 0x1C 36 && vaAlign va (pageBytes (min size 1)))
  let page ← pageHome va size
  let n := pagesOf size
  let base := 2 ^ 64 + va - 64 * (page * pageLines) % 2 ^ 64
  let none_ : MoveSum := { counts := { poisoned := 0, settled := 0, packed := 0 }, lines := 0, broke := false }
  let r ← moveAll page n base a (n + 1) none_
  if r.broke then failNow .tierFailed
  return { status := if r.counts.settled = 0 then .ok else .okRetried,
           result := BitVec.ofNat 128 (pack [(0, 64, r.lines), (64, 32, r.counts.poisoned), (96, 32, r.counts.settled)]),
           detail := BitVec.ofNat 32 r.counts.packed }

/-! ### Comparison of the copies of a line (R163, R164) -/

/-- How a comparison of two copies ended. -/
inductive Compared where
  | same
  | repaired
  | diverged
  | bothBad
  | spread
  | unsettled
  | broke
deriving DecidableEq, Repr

/-- The code of an outcome, as a command keeps it. -/
def comparedCode : Compared → Nat
  | .same => 0 | .repaired => 1 | .diverged => 2 | .bothBad => 3 | .spread => 4 | .unsettled => 5 | .broke => 6

/-- The outcome of a code. -/
def comparedOf (n : Nat) : Compared :=
  match n with
  | 0 => .same | 1 => .repaired | 2 => .diverged | 3 => .bothBad | 4 => .spread | 5 => .unsettled | _ => .broke

/-- A log entry and its record for an outcome at a line (R151). -/
def reportLine (l outcome : Nat) (c : Status) (found : BitVec 32) (s : State) : State := postLine l outcome c (logEntry (lineLog s l outcome found) s)

/-- Poisons both copies with a reason, the outcome logged, counted and posted (R155, R163). -/
def poisonBoth (l reason outcome : Nat) (c : Status) (found : BitVec 32) (s : State) : State :=
  let s := modInteg (fun x => { x with poisoned := satInc 32 x.poisoned }) (setPoison l reason s)
  let s := holdLine l .mirror (sendMirror (groupOfLine l) .metadata [l] (mirrorMetaPkt s l false) [] .ok none s)
  reportLine l outcome c found s

/-- POISON and REASON of the one copy set on the other, logged and posted (R151, R155, R164). -/
def spreadPoison (l reason : Nat) (found : BitVec 32) (s : State) : State :=
  let v := getLine s l
  let s := if v.poison then s else
    modInteg (fun x => { x with poisoned := if reason = 0 || reason = 2 then satInc 32 x.poisoned else x.poisoned }) (setPoison l reason s)
  let s := holdLine l .mirror (sendMirror (groupOfLine l) .metadata [l] (mirrorMetaPkt s l false) [] .ok none s)
  reportLine l 3 .poisoned found s

/-- The home's copy of a line read for a comparison, with the single retry: a mismatch that vanishes is transient, one that persists is counted
and left to the comparison; the lasting lines read with it are settled as their own reads settle them, or left where `fix` does not say so
(R147, R150, R163, R171, R175). -/
def homeRead (l : Nat) (fix : Bool) (s : State) : State :=
  let lasting (n : Nat) (found : BitVec 32) (s : State) : State :=
    if n = l then modInteg (fun x => { x with lasting := satInc 32 x.lasting }) s
    else if fix then settleLasting n found s else lastingLeft n found s
  let j := judged s l
  if j.1.isEmpty && j.2.isEmpty then s else settleRead (readTogether s l) fix lasting s

/-- A comparison that ends with no answer of the partner: a home copy whose mismatch persisted has no good copy, and is poisoned when the pair
broke; after a path failure, or with `fix` false, it is left, logged and posted (R147, R151, R163, R170, log 29). -/
def leaveCompare (l : Nat) (fix broke : Bool) (found : BitVec 32) (s : State) : State :=
  if !channelUp s l || !badCheck s l then s
  else if fix && broke then settlePoisoned l found s else reportLine l 8 .poisoned found s

/-- The home copy is rewritten from the partner's (R163). -/
def takePartner (l : Nat) (p : LineData) (check : BitVec 32) (seq : BitVec 12) (outcome : Nat) (found : BitVec 32) (s : State) : State :=
  let e := lineLog s l outcome found
  let s := modInteg (fun x => { x with repaired := satInc 32 x.repaired }) (rewriteLine l p check seq (checkAddr s l) s)
  postLine l outcome .okRetried (logEntry e s)

/-- The partner copy is rewritten from the home's (R163). -/
def givePartner (l outcome : Nat) (sweep : Bool) (found : BitVec 32) (s : State) : State :=
  let e := lineLog s l outcome found
  let s := modInteg (fun x => { x with repaired := satInc 32 x.repaired }) (sendHome l sweep s)
  postLine l outcome .okRetried (logEntry e s)

/-- The settling of two copies: the home line and the partner's answer, whose second line holds its check slot and CODE (R163, R164,
Table 5.9). With `fix` false nothing is written: the difference is logged and posted (R171). DEDUCED (log 29): a partner copy that fails its check
while the home's passes is then reported as SEQ_DIFFERS and counted with those, the manual naming no outcome for it; copies that differ
in poison are reported as DIVERGENT, SEQ not deciding between them. `found` is the check that the home's read found first (R152). -/
def settlePair (l : Nat) (fix sweep : Bool) (found : BitVec 32) (as : List Fetched) (s : State) : Compared × State :=
  match as with
  | a :: m :: _ =>
    let v := getLine s l
    let b := lineBytes m.data
    let check := BitVec.ofNat 32 (leAt b 0 4)
    let seq := BitVec.ofNat 12 (leAt b 4 2)
    let far := leAt b 6 1 % 2 = 1
    let good := leAt b 16 1 = 0
    let mine := checkOk s l v
    if v.poison || far then
      if v.poison && far && v.reason = leAt b 7 1 then (.same, s)
      else if !fix then (.spread, reportLine l 10 .poisoned found s)
      else (.spread, spreadPoison l (leAt b 7 1 % 8) found s)
    else if !mine && !good then
      if fix then (.bothBad, poisonBoth l 0 3 .poisoned found s) else (.bothBad, reportLine l 8 .poisoned found s)
    else if !mine then
      if fix then (.repaired, takePartner l a.data check seq 2 found s) else (.repaired, reportLine l 9 .okRetried found s)
    else if !good then
      if fix then (.repaired, givePartner l 2 sweep found s) else (.repaired, reportLine l 9 .okRetried found s)
    else
      let d := (v.seq - seq).toNat
      if d = 0 && a.data = viewData s l v then (.same, s)
      else if d = 0 || d = 2048 then
        if fix then (.diverged, poisonBoth l 2 6 .diverged found s) else (.diverged, reportLine l 10 .diverged found s)
      else if !fix then (.repaired, reportLine l 9 .okRetried found s)
      else if d < 2048 then (.repaired, givePartner l 7 sweep found s)
      else (.repaired, takePartner l a.data check seq 7 found s)
  | a :: _ =>
    let broke : Bool := a.status = .targetDead
    (if broke then .broke else .unsettled, leaveCompare l fix broke found s)
  | [] => (.unsettled, s)

/-- Compares a line with its partner copy and settles the two, the line held meanwhile (R148, R163). -/
def compareOne (l : Nat) (fix sweep : Bool) : Prog Compared := do
  let found ← awaitLines (fun s => readTogether s l) fun c s =>
    ((foundCheck s l ^^^ struckBits s l).setWidth 512, holdLine l (.cmd c.qp c.count) (homeRead l fix s))
  let as ← mirrorAccess fun c id s => askPartner l .compare [] (some (c.qp, c.count, id)) s
  let r ← once fun c s =>
    let s := if Tab.find s.mem.holds l = some (.cmd c.qp c.count) then freeLine l s else s
    let x := settlePair l fix sweep (found.setWidth 32) as s
    (BitVec.ofNat 512 (comparedCode x.1), x.2)
  return comparedOf r.toNat

/-! ### SCRUB (R169 to R172) -/

/-- Whether a range of offsets lies in LOCAL windows of a partition that permit what is asked, with fuel (R169). -/
def rangeIn (m : Maps) (part : Nat) (wr : Bool) : Nat → Nat → Nat → Bool
  | 0, _, _ => false
  | f + 1, a, n =>
    if n = 0 then true else
    match findWin m part 1 a 64 with
    | some (_, e) =>
      let k := min n (winBase e + winSize e - a)
      winRead e && (!wr || winWrite e) && rangeIn m part wr f (a + k) (n - k)
    | none => false

/-- What a scrub's read of a line comes to: sound, transient, repaired, poisoned by it, lasting and left. -/
inductive Judged where
  | sound | transient | repaired | poisoned | left
deriving DecidableEq, Repr

/-- The counts of a scrub (Table 5.12), the groups it compares no more (R170), and what the reads of compressed blocks came to for lines that
it has not reached (R150). -/
structure Scrub where
  read : Nat
  transient : Nat
  lasting : Nat
  repaired : Nat
  poisoned : Nat
  already : Nat
  diverged : Nat
  firstBad : Option Nat
  lastBad : Option Nat
  skip : List Nat
  ahead : List (Nat × Judged)
deriving DecidableEq, Repr

/-- Counts a bad line at a global address. -/
def Scrub.bad (x : Scrub) (a : Nat) : Scrub := { x with firstBad := some (x.firstBad.getD a), lastBad := some a }

/-- What a scrub meets at a line: 0 a line that it reads, 1 one poisoned or unreadable, 2 one that only the partner can serve (R105). -/
def scrubMeets (s : State) (l : Nat) : Nat :=
  if !channelUp s l then
    (if (attrOf s l).mirror && !(getMirror s (groupOfLine l)).partner && (getMirror s (groupOfLine l)).state = .inStep then 2 else 1)
  else bit (getLine s l).poison

/-- A scrub's read of a line, with what it comes to for every line read with it (R147, R150, R170). -/
def scrubRead (fix : Bool) (l : Nat) : Prog (List (Nat × Judged)) := do
  let j ← readSettled fix (if fix then settleLasting else lastingLeft) l
  let p ← if fix then poisonedOf l j.1 else pure []
  let of (n : Nat) : Judged := if !fix then .left else if p.contains n then .poisoned else .repaired
  return (j.1.map fun n => (n, of n)) ++ j.2.map fun n => (n, .transient)

/-- What the read of a line came to, counted (Table 5.12); a transient line is not bad. -/
def Scrub.count (x : Scrub) (a : Nat) : Judged → Scrub
  | .sound => x
  | .transient => { x with transient := x.transient + 1 }
  | .repaired => { x with lasting := x.lasting + 1, repaired := x.repaired + 1 }.bad a
  | .poisoned => { x with lasting := x.lasting + 1, poisoned := x.poisoned + 1 }.bad a
  | .left => { x with lasting := x.lasting + 1 }.bad a

/-- Whether a scrub compares a line with its partner (R170, R171). -/
def scrubCompares (s : State) (l : Nat) (x : Scrub) : Bool :=
  let m := getMirror s (groupOfLine l)
  (attrOf s l).mirror && !m.partner && (m.state = .inStep || m.state = .resyncing) && channelUp s l && !x.skip.contains (groupOfLine l)

/-- A line that a scrub compares with its partner (R170, R171): `met` says that the line was poisoned or unreadable. -/
def scrubPair (fix : Bool) (x : Scrub) (l a : Nat) (met : Bool) : Prog Scrub := do
  match ← compareOne l fix false with
  | .same => return x
  | .repaired => return if fix then { x with repaired := x.repaired + 1 } else { x with repaired := x.repaired + 1 }.bad a
  | .diverged => return { x with diverged := x.diverged + 1, poisoned := x.poisoned + bit fix }.bad a
  | .bothBad => return { x with poisoned := x.poisoned + bit fix }.bad a
  | .spread => return if met then x else { x with poisoned := x.poisoned + bit fix, already := x.already + bit (!fix) }.bad a
  | .unsettled => return x
  | .broke => return { x with skip := groupOfLine l :: x.skip }

/-- One line of a scrub (R170, R171). -/
def scrubLine (fix compare : Bool) (x : Scrub) (l : Nat) : Prog Scrub := do
  let bar ← meetBars true [l]
  if bar = 2 then failNow .protection
  if bar = 3 then failNow .stateLost
  let a := globalAddr (thisNode (← theState)) (l * 64)
  let x := { x with read := x.read + 1 }
  let known := x.ahead.find? fun e => e.1 = l
  let met ← if known.isSome then pure 0 else awaitNat [l] (scrubMeets · l)
  let js ← match known with
    | some e => pure [e]
    | none => if met = 0 then scrubRead fix l else pure []
  tookEffect
  let mine := ((js.find? fun e => e.1 = l).map Prod.snd).getD .sound
  let x := { x with ahead := (x.ahead ++ js).filter fun e => l < e.1 }
  let x := if met = 1 then { x with already := x.already + 1 }.bad a else x.count a mine
  let go ← onceNat fun _ s => bit (compare && mine ≠ .left && (met = 1 || !(getLine s l).poison) && scrubCompares s l x)
  if go = 0 then return x else scrubPair fix x l a (met = 1)

/-- The SCRUB commands that a device runs before one of a place. -/
def scrubsBefore (s : State) (c : Cmd) : Nat := (s.cmds.filter fun d => d.begun && cmdOp d = 0x20 && d.order < c.order && !barred s d).length

/-- SCRUB. -/
def scrubProg : Prog Done := do
  let b ← entryBytes
  let start := leAt b 0x10 8
  let len := leAt b 0x18 8
  let sum := leAt b 0x20 8
  let flags := leAt b 0x28 1
  let fix := flags.testBit 0
  demand (flags ≤ 3 && zeroAt b 0x29 23 && start % 64 = 0 && decide (start < 2 ^ 58) && lengthOk len (2560 * 2 ^ 30) && vaAlign sum 64)
  let c ← theCmd
  let ok ← onceNat fun c s => bit (nodeOf start = thisNode s && rangeIn (mapsAt s c.epoch) c.part fix 16384 start len)
  if ok = 0 then failNow .protection
  let _ ← onceNat fun _ _ => 0
  if 4 ≤ scrubsBefore (← theState) c then waitHere
  let x ← ((List.range (len / 64)).map fun i => lineNo (offOf start) + i).foldlM (scrubLine fix (flags.testBit 1))
    { read := 0, transient := 0, lasting := 0, repaired := 0, poisoned := 0, already := 0, diverged := 0, firstBad := none, lastBad := none, skip := [],
      ahead := [] }
  let all := 2 ^ 64 - 1
  writeTo sum (BitVec.ofNat 512 (pack [(0, 64, x.read), (64, 64, x.transient), (128, 64, x.lasting), (192, 64, x.repaired), (256, 64, x.poisoned),
    (320, 32, min x.already (2 ^ 32 - 1)), (352, 32, min x.diverged (2 ^ 32 - 1)), (384, 64, x.firstBad.getD all), (448, 64, x.lastBad.getD all)])) none
  let st : Status :=
    if x.diverged ≠ 0 then .diverged
    else if x.poisoned ≠ 0 || x.already ≠ 0 || (!fix && x.lasting ≠ 0) then .poisoned
    else if x.transient ≠ 0 || x.repaired ≠ 0 then .okRetried else .ok
  let lo ← freeWord
  let hi ← freeWord
  return { status := st, result := hi ++ lo, detail := (← freeWord).setWidth 32 }

/-! ### MIRROR_RESYNC and MIRROR_PROMOTE (R161 to R165) -/

/-- A completion whose RESULT and DETAIL no rule states (log 5). -/
def openDone (st : Status) : Prog Done := do
  let lo ← freeWord
  let hi ← freeWord
  return { status := st, result := hi ++ lo, detail := (← freeWord).setWidth 32 }

/-- Whether the queue pair's partition owns a group (R161). -/
def ownsGroup (s : State) (c : Cmd) (g : Nat) : Bool := groupOwner (mapsAt s c.epoch) g = some c.part

/-- Begins a resync: refused on a group that is not the home of a pair, waiting while another resync holds it; the state it found
otherwise (R161, R162). -/
def resyncStart (g : Nat) : Prog Pair := do
  let id ← takeId
  let c ← theCmd
  match answersOf c id with
  | x :: _ => return pairOf x.data.toNat
  | [] =>
    let s ← theState
    let m := getMirror s g
    if m.partner || m.state = .none || m.state = .promoted then failNow .protection else
    if m.resync.isSome then waitHere else
    change fun s => keepSeen c.qp c.count id (BitVec.ofNat 512 (pairCode m.state))
      (modMirror g (fun m => { m with state := .resyncing, resync := some (c.qp, c.count) }) s)
    return m.state

/-- PAIR_OPEN of a resync with a state; a failure is a break of the pair (R159, R543). -/
def resyncOpen (g line : Nat) (st : Pair) : Prog Unit := do
  let r ← mirrorAccess fun c id s => sendMirror g .reopen [] (pairPkt s 0x33 g line st) [] .ok (some (c.qp, c.count, id)) s
  match r with
  | a :: _ => if a.status = .ok then pure () else failNow .targetDead
  | [] => waitHere

/-- One line of a sweep with FROM_HOME: read at the home, its fence lifted, sent to the partner (R162). -/
def sweepLine (l : Nat) : Prog Unit := do
  let bar ← meetBars false [l]
  if bar = 2 then failNow .protection
  let _ ← readSettled true settleLasting l
  let _ ← awaitFree [l] fun _ s =>
    let s := modHome (fun h => { h with fences := h.fences.filter (· ≠ l) }) s
    (0, if (getMirror s (groupOfLine l)).state = .resyncing && channelUp s l then sendHome l true s else s)
  let _ ← awaitFree [l] fun _ s => (0, s)

/-- One line of a resync; whether a copy was repaired (R162, R163). A comparison passes a line whose home copy cannot be read (R105). -/
def resyncLine (g : Nat) (fromHome mended : Bool) (l : Nat) : Prog Bool := do
  let go ← onceNat fun _ s => bit ((attrOf s l).mirror && (fromHome || channelUp s l))
  if go = 0 then return mended else
  let fixed ← if fromHome then (do sweepLine l; return false)
    else do
      let bar ← meetBars false [l]
      if bar = 2 then failNow .protection
      let r ← compareOne l true true
      let _ ← awaitFree [l] fun _ s => (0, s)
      if r = .broke then failNow .targetDead
      return decide (r = .repaired)
  let st ← onceNat fun _ s => pairCode (getMirror s g).state
  if pairOf st ≠ .resyncing then failNow .targetDead
  return mended || fixed

/-- MIRROR_RESYNC. DESIGN CHOICE (log 61): R543 gives ADDRESS of a PAIR_OPEN for opening a pair and for beginning a resync alone; the one that ends
a sweep carries FIRST_LINE again. -/
def mirrorResyncProg : Prog Done := do
  let b ← entryBytes
  let g := leAt b 0x10 1
  let first := leAt b 0x18 4
  let count := leAt b 0x1C 4
  let size := 2 ^ 29
  demand (g ≤ 79 && leAt b 0x11 1 ≤ 1 && zeroAt b 0x12 6 && zeroAt b 0x20 32 && decide (first < size) && decide (first + count ≤ size))
  let own ← onceNat fun c s => bit (ownsGroup s c g)
  if own = 0 then failNow .protection
  let was ← resyncStart g
  tookEffect
  resyncOpen g first .resyncing
  let n := if count = 0 then size - first else count
  let mended ← ((List.range n).map fun i => g * size + first + i).foldlM (resyncLine g (leAt b 0x11 1 = 1)) false
  let back : Pair := if first = 0 && n = size then .inStep else was
  resyncOpen g first back
  onceDo fun _ s => modMirror g (fun m => { m with state := back, resync := none }) s
  openDone (if mended then .okRetried else .ok)

/-- Poisons every line of a group from an index on (step 4 of Table 5.10). -/
def poisonFrom (g i : Nat) (s : State) : State :=
  eachS ((List.range (2 ^ 29 - i)).map fun k => g * 2 ^ 29 + i + k) (setPoison · 3) s

/-- Every line of a group in directory state I (step 5 of Table 5.10). -/
def clearDirs (g : Nat) (s : State) : State :=
  let s := modHome (fun h => { h with cache := h.cache.filter fun e => groupOfLine e.line ≠ g }) s
  eachS (s.mem.lines.filter fun e => groupOfLine e.1 = g) (fun e s => writeDir e.1 0 s) s

/-- The promotion of a group (steps 4 to 6 of Table 5.10). -/
def promote (g : Nat) (force : Bool) (old : Pair) (c : Cmd) (s : State) : State :=
  let m := getMirror s g
  let s := whenS (force && old = .resyncing) (poisonFrom g m.highWater) s
  post { recOf s 0x0014 0 (partNo (groupOwner s.rig.cur g)) (0x40 + c.booth) with detail := g, node := m.node } (clearDirs g s)

/-- MIRROR_PROMOTE. -/
def mirrorPromoteProg : Prog Done := do
  let b ← entryBytes
  let g := leAt b 0x10 1
  let force : Bool := leAt b 0x11 1 = 1
  demand (g ≤ 79 && leAt b 0x11 1 ≤ 1 && zeroAt b 0x12 46)
  let own ← onceNat fun c s => bit (ownsGroup s c g)
  if own = 0 then failNow .protection
  let was ← once fun _ s =>
    let m := getMirror s g
    if !m.partner then (255, s)
    else if m.state = .inStep || (force && (m.state = .broken || m.state = .resyncing)) then
      (BitVec.ofNat 512 (pairCode m.state), modMirror g (fun m => { m with state := .promoted, partner := false }) s)
    else (254, s)
  if was = 255 then failNow .protection
  if was = 254 then openDone .stateLost
  else
    let queued (s : State) : Bool := s.mem.parked.any fun p =>
      0x30 ≤ p.req.pkt.ptype.toNat && p.req.pkt.ptype.toNat ≤ 0x32 && groupOfLine (lineNo (offOf p.req.pkt.addr.toNat)) = g
    let fin ← promoteDrain queued
    if fin then onceDo fun c s => promote g force (pairOf was.toNat) c s
    tookEffect
    openDone .ok
where
  /-- Waits until no mirror packet of the group is queued (step 3). -/
  promoteDrain (queued : State → Bool) : Prog Bool := do
    let id ← takeId
    let c ← theCmd
    if !(answersOf c id).isEmpty then return true else
    if queued (← theState) then waitHere else
    change (keepSeen c.qp c.count id 0)
    return true

end Sys2Proof.Machine
end

