-- ==== Sys2Proof/Machine/Reduce.lean ====
section
/-! DEFINITION. REDUCE_LOCAL and REDUCE_REMOTE (R345 to R349). -/

namespace Sys2Proof.Machine

/-- The bytes of an element of a FORMAT (Table 11.2). -/
def redBytes (f : Nat) : Nat := match f with | 0 => 4 | 1 => 2 | 2 => 2 | 3 => 4 | _ => 8

/-- The floating-point format of a FORMAT, none for the integers. -/
def redFmt (f : Nat) : Option Fmt := match f with | 0 => some fp32 | 1 => some bf16 | 2 => some fp16 | _ => none

/-- The lower of two numbers that are not NaN, -0 below +0 (Table 11.3). -/
def redLess (f : Fmt) (a b : Nat) : Bool :=
  ltV (f.decode a) (f.decode b) || (!ltV (f.decode b) (f.decode a) && a.testBit f.sign && !b.testBit f.sign)

/-- One element of a floating-point reduce (Table 11.3). -/
def redFloat (f : Fmt) (op : Nat) (xs : List Nat) : Nat :=
  if xs.any fun x => f.decode x = .nan then f.nanCode else
  match xs with
  | [] => 0
  | x :: t =>
    if op = 0 then f.encode (val (t.foldl (fun r y => fadd r (toF32 (f.decode y))) (toF32 (f.decode x))))
    else t.foldl (fun r y => if op = 1 then (if redLess f y r then y else r) else if redLess f r y then y else r) x

/-- One element of an integer reduce (Table 11.3). -/
def redInt (w op : Nat) (xs : List Nat) : Nat :=
  match xs with
  | [] => 0
  | x :: t =>
    if op = 0 then t.foldl (fun r y => (r + y) % 2 ^ w) x
    else t.foldl (fun r y =>
      if op = 1 then (if signedOf w y < signedOf w r then y else r) else if signedOf w r < signedOf w y then y else r) x

/-- One element of the result. -/
def redElem (fmt op : Nat) (xs : List Nat) : Nat :=
  match redFmt fmt with
  | some f => redFloat f op xs
  | none => redInt (8 * redBytes fmt) op xs

/-- Whether a result element is a NaN or infinite; never for an integer format (R348). -/
def redWild (fmt v : Nat) : Bool :=
  match redFmt fmt with
  | some f => match f.decode v with | .fin _ _ _ => false | _ => true
  | none => false

/-- The elements of a result line from the operand lines. -/
def redLine (fmt op : Nat) (ls : List LineData) : List Nat :=
  let n := redBytes fmt
  (List.range (64 / n)).map fun i => redElem fmt op (ls.map fun d => lineField d (n * i) n)

/-- The line of elements of `n` bytes. -/
def lineOfElems (n : Nat) (es : List Nat) : LineData := lineOf (es.flatMap fun e => leBytes n e)

/-- Whether a source's range overlaps the destination without being equal to it (R346). -/
def badOverlap (src dst len : Nat) : Bool := src ≠ dst && rangesMeet src dst len

/-- A reduce; `remote` tells REDUCE_REMOTE from REDUCE_LOCAL. -/
def reduceProg (remote : Bool) : Prog Done := do
  let b ← entryBytes
  let list := leAt b 0x10 8
  let dst := leAt b 0x18 8
  let len := leAt b 0x20 8
  let count := leAt b 0x28 1
  let op := leAt b 0x29 1
  let fmt := leAt b 0x2A 1
  let flags := leAt b 0x2B 1
  let acc := flags.testBit 0
  demand (1 ≤ count && count ≤ 16 && op ≤ 2 && fmt ≤ 4 && flags ≤ 3 && !(remote && acc) && zeroAt b 0x2E 18)
  let ctr ← counterOf (flags.testBit 1) (leAt b 0x2C 2)
  demand (vaAlign list 8 && vaAlign dst 64 && lengthOk len rangeLimit)
  let bs ← readBytes list (8 * count)
  let srcs := (List.range count).map fun i => leAt bs (8 * i) 8
  demand (srcs.all fun x => vaAlign x 64 && !badOverlap x dst len)
  let ops := (if acc then [dst] else []) ++ srcs
  let via : Via := if remote then .remoteWin else .localWin
  let wild ← (List.range (len / 64)).foldlM (fun (wild : Nat) j => do
    let ls ← ops.mapM fun x => readSource (x + 64 * j) (dst + 64 * j)
    let es := redLine fmt op ls
    writeVia via (dst + 64 * j) (lineOfElems (redBytes fmt) es) none ctr
    return wild + (es.filter (redWild fmt)).length) 0
  return okWith (len / 64) (min wild (2 ^ 32 - 1)) ops.length

end Sys2Proof.Machine
end

