-- ==== Sys2Proof/Machine/Sites.lean ====
section
/-! DEFINITION. UCIe sites (13): training, failure, power windows, their control registers, and the waits of a site die (07). -/

namespace Sys2Proof.Machine

/-! ### Going DOWN (R423, R424) -/

/-- The SITE record of a site. -/
def siteRec (s : State) (k : Nat) : Option SiteRec := Tab.find s.rig.cur.sites k

/-- What the home remembers of a site's requests that met RETRY is forgotten with the die that is to send them again (R23, R423). -/
def forgetResends (k : Nat) (s : State) : State :=
  let mine (w : Waiter) : Bool := match w with
    | .agent a => a = 4 * thisIndex s + k
    | .other (.site j) _ _ => j = k
    | .other _ _ _ => false
  modHome (fun h => { h with resends := h.resends.filter fun e => !mine e.who }) s

/-- A site enters DOWN: its record posted, its buffer emptied, its waits and fences ended, the misses it serves ended, and then its agent lost
(R421, R424, Table 13.5); what waits for its credits, what waits in its ingress, and the answers to what it asked before, are discarded (R423). A
reset that was announced is still to come (R420). -/
def siteDown (k : Nat) (s : State) : State :=
  let served := s.xlat.misses.filter fun m => m.site = k
  let agent := siteAgent s k
  let s := modSite k (fun x =>
    { x with
      st := .down, downs := satInc 8 x.downs, downAt := s.now, modules := 0, waiting := [], held := [], credits := [], life := x.life + 1 }) s
  let s := forgetResends k s
  let s := post { recOf s 0x0046 4 (siteBound s k) (0x30 + k) with detail := k } s
  let s := emptySiteBuf k s
  let s := modOrder (fun x => { x with waits := x.waits.filter fun w => !(w.qp.isNone && w.site = k) }) s
  let s := modUcie (fun x => { x with fences := x.fences.filter fun f => f.site ≠ k }) s
  let s := eachS served (fun m s => failMiss m .xlatFault s) s
  whenS agent (declareLost (4 * thisIndex s + k) (0x30 + k)) s

/-- An ACTIVE or training site goes DOWN; another stays as it is (R412, R423). -/
def siteFails (k : Nat) (s : State) : State :=
  match (getSite s k).st with
  | .active | .training => siteDown k s
  | _ => s

/-- A full training starts; an ACTIVE site goes DOWN first (R414, R425, R428). -/
def siteTrain (k : Nat) (s : State) : State :=
  modSite k (fun x => { x with st := .training }) (whenS (decide ((getSite s k).st = .active)) (siteDown k) s)

/-- SITE_TRAINING_DONE: ACTIVE at the largest module count and the highest rate within the SITE record, or DOWN when no module trains; the training
counts either way (R412, R413, Table 13.8). -/
def execSiteTrainingDone (k : Fin 4) (modules rate repaired : Nat) (s : State) : Host.Outcome State Fault Refusal :=
  match (getSite s k.val).st, siteRec s k.val with
  | .training, some r =>
    let m := ([4, 2, 1].find? fun n => n ≤ modules && n ≤ r.modules).getD 0
    let s := modSite k.val (fun x => { x with retrains := satInc 16 x.retrains }) s
    if m = 0 then .next (settle (siteDown k.val s))
    else .next (modSite k.val (fun x =>
      { x with
        st := .active, modules := m, rate := min 3 (max rate r.maxRate), repaired := min 255 repaired
        credits := [], owed := [0, 0, 0, 0], owedAt := none }) s)
  | _, _ => .next s

/-- SITE_RATE_DROP: more than 16 replays within 1 ms make an ACTIVE site retrain one rate lower (R414). The replays themselves count in the cycles in
which they are made (log 23). -/
def execSiteRateDrop (k : Fin 4) (s : State) : Host.Outcome State Fault Refusal :=
  let x := getSite s k
  if x.st = .active && x.rate < 3 then
    .next (modSite k.val (fun x => { x with rate := x.rate + 1, rateDrops := satInc 8 x.rateDrops, retrains := satInc 16 x.retrains }) s)
  else .next s

/-- SITE_LINK_ERROR: an error the Adapter cannot retry, or a failed retrain at 4 GT/s (R423). -/
def execSiteLinkError (k : Fin 4) (s : State) : Host.Outcome State Fault Refusal := .next (settle (siteFails k.val s))

/-- SITE_SELF_RESET: the site die resets itself (R423). -/
def execSiteSelfReset (k : Fin 4) (s : State) : Host.Outcome State Fault Refusal := .next (settle (siteFails k.val s))

/-- The Ringmaster gives RESET_NOTICE to a site die (R420). -/
def giveNotice (k : Nat) (s : State) : State :=
  if (getSite s k).notice.isSome then s
  else modSite k (fun x => { x with notice := some s.now }) (emit (.sideband k "RESET_NOTICE") s)

/-- RESET_REQUEST: a site die asks over its sideband for its own reset (R420). -/
def execResetRequest (k : Fin 4) (s : State) : Host.Outcome State Fault Refusal :=
  if (getSite s k.val).sideband then .next (giveNotice k.val s) else .next s

/-- SITE_RESET_AFTER_NOTICE: 2,500 METER cycles after RESET_NOTICE the site is reset (R420, R423). -/
def execSiteResetAfterNotice (k : Fin 4) (s : State) : Host.Outcome State Fault Refusal :=
  match (getSite s k.val).notice with
  | some t =>
    if t + 2500 ≤ s.now then .next (settle (siteFails k.val (modSite k.val (fun x => { x with notice := none }) s))) else .next s
  | none => .next s

/-- SITE_DOWN_RETRY: 50,000,000 METER cycles after going DOWN a site trains again (R425). -/
def execSiteDownRetry (k : Fin 4) (s : State) : Host.Outcome State Fault Refusal :=
  let x := getSite s k.val
  if x.st = .down && x.downAt + 50000000 ≤ s.now then .next (settle (siteTrain k.val s)) else .next s

/-- A window of a site over its POWER_LIMIT: told to its partition and its die; the fourth in a row resets the site (R420, R422). -/
def powerOver (k average : Nat) (s : State) : State :=
  let s := post { recOf s 0x0015 0 (siteBound s k) (0x30 + k) with detail := average } s
  let s := emit (.sideband k "POWER_OVER") s
  let s := modSite k (fun x => { x with overs := satInc 8 x.overs }) s
  whenS (decide (4 ≤ (getSite s k).overs)) (giveNotice k) s

/-- SITE_POWER_WINDOW: the average of the window of 500,000 METER cycles that ended last, once for each, on a site whose rail is on, and for an enabled
site against its POWER_LIMIT (R420, R422). -/
def execSitePowerWindow (k : Fin 4) (average : BitVec 16) (s : State) : Host.Outcome State Fault Refusal :=
  let x := getSite s k.val
  let n := s.now / 500000
  if !x.rail || n ≤ x.windows then .next s else
  let s := modSite k.val (fun x => { x with average := average.toNat, windows := n }) s
  match siteRec s k.val with
  | some r =>
    if !r.enable then .next s
    else if r.powerLimit < average.toNat then .next (settle (powerOver k.val average.toNat s))
    else .next (modSite k.val (fun x => { x with overs := 0 }) s)
  | none => .next s

/-! ### UCIE registers (R426, R428, R431) -/

/-- The address of a register of a UCIE instance. -/
def ucieAddr (k off : Nat) : Nat := 0x160000 + k * 0x1000 + off

/-- A write to UCIE_CTRL: the site's bound partition or MGMT_PRIV (R426, R428). -/
def ucieCtrl (w : Writer) (k v : Nat) (s : State) : Wrote :=
  if !writerMay s w (siteBound s k) then denyWrite w (ucieAddr k 8) v .protection s else
  let on := match siteRec s k with | some r => r.enable | none => false
  let s := whenS (v.testBit 1 && on && decide ((getSite s k).st ≠ .empty)) (giveNotice k) s
  wrote (whenS (v.testBit 0 && on && decide ((getSite s k).st ≠ .empty)) (siteTrain k) s)

/-- A write to UCIE_COUNT_CLEAR (R431). -/
def ucieCountClear (w : Writer) (k v : Nat) (s : State) : Wrote :=
  if !writerMay s w (siteBound s k) then denyWrite w (ucieAddr k 0x20) v .protection s
  else wrote (whenS (v.testBit 0) (modSite k fun x => { x with replays := 0, retrains := 0, rateDrops := 0, downs := 0 }) s)

/-- UCIE_RESET_SITE: RESET_SITE of UCIE_CTRL (R428). -/
def execUcieResetSite (w : Writer) (k : Fin 4) (s : State) : Host.Outcome State Fault Refusal := writeCmd w (ucieCtrl w k.val 2) s

/-- UCIE_TRAIN: TRAIN of UCIE_CTRL (R428). -/
def execUcieTrain (w : Writer) (k : Fin 4) (s : State) : Host.Outcome State Fault Refusal := writeCmd w (ucieCtrl w k.val 1) s

/-- UCIE_COUNT_CLEAR (R431). -/
def execUcieCountClear (w : Writer) (k : Fin 4) (v : Word) (s : State) : Host.Outcome State Fault Refusal :=
  writeCmd w (ucieCountClear w k.val v.toNat) s

/-! ### Waits of a site die (R220 to R224) -/

/-- SITE_FENCE: answered once the site's earlier requests have completed or, for remote writes without REMOTE, left; the site's later ones wait until
then (R222 to R224). -/
def execSiteFence (k : Fin 4) (p : Packet) (s : State) : Host.Outcome State Fault Refusal :=
  let p := sized { p with ptype := 0x70 }
  .next (settle (fenceGate k.val p (takeFence k.val p) s))

/-- SITE_COUNTER_WAIT: a wait on an arrival counter of the site's partition (R218 to R220). -/
def execSiteCounterWait (k : Fin 4) (p : Packet) (s : State) : Host.Outcome State Fault Refusal :=
  let p := sized { p with ptype := 0x71 }
  .next (settle (fenceGate k.val p (takeCtrWait k.val p) s))

/-- COUNTER_WAIT_TIMEOUT of a site's wait: answered TIMEOUT, nothing subtracted (R221). -/
def siteWaitTimeout (w : CtrWait) (s : State) : State :=
  toSite w.site (siteStatus w.tag 0 .timeout) (modOrder (fun x => { x with waits := x.waits.erase w }) s)

end Sys2Proof.Machine
end

