-- ==== Sys2Proof/Machine/Commands.lean ====
section
/-! DEFINITION. The commands of the Booths as they advance: their fetch, the order in which they begin, their programs, the batches of
list-batch mode and their time limits (08 to 11). -/

namespace Sys2Proof.Machine

/-- The program of an opcode, none for a reserved one (Table 8.3). -/
def program (op : Nat) : Option (Prog Done) :=
  match op with
  | 0x00 => some nopProg
  | 0x01 => some fillProg
  | 0x02 => some copyProg
  | 0x03 => some compareProg
  | 0x04 => some (reduceProg false)
  | 0x05 => some (reduceProg true)
  | 0x08 => some attnDecodeProg
  | 0x09 => some attnMergeProg
  | 0x0A => some kvAppendProg
  | 0x10 => some searchProg
  | 0x11 => some searchInsertProg
  | 0x12 => some searchDeleteProg
  | 0x13 => some searchEpochAdvanceProg
  | 0x18 => some prefetchRunProg
  | 0x19 => some tierMoveProg
  | 0x1A => some hintProg
  | 0x1C => some publishProg
  | 0x20 => some scrubProg
  | 0x21 => some mirrorResyncProg
  | 0x22 => some mirrorPromoteProg
  | 0x28 => some counterWaitProg
  | 0x29 => some fenceProg
  | 0x30 => some atomicProg
  | _ => none

/-- One run of a program from its start, for a command. -/
def runProgram (p : Prog Done) (q n : Nat) (s : State) : Except Halt Done × Ctx := (p.run).run { s := s, q := q, n := n, next := 1 }

/-- A begun command advances: its program runs to its next wait, its end or its fault. -/
def runCmd (c : Cmd) (s : State) : State :=
  match program (cmdOp c) with
  | none => s
  | some p =>
    match runProgram p c.qp c.count s with
    | (.ok d, x) => closeCmd c.qp c.count (modCmd c.qp c.count (fun c => { c with done := some d }) x.s)
    | (.error .wait, x) => x.s
    | (.error (.fault st va), x) => closeCmd c.qp c.count (payPoison c.qp c.count (faultCmd c.qp c.count st va x.s))

/-- A command advances: one that has stopped completes once its accesses have ended, a begun one runs on unless an earlier FENCE or
COUNTER_WAIT holds it back; one that has finished runs to its end again, where a write that failed meanwhile ends it (R261). -/
def advance (q n : Nat) (s : State) : State :=
  match findCmd s q n with
  | none => s
  | some c =>
    if c.stop || c.fault.isSome || c.aborted then closeCmd q n (payPoison q n s)
    else if c.begun && c.entry.isSome && !barred s c then runCmd c s
    else s

/-! ### List batches (R331) -/

/-- The open batch of a Booth closes and its members go on, in the order in which they began. -/
def closeBatch (b : Nat) (s : State) : State :=
  let ms := (getBooth s b).batch.filter fun m => (findCmd s m.1 m.2).isSome
  let s := modBooth b (fun x => { x with batch := [] }) s
  if ms.isEmpty then s else
  let s := modBooth b (fun x => { x with batches := satInc 32 x.batches, closed := x.closed ++ [{ members := ms.map fun m => { cmd := m, lists := none, wrote := false }, lists := [], lines := [] }] }) s
  eachS ms (fun m s => advance m.1 m.2 s) s

/-- Batches whose members have all completed are forgotten. -/
def forgetBatches (b : Nat) (s : State) : State :=
  modBooth b (fun x => { x with closed := x.closed.filter fun c => c.members.any fun m => (findCmd s m.cmd.1 m.cmd.2).isSome }) s

/-- A SEARCH that begins joins the open batch of its Booth, or opens the next. -/
def joinBatch (c : Cmd) (s : State) : State :=
  let b := c.booth
  let idx := leAt (cmdBytes c) 0x10 8
  let x := getBooth s b
  let s := if !x.batch.isEmpty && x.batchIndex ≠ idx then closeBatch b s else s
  let fresh := (getBooth s b).batch.isEmpty
  let s := modBooth b (fun x =>
    { x with
      batch := x.batch ++ [(c.qp, c.count)]
      batchIndex := idx
      batchAt := if fresh then s.now else x.batchAt }) s
  whenS ((getBooth s b).window = 0 || decide (64 ≤ (getBooth s b).batch.length)) (closeBatch b) s

/-! ### Beginning (R220, R222, R253, R269, R354) -/

/-- Whether an opcode holds a query context. -/
def holdsContext (op : Nat) : Bool := op = 0x08 || op = 0x09 || op = 0x10 || op = 0x18

/-- Whether a command has begun, or never will. -/
def pastBegin (c : Cmd) : Bool := c.begun || c.stop || c.aborted || c.fault.isSome

/-- Whether a command waits for nothing but a context: every earlier command of its queue pair has begun, and none stands at all where
ORDERED is set. DEDUCED (log 56): a command that holds a context begins only once no FENCE or COUNTER_WAIT holds its accesses back, so that a
list batch, the contexts and the stream area never wait for a command that a barrier makes wait for them. -/
def readyToBegin (s : State) (c : Cmd) : Bool :=
  let earlier := (qpCmds s c.qp).filter fun d => d.order < c.order
  let ordered := (leAt (cmdBytes c) 1 1).testBit 0
  c.entry.isSome && !pastBegin c && earlier.all pastBegin && !(ordered && !earlier.isEmpty) && !(holdsContext (cmdOp c) && barred s c)

/-- The query contexts of a Booth (Table 9.1). -/
def contexts : Nat := 64

/-- The lowest context of a Booth that no command holds. -/
def freeContext (s : State) (b : Nat) : Nat :=
  let used := (s.cmds.filter fun d => d.booth = b).filterMap Cmd.context
  ((List.range contexts).find? fun k => !used.contains k).getD 0

/-- Whether the Booth has a context for a command, given in the order of the notifications (R269). -/
def contextFree (s : State) (c : Cmd) : Bool :=
  let mine := s.cmds.filter fun d => d.booth = c.booth
  decide ((mine.filter fun d => d.context.isSome).length < contexts) &&
  !(mine.any fun d => d.order < c.order && holdsContext (cmdOp d) && readyToBegin s d)

/-- Whether a command may begin now. -/
def mayBegin (s : State) (c : Cmd) : Bool := readyToBegin s c && (!holdsContext (cmdOp c) || contextFree s c)

/-- A command begins, with its context, and a SEARCH in list-batch mode joins its batch. -/
def begin_ (c : Cmd) (s : State) : State :=
  let k := if holdsContext (cmdOp c) then some (freeContext s c.booth) else none
  let s := modCmd c.qp c.count (fun c => { c with begun := true, beganAs := s.cmdStamp, context := k }) { s with cmdStamp := s.cmdStamp + 1 }
  let s := modBooth c.booth (fun b => { b with lastWork := s.now }) s
  whenS (decide (cmdOp c = 0x10) && listBatch s c.booth) (joinBatch c) s

/-- The step of a command of an opcode: it begins when it may, and advances; another opcode's command stays as it is. -/
def boothStep (op : Nat) (r : CmdRef) (s : State) : State :=
  let q := r.qp.val
  let n := r.count.toNat
  match findCmd s q n with
  | none => s
  | some c =>
    if c.entry.isNone || cmdOp c ≠ op then s else
    let s := if mayBegin s c then begin_ c s else s
    settle (forgetBatches c.booth (advance q n s))

/-! ### Fetch (R242, R252, R254, R263) -/

/-- Whether an entry's form holds: its header, and the operands that its program checks before any access (R12, R90, R242). -/
def entryFormed (c : Cmd) (s : State) : Bool :=
  let b := cmdBytes c
  let op := cmdOp c
  decide (leAt b 1 1 ≤ 1) && zeroAt b 2 2 && (op = 0x1C || zeroAt b 8 8) &&
  match program op with
  | none => false
  | some p =>
    match runProgram p c.qp c.count s with
    | (.error (.fault .malformed _), x) => decide (x.next ≠ 1)
    | _ => true

/-- An entry reaches its Booth: SQ_HEAD advances, and a malformed one ends with MALFORMED. A FENCE that an abort reached before its entry was
fetched goes on (step 4 of R261). -/
def takeEntry (c : Cmd) (d : LineData) (s : State) : State :=
  let s := modQp c.qp (fun x => { x with sqHead := x.sqHead + 1 }) s
  let s := nextHead c.booth (modCmd c.qp c.count (fun c => { c with entry := some d, fetched := [] }) s)
  match findCmd s c.qp c.count with
  | none => s
  | some c =>
    if c.aborted && cmdOp c = 0x29 && entryFormed c s then modCmd c.qp c.count (fun c => { c with stop := false, aborted := false }) s
    else if c.aborted || c.fault.isSome then closeCmd c.qp c.count s
    else if entryFormed c s then s
    else faultCmd c.qp c.count .malformed noAddr s

/-- What a fetch came to for one entry: its own line of a burst, or the end of the read as a whole (R252, R263, log 30). -/
def entryOf (s : State) (c : Cmd) (as : List Fetched) : Fetched :=
  if as.length = 1 then as.headD default else as.getD (entryAddr s c / 64 % 4) default

/-- What the fetch of a command's entry brought for the other entries of its burst waits with them until they arrive in their turn (R252, log 30). -/
def shareEntries (c : Cmd) (as : List Fetched) (s : State) : State :=
  eachS ((entryBlock s c).filter fun d => d.count ≠ c.count && !d.access.isEmpty)
    (fun d s => modCmd d.qp d.count (fun x => { x with access := [], fetched := [entryOf s d as] }) s) s

/-- An entry reaches the Booth, or could not be read (R252, R263). -/
def entryCame (c : Cmd) (a : Fetched) (s : State) : State :=
  let s := modCmd c.qp c.count (fun c => { c with access := [] }) s
  if statusGood a.status then takeEntry { c with access := [] } a.data s else fetchFailed c a.status s

/-- The fetch of the entry at SQ_HEAD: one read of its line, or a burst where two or more entries of its aligned block are notified; taken once
the read has ended, and SQ_HEAD advances by one entry at a time (R252). -/
def fetchEntry (q : Nat) (s : State) : State :=
  match (qpCmds s q).find? fun c => c.entry.isNone with
  | none => s
  | some c =>
    let ds := (entryBlock s c).filter fun d => d.access.isEmpty && d.fetched.isEmpty
    let issue (s : State) : State :=
      let r := entryReq s c (1 < ds.length)
      let wait : Access := { id := 0, remote := false, write := false, addr := r.pkt.addr.toNat, va := 0, fill := false, share := none, dst := none }
      serve r (eachS ds (fun d s => modCmd q d.count (fun c => { c with access := [wait] }) s) s)
    let s := if c.access.isEmpty && c.fetched.isEmpty then issue s else s
    match findCmd s q c.count with
    | none => s
    | some c =>
      match answersOf c 0 with
      | [] => s
      | a :: l => entryCame c (entryOf s c (a :: l)) (shareEntries c (a :: l) s)

/-! ### The commands of the table -/

/-- NOP (R254). -/
def execNop (c : CmdRef) (s : State) : Host.Outcome State Fault Refusal := .next (boothStep 0x00 c s)

/-- FILL (R342). -/
def execFill (c : CmdRef) (s : State) : Host.Outcome State Fault Refusal := .next (boothStep 0x01 c s)

/-- COPY (R343). -/
def execCopy (c : CmdRef) (s : State) : Host.Outcome State Fault Refusal := .next (boothStep 0x02 c s)

/-- COMPARE (R344). -/
def execCompare (c : CmdRef) (s : State) : Host.Outcome State Fault Refusal := .next (boothStep 0x03 c s)

/-- REDUCE_LOCAL (R347). -/
def execReduceLocal (c : CmdRef) (s : State) : Host.Outcome State Fault Refusal := .next (boothStep 0x04 c s)

/-- REDUCE_REMOTE (R349). -/
def execReduceRemote (c : CmdRef) (s : State) : Host.Outcome State Fault Refusal := .next (boothStep 0x05 c s)

/-- ATTN_DECODE (R276). -/
def execAttnDecode (c : CmdRef) (s : State) : Host.Outcome State Fault Refusal := .next (boothStep 0x08 c s)

/-- ATTN_MERGE (R294). -/
def execAttnMerge (c : CmdRef) (s : State) : Host.Outcome State Fault Refusal := .next (boothStep 0x09 c s)

/-- KV_APPEND (R295). -/
def execKvAppend (c : CmdRef) (s : State) : Host.Outcome State Fault Refusal := .next (boothStep 0x0A c s)

/-- SEARCH (R315). -/
def execSearch (c : CmdRef) (s : State) : Host.Outcome State Fault Refusal := .next (boothStep 0x10 c s)

/-- SEARCH_INSERT (R324). -/
def execSearchInsert (c : CmdRef) (s : State) : Host.Outcome State Fault Refusal := .next (boothStep 0x11 c s)

/-- SEARCH_DELETE (R325). -/
def execSearchDelete (c : CmdRef) (s : State) : Host.Outcome State Fault Refusal := .next (boothStep 0x12 c s)

/-- SEARCH_EPOCH_ADVANCE (R326). -/
def execSearchEpochAdvance (c : CmdRef) (s : State) : Host.Outcome State Fault Refusal := .next (boothStep 0x13 c s)

/-- PREFETCH_RUN (R352). -/
def execPrefetchRun (c : CmdRef) (s : State) : Host.Outcome State Fault Refusal := .next (boothStep 0x18 c s)

/-- TIER_MOVE (R357). -/
def execTierMove (c : CmdRef) (s : State) : Host.Outcome State Fault Refusal := .next (boothStep 0x19 c s)

/-- HINT (R362). -/
def execHint (c : CmdRef) (s : State) : Host.Outcome State Fault Refusal := .next (boothStep 0x1A c s)

/-- PUBLISH (R365). -/
def execPublish (c : CmdRef) (s : State) : Host.Outcome State Fault Refusal := .next (boothStep 0x1C c s)

/-- SCRUB (R170). -/
def execScrub (c : CmdRef) (s : State) : Host.Outcome State Fault Refusal := .next (boothStep 0x20 c s)

/-- MIRROR_RESYNC (R162). -/
def execMirrorResync (c : CmdRef) (s : State) : Host.Outcome State Fault Refusal := .next (boothStep 0x21 c s)

/-- MIRROR_PROMOTE (R165). -/
def execMirrorPromote (c : CmdRef) (s : State) : Host.Outcome State Fault Refusal := .next (boothStep 0x22 c s)

/-- COUNTER_WAIT (R219). -/
def execCounterWait (c : CmdRef) (s : State) : Host.Outcome State Fault Refusal := .next (boothStep 0x28 c s)

/-- FENCE (R222). -/
def execFence (c : CmdRef) (s : State) : Host.Outcome State Fault Refusal := .next (boothStep 0x29 c s)

/-- ATOMIC (R227). -/
def execAtomic (c : CmdRef) (s : State) : Host.Outcome State Fault Refusal := .next (boothStep 0x30 c s)

/-- COMMAND_ACCESS_COMPLETE: the command takes what its accesses returned, and advances, faults or completes (R261). -/
def execCommandAccessComplete (r : CmdRef) (s : State) : Host.Outcome State Fault Refusal :=
  match findCmd s r.qp.val r.count.toNat with
  | some c => .next (settle (forgetBatches c.booth (advance c.qp c.count s)))
  | none => .next s

/-- SQ_ENTRY_ARRIVAL (R252). -/
def execSqEntryArrival (q : Fin 4096) (s : State) : Host.Outcome State Fault Refusal := .next (settle (fetchEntry q.val s))

/-- COUNTER_WAIT_TIMEOUT: nothing is subtracted, and the command or the site's request ends with TIMEOUT (R221). -/
def execCounterWaitTimeout (r : WaitRef) (s : State) : Host.Outcome State Fault Refusal :=
  match r with
  | .cmd c =>
    match s.order.waits.find? fun w => w.qp = some (c.qp.val, c.count.toNat) with
    | some w =>
      if limitPast s w.time w.limit then
        .next (settle (settleCtr (faultCmd c.qp.val c.count.toNat .timeout noAddr
          (modOrder (fun x => { x with waits := x.waits.erase w }) s))))
      else .next s
    | none => .next s
  | .site k tag =>
    match s.order.waits.find? fun w => w.qp.isNone && w.site = k.val && w.tag = tag.toNat with
    | some w => if limitPast s w.time w.limit then .next (settle (settleCtr (siteWaitTimeout w s))) else .next s
    | none => .next s

/-- PREFETCH_STEP_TIMEOUT: a step that has not fallen due within TIMEOUT ends its run, once the steps in flight are complete (R354). -/
def execPrefetchStepTimeout (r : CmdRef) (s : State) : Host.Outcome State Fault Refusal :=
  let q := r.qp.val
  let n := r.count.toNat
  match s.order.due.find? fun d => d.qp = q && d.count = n with
  | some d =>
    if !d.met && limitPast s d.since d.limit then
      .next (settle (advance q n (modOrder (fun x => { x with due := x.due.map fun y => if y = d then { y with expired := true } else y }) s)))
    else .next s
  | none => .next s

/-- BATCH_WINDOW_EXPIRY: the open batch closes once BATCH_WINDOW BOOTH cycles have passed, four to a METER cycle (R331). -/
def execBatchWindowExpiry (b : Fin 40) (s : State) : Host.Outcome State Fault Refusal :=
  let x := getBooth s b.val
  if !x.batch.isEmpty && decide (x.window ≤ 4 * (s.now - x.batchAt)) then .next (settle (forgetBatches b.val (closeBatch b.val s))) else .next s

/-! ### Queue pairs from the outside (R246 to R263) -/

/-- The address of a register of a queue pair. -/
def qpAddr (q off : Nat) : Nat := 0xA0000 + 64 * q + off

/-- A write to a queue pair's registers: a site's authority under R249, a fabric writer's under Table 8.5, and the Ringmaster's. -/
def qpGuard (w : Writer) (q off : Nat) (v : Nat) (f : State → Wrote) (s : State) : Wrote :=
  match w with
  | .ringmaster => f s
  | .site k =>
    if mgmtPrivOf s.rig.cur ((sitePart s.rig.cur k.val).getD 0xFF) || (sitePart s.rig.cur k.val = some (qpPart s q) && (qpRec s q).isSome) then f s
    else denyWrite w (qpAddr q off) v .protection s
  | .fabric _ node part =>
    match qpRec s q with
    | some r => if r.part = part.val && r.remote && r.owner = node.toNat then f s else denyWrite w (qpAddr q off) v .protection s
    | none => denyWrite w (qpAddr q off) v .protection s

/-- A write to QP_SQ_DOORBELL or QP_CQ_DOORBELL; a queue pair that no record assigns takes none (R49). -/
def qpBell (w : Writer) (q : Nat) (sq : Bool) (v : Nat) (s : State) : Wrote :=
  let b := BitVec.ofNat 32 v
  if (qpRec s q).isNone then denyWrite w (qpAddr q (if sq then 0x18 else 0x20)) v .protection s else
  qpGuard w q (if sq then 0x18 else 0x20) v (fun s => if sq then sqDoorbell w q b s else cqDoorbell w q b s) s

/-- A write to QP_CONTROL (Table 8.13): a reserved ACTION is ignored and recorded (R258). -/
def qpControl (w : Writer) (q action : Nat) (s : State) : Wrote :=
  qpGuard w q 0x28 action (fun s =>
    match bits action 0 3 with
    | 1 => if (qpRec s q).isSome then wrote (qpEnable q s) else wrote (qpResult q 6 s)
    | 2 => wrote (qpDisable q s)
    | 3 => wrote (qpAbort q s)
    | 4 => wrote (qpReset q s)
    | _ => denyWrite w (qpAddr q 0x28) action .malformed s) s

/-- QP_QUIESCENT (R258, R260). -/
def execQpQuiescent (q : Fin 4096) (s : State) : Host.Outcome State Fault Refusal := .next (qpQuiesce q.val s)

/-- QP_NOTIFY (R252). -/
def execQpNotify (q : Fin 4096) (s : State) : Host.Outcome State Fault Refusal := .next (notifyQp q.val s)

/-- CQ_PAIR_HOLD_EXPIRY (R245). -/
def execCqPairHoldExpiry (q : Fin 4096) (s : State) : Host.Outcome State Fault Refusal := .next (cqHoldExpiry q.val s)

/-- CQ_WRITE_DONE (R243, R244, R263). -/
def execCqWriteDone (q : Fin 4096) (s : State) : Host.Outcome State Fault Refusal := .next (settle (cqWrite q.val s))

end Sys2Proof.Machine
end

