-- ==== Sys2Proof/Machine/Sha.lean ====
section
/-! DEFINITION. SHA-384 as FIPS 180-4 defines it: the digest of the rigging image, the firmware and the measurements
(R14, R46, R500; log 6). -/

namespace Sys2Proof.Machine

/-- The primes below a bound of at most 529, which a prime below 23 divides otherwise. -/
def primesBelow (n : Nat) : List Nat := (List.range n).filter fun p => 2 ≤ p && [2, 3, 5, 7, 11, 13, 17, 19].all fun d => p % d ≠ 0 || p = d

/-- The first 64 bits of the fraction of a number's root of a degree: the root of the number times 2^(64 × degree), found bit by bit from the
bits of a root below 2^68. -/
def rootFraction (degree n : Nat) : Nat :=
  let target := n <<< (64 * degree)
  (List.range 68).foldl (fun r i => let t := r + 2 ^ (67 - i); if t ^ degree ≤ target then t else r) 0 % 2 ^ 64

/-- The round constants: from the cube roots of the first 80 primes. -/
def roundConstants : List Nat := (primesBelow 410).map (rootFraction 3)

/-- The initial hash value of SHA-384: from the square roots of the ninth to the sixteenth prime. -/
def hashStart : List Nat := ((primesBelow 54).drop 8).map (rootFraction 2)

/-- The exclusive or of a word's rotations to the right. -/
def rotations (v : Nat) (by_ : List Nat) : Nat := by_.foldl (fun x n => x ^^^ ((v >>> n ||| v <<< (64 - n)) % 2 ^ 64)) 0

/-- The schedule of a block: each further word from the words before it, newest first. -/
def schedule : Nat → List Nat → List Nat
  | 0, ws => ws
  | n + 1, ws =>
    let early := ws.getD 14 0
    let late := ws.getD 1 0
    let mixed := (rotations early [1, 8] ^^^ early >>> 7) + (rotations late [19, 61] ^^^ late >>> 6)
    schedule n ((ws.getD 15 0 + ws.getD 6 0 + mixed) % 2 ^ 64 :: ws)

/-- The two sequences of words that the rounds make, newest first: the last four of each are the eight working variables. -/
structure Rounds where
  upper : List Nat
  lower : List Nat

/-- One round, with the sum of its constant and its word of the schedule. -/
def Rounds.step (r : Rounds) (kw : Nat) : Rounds :=
  match r.upper, r.lower with
  | x :: y :: z :: w :: _, p :: q :: u :: v :: _ =>
    let t := kw + v + (u ^^^ p &&& (q ^^^ u)) + rotations p [14, 18, 41]
    let most := x &&& y ||| z &&& (x ||| y)
    { upper := (t + most + rotations x [28, 34, 39]) % 2 ^ 64 :: r.upper, lower := (t + w) % 2 ^ 64 :: r.lower }
  | _, _ => r

/-- The hash value after a block of 128 bytes. -/
def hashBlock (hash : List Nat) (block : List Byte) : List Nat :=
  let ws := (schedule 64 ((chunks 8 16 block).map ofBe).reverse).reverse
  let r := (List.zipWith (· + ·) roundConstants ws).foldl Rounds.step { upper := hash.take 4, lower := hash.drop 4 }
  List.zipWith (fun was new => (was + new) % 2 ^ 64) hash (r.upper.take 4 ++ r.lower.take 4)

/-- The message with its padding: one bit, zeros, and its length in bits at the end of the last block. -/
def padded (m : List Byte) : List Byte :=
  let whole := (m.length + 17 + 127) / 128 * 128
  m ++ 0x80 :: List.replicate (whole - m.length - 17) 0 ++ beBytes 16 (8 * m.length)

/-- SHA-384 of a message: 48 bytes. -/
def sha384 (m : List Byte) : List Byte :=
  let b := padded m
  (((chunks 128 (b.length / 128) b).foldl hashBlock hashStart).take 6).flatMap (beBytes 8)

end Sys2Proof.Machine
end

