-- ==== Sys2Proof/Machine/Tenants.lean ====
section
/-! DEFINITION. Partitions (14): what is in flight, quiescence, the states of Table 14.1, faults, and the Barker's Tickets. -/

namespace Sys2Proof.Machine

/-! ### In flight (R55, R434) -/

/-- The requests that the device holds and has not completed. -/
def liveReqs (s : State) : List Req :=
  s.mem.parked.map Parked.req ++ s.mem.reads.filterMap StackRead.req ++ (s.integ.ops.flatMap MirrorOp.reqs).eraseDups ++
  s.home.txns.map Txn.req ++ s.home.hot.flatMap Hot.owed ++ s.order.replay.flatMap Replay.waiting ++
  s.power.regWaits.filterMap RegWait.req

/-- The completions that queue pairs owe under an epoch: their entries are not written yet (R55). -/
def complsUnder (s : State) (e : Nat) : Nat :=
  (s.qps.map fun (_, x) => ((x.held.toList ++ x.writes.flatten).filter fun c => c.epoch = e).length).sum

/-- The requests and commands in flight under an epoch: those here, those that have not left yet, and the Booth commands until their
completions are written (R55). -/
def underEpoch (s : State) (e : Nat) : Nat :=
  ((liveReqs s).filter fun r => r.epoch = e && (match r.origin with | .booth _ _ _ => false | _ => true)).length +
  (s.fab.outst.filter fun o => o.epoch = e && !o.sent && (match o.origin with | .booth _ _ _ => false | _ => true)).length +
  (s.cmds.filter fun c => c.epoch = e).length + complsUnder s e

/-- The requests of a partition in flight on the device (R434, Table 14.9). -/
def partFlight (s : State) (p : Nat) : Nat :=
  ((liveReqs s).filter fun r => r.part = p).length + (s.fab.outst.filter fun o => o.part = p && !o.sent).length

/-- The queue pairs of a partition that hold any state. -/
def partQps (s : State) (p : Nat) : List Nat := (s.qps.map Prod.fst).filter fun q => (qpRec s q).isSome && qpPart s q = p

/-- Whether a partition is quiescent (R434). -/
def partQuiet (s : State) (p : Nat) : Bool :=
  partFlight s p = 0 && !(s.fab.outst.any fun o => o.part = p) && !(s.cmds.any fun c => c.part = p) &&
  (partQps s p).all fun q => (getQp s q).notified = 0

/-- The Booths of a partition. -/
def partBooths (s : State) (p : Nat) : List Nat := (s.rig.cur.booths.filter fun e => e.2.part = p).map Prod.fst

/-- The sites bound to a partition. -/
def partSites (s : State) (p : Nat) : List Nat := (List.range 4).filter fun k => sitePart s.rig.cur k = some p

/-! ### Changes of state (R435, R437, R438) -/

/-- The read buffers of a partition's Booths and bound sites are emptied (R213, R437, R438). -/
def emptyPartBufs (p : Nat) (s : State) : State :=
  eachS (partSites s p) emptySiteBuf (eachS (partBooths s p) emptyBoothBuf s)

/-- The queue pairs of a partition are aborted with cause PARTITION, those of a lower Booth first, whose records have the lower LOCATION, and its
read buffers emptied (R438, R447). -/
def haltWork (p : Nat) (s : State) : State :=
  emptyPartBufs p (eachS (sortBy (fun a b => qpBooth s a < qpBooth s b) (partQps s p)) (fun q s => abortQp q 4 s) s)

/-- A partition enters STOPPING; the records of its queue pairs come first, since their LOCATIONs are lower than the Ringmaster's (R438, R447). -/
def enterStopping (p : Nat) (s : State) : State := setPartSt p .stopping (haltWork p (modPart p (fun x => { x with latch := false }) s))

/-- A partition enters FAULTED with a cause (R438, R444, R447). -/
def enterFaulted (p cause : Nat) (s : State) : State :=
  setPartSt p .faulted (haltWork p (modPart p (fun x => { x with latch := false, cause := cause, startAt := none }) s))

/-- A partition enters STARTING: for 10,000 METER cycles, or until the Turnstile has admitted an allowance that is released (R437,
R473). -/
def enterStarting (p : Nat) (s : State) : State :=
  let s := setPartSt p .starting (modPart p (fun x => { x with latch := false, startAt := none }) s)
  let n := (getPart s p).released
  if sleeping s p then wakePart p s.now s
  else if n ≠ 0 then queueWake { target := some p, time := s.now, remaining := n } s
  else modPart p (fun x => { x with startAt := some (s.now + 10000) }) s

/-- A Booth's translation buffer, read buffer and batch are cleared (R437, R480). -/
def clearBooth (b : Nat) (s : State) : State :=
  modBooth b (fun x => { x with batch := [], closed := [] }) (modTlb b (fun _ => []) (emptyBoothBuf b s))

/-- The clearing of R437 is complete: the partition runs, with the first window of its meter bank. -/
def enterRunning (p : Nat) (s : State) : State :=
  let s := eachS (partBooths s p) clearBooth s
  let s := emptyPartBufs p s
  let s := match (bankOf s.rig.cur p).bind fun n => (Tab.find s.rig.cur.meters n).map fun r => (n, r) with
    | some e => openBank e.1 e.2 s
    | none => s
  setPartSt p .running (modPart p (fun x => { x with startAt := none }) s)

/-- A partition becomes UNASSIGNED: what it held is free in every bank of the maps, its queue pairs stand in RESET, its channel groups are
cleared (R59, R66, R239, R435). -/
def unassign (p : Nat) (s : State) : State :=
  let groups := (s.rig.cur.groups.filter fun e => e.2 = p && !s.rig.clearing.contains e.1).map Prod.fst
  let gone := fun (q : Nat) => qpPart s q = p && (qpRec s q).isSome
  let s := modQps (fun t => t.filter fun e => !gone e.1) s
  let s := modPower (fun x => { x with admitted := x.admitted - (allowance s.rig.cur p - (getPart s p).released) }) s
  let drop (m : Maps) : Maps :=
    { m with
      parts := Tab.erase m.parts p
      booths := m.booths.filter fun e => e.2.part ≠ p
      groups := m.groups.filter fun e => e.2 ≠ p
      qps := m.qps.filter fun r => r.part ≠ p
      ctrs := m.ctrs.filter fun r => r.part ≠ p
      wins := m.wins.filter fun e => e.2.part ≠ p
      mirs := m.mirs.filter fun e => e.2.part ≠ p
      sites := m.sites.filter fun e => e.2.part ≠ p
      pins := m.pins.filter fun r => r.part ≠ p
      pows := Tab.erase m.pows p
      meters := m.meters.filter fun e => e.2.part ≠ p }
  let s := modRig (fun r =>
    { r with
      cur := drop r.cur
      draining := r.draining.map fun d => { d with maps := drop d.maps }
      loaded := r.loaded.map fun l => if l.part = p then l else { l with maps := drop l.maps }
      clearing := r.clearing ++ groups }) s
  setPartSt p .unassigned (modPart p (fun x => { x with latch := false, releasing := false, retired := false, cause := 0, startAt := none }) s)

/-- A partition's Booths are put in reset, which refills the Tickets of their command queues (R25, R432, Table 14.1). -/
def resetBooths (p : Nat) (s : State) : State :=
  let s := eachS (partBooths s p) (fun b s => modBooth b (fun x => { x with gated := false }) (clearBooth b s)) s
  eachS (partQps s p) (fun q s => modQp q (fun x => { x with spent := 0 }) s) s

/-- What quiescence brings (Table 14.1, Table 14.2). -/
def quiesce (p : Nat) (s : State) : State :=
  let x := getPart s p
  if !partQuiet s p then s
  else if x.releasing && x.retired then unassign p s
  else if x.st = .stopping then if x.latch then enterStarting p s else setPartSt p .stopped (resetBooths p s)
  else if x.st = .faulted then resetBooths p s
  else s

/-! ### Control (Table 14.2) -/

/-- Sets CONTROL_RESULT of a partition. -/
def partResult (p r : Nat) (s : State) : State := modPart p (fun x => { x with ctl := r }) s

/-- The START action (R435, R436). -/
def partStart (p : Nat) (s : State) : State :=
  let x := getPart s p
  if x.releasing then partResult p 5 s else
  match x.st with
  | .stopped => partResult p 0 (enterStarting p s)
  | .stopping => partResult p 3 (modPart p (fun x => { x with latch := true }) s)
  | _ => partResult p 5 s

/-- The STOP action. -/
def partStop (p : Nat) (s : State) : State :=
  let x := getPart s p
  match x.st with
  | .running => partResult p 0 (enterStopping p s)
  | .stopping => if x.latch then partResult p 4 (modPart p (fun x => { x with latch := false }) s) else partResult p 5 s
  | _ => partResult p 5 s

/-- The CLEAR_FAULT action. -/
def partClearFault (p : Nat) (s : State) : State :=
  if (getPart s p).st ≠ .faulted then partResult p 5 s
  else if !partQuiet s p then partResult p 7 s
  else partResult p 0 (setPartSt p .stopped (modPart p (fun x => { x with cause := 0 }) s))

/-- PART_STARTING_DONE: 10,000 METER cycles after the allowance was admitted (R437). -/
def execPartStartingDone (p : Fin 32) (s : State) : Host.Outcome State Fault Refusal :=
  let x := getPart s p.val
  match x.st, x.startAt with
  | .starting, some t => if t ≤ s.now then .next (settle (enterRunning p.val s)) else .next s
  | _, _ => .next s

/-- PART_QUIESCENT (R435). -/
def execPartQuiescent (p : Fin 32) (s : State) : Host.Outcome State Fault Refusal := .next (settle (quiesce p.val s))

/-- The code of a cause (Table 14.9). -/
def causeCode : PartCause → Nat
  | .boothState => 1 | .keySlot => 2 | .bankState => 3

/-- The LOCATION of a partition fault (Table 14.17): the Booth, the queue-pair slice or meter block whose bank failed, or the
Ringmaster. -/
def causePlace (c : PartCause) (place : BitVec 8) : Nat :=
  match c with
  | .keySlot => 0x71
  | _ => place.toNat

/-- A partition faults; its two records are posted in the order of their LOCATIONs (R444, R447). -/
def partitionFault (p cause loc : Nat) (s : State) : State :=
  let note (s : State) : State := post { recOf s 0x0050 5 p loc with detail := cause } s
  if loc < 0x71 then enterFaulted p cause (note s) else note (enterFaulted p cause s)

/-- PARTITION_FAULT (R444): STARTING, RUNNING and STOPPING go to FAULTED (Table 14.2). -/
def execPartitionFault (p : Fin 32) (cause : PartCause) (place : BitVec 8) (s : State) : Host.Outcome State Fault Refusal :=
  let st := (getPart s p.val).st
  if st = .starting || st = .running || st = .stopping then
    .next (settle (partitionFault p.val (causeCode cause) (causePlace cause place) s))
  else .next s

/-- Every partition other than UNASSIGNED enters FAULTED, as a device fault makes it (R444, R480, R494). -/
def faultAll (cause : Nat) (s : State) : State := eachS (assigned s) (fun p s => enterFaulted p cause s) s

/-! ### Tickets (R448) -/

/-- A block that has a Ticket again posts one SUPPRESSED record with the count of what it could not post (R448). -/
def paySuppressed (loc : Nat) (s : State) : State :=
  let owed := Tab.get 0 s.barker.owed loc
  if owed = 0 then s
  else post { recOf s 0x0018 0 0xFF loc with detail := owed } (modBarker (fun b => { b with owed := Tab.insert b.owed loc 0 }) s)

/-- The Barker is reset with its domain: every block has its full pool of Tickets again (R25, R494). -/
def refillBarker (s : State) : State :=
  let s := modBarker (fun b => { b with spent := [] }) s
  eachS (s.barker.owed.map Prod.fst) paySuppressed s

/-- BARKER_TICKET_RETURN: a block regains a Ticket, and posts one SUPPRESSED record with the count of what it could not post (R448). -/
def execBarkerTicketReturn (block : BitVec 8) (s : State) : Host.Outcome State Fault Refusal :=
  let loc := block.toNat
  let n := Tab.get 0 s.barker.spent loc
  if n = 0 then .next s else
  .next (settle (paySuppressed loc (modBarker (fun b => { b with spent := Tab.insert b.spent loc (n - 1) }) s)))

/-! ### Pointers (R455, R456) -/

end Sys2Proof.Machine
end

