-- ==== Sys2Proof/Machine/Image.lean ====
section
/-! DEFINITION. The rigging image (02): its layout, its records, and the checks of Table 2.6 as far as LIMIT, each with the section
that RIGGING_STATUS names (R34 to R45, R57, R69, R82, R94). -/

namespace Sys2Proof.Machine

/-- A section: its place in the image, its type and its records. -/
structure Sect where
  idx : Nat
  type : Nat
  recs : List (List Byte)
deriving DecidableEq, Repr, Inhabited

/-- An image whose layout is sound. -/
structure Image where
  version : Nat
  seg : Bool
  target : Nat
  epoch : Nat
  id : Nat
  digest : List Byte
  sects : List Sect
deriving DecidableEq, Repr, Inhabited

/-- A refusal: its result code and the section it names (Tables 2.6, 2.10). -/
abbrev Refuse := Nat × Nat

/-- No section. -/
def noSect : Nat := 0xFFFF

/-- Goes on when a condition holds, and refuses otherwise. -/
def must (b : Bool) (code sect : Nat) : Except Refuse Unit := if b then .ok () else .error (code, sect)

/-! ### Layout (R34 to R39) -/

/-- The length of the signature block (R38). -/
def sigLen : Nat := 3384

/-- The size of a record by its section's type, 0 for an unknown type (Table 2.2). -/
def recSize (t : Nat) : Nat := [0, 16, 8, 8, 16, 8, 24, 16, 32, 72, 16, 24, 16, 8, 16, 16].getD t 0

/-- The length of a record's key, which lies at its start (Table 2.2). -/
def keyLen (t : Nat) : Nat := [0, 1, 1, 1, 2, 2, 2, 1, 0, 1, 1, 8, 1, 1, 1, 2].getD t 0

/-- Whether the reserved bytes and bits of a record are 0 (R39, Table 2.4, R81, R508). -/
def recClean (t : Nat) (r : List Byte) : Bool :=
  let z := zeroAt r
  let low (o n : Nat) : Bool := decide (leAt r o 1 < 2 ^ n)
  match t with
  | 1 => low 1 3 && z 7 1 && z 0x0C 4
  | 2 => low 2 1 && z 3 5
  | 3 => z 2 6
  | 4 => low 6 1 && z 7 1 && z 0x0A 6
  | 5 => z 5 3
  | 6 => z 3 5 && decide (bits (leAt r 8 16) 58 6 = 0) && decide (bits (leAt r 8 16) 69 59 = 0)
  | 7 => z 5 1 && z 0x0A 6
  | 8 => z 4 4 && z 0x18 8
  | 9 => low 2 1 && z 3 5
  | 10 => low 1 2 && z 7 9
  | 11 => low 0x12 2 && z 0x13 5
  | 12 => low 1 2 && z 2 2 && z 8 8
  | 13 => low 1 1 && z 2 2
  | 14 => decide (leAt r 2 2 < 2 ^ 15) && z 4 4
  | 15 => z 2 6 && (leAt r 0 2 ≠ 7 || decide (leAt r 8 8 < 2 ^ 16))
  | _ => false

/-- Whether the keys of a section's records ascend, no two alike. -/
def ascending (t : Nat) (rs : List (List Byte)) : Bool :=
  (List.zip rs (rs.drop 1)).all fun p => decide (leAt p.1 0 (keyLen t) < leAt p.2 0 (keyLen t))

/-- The walk of the sections from an offset (R36). -/
def walk (img : List Byte) (sig : Nat) : Nat → Nat → Nat → Nat → List Sect → Except Refuse (List Sect)
  | 0, idx, off, _, acc => do
    must (off = sig) 5 idx
    return acc.reverse
  | n + 1, idx, off, prev, acc => do
    must (decide (off + 8 ≤ sig)) 5 idx
    let t := leAt img off 2
    let len := leAt img (off + 4) 4
    must (recSize t ≠ 0 && decide (prev < t) && zeroAt img (off + 2) 2 && decide (off + 8 + len ≤ sig)) 5 idx
    must (len % recSize t = 0) 5 idx
    let rs := (chunks (recSize t) (len / recSize t) ((img.drop (off + 8)).take len)).filter fun r => !r.isEmpty
    must (rs.all (recClean t) && ascending t rs) 5 idx
    walk img sig n (idx + 1) (off + 8 + len) t ({ idx := idx, type := t, recs := rs } :: acc)

/-- The DIGEST of an image: SHA-384 with the field itself zero (R37). -/
def imageDigest (img : List Byte) (sig : Nat) : List Byte := sha384 ((img.take 0x20) ++ List.replicate 48 0 ++ ((img.take sig).drop 0x50))

/-- Whether the signature block's lengths and both signatures hold over the header (R14, R38). -/
def signed (ed ml : List Byte) (img : List Byte) (sig : Nat) : Bool :=
  let b := img.drop sig
  let head := img.take 256
  leAt b 0 2 = 64 && leAt b 2 2 = 3309 && Config.ed25519Verify ed head ((b.drop 8).take 64) &&
  Config.mldsaVerify ml head ((b.drop 0x48).take 3309)

/-- The checks of Table 2.6 up to BAD_LAYOUT, and the section part of BAD_VERSION, given whether the signatures hold (R42, R45). -/
def parseWith (verified : Bool) (raw : List Byte) : Except Refuse Image := do
  must (decide (256 ≤ raw.length)) 1 noSect
  let f := leAt raw
  let seg := (f 0x0A 2).testBit 0
  let len := f 0x0C 4
  let sig := f 0x1C 4
  must (f 0 4 = 0x47524E54 && decide (256 ≤ len) && decide (len ≤ (if seg then 2 ^ 20 else 2 ^ 23)) && decide (len ≤ raw.length) &&
    decide (256 ≤ sig) && sig % 8 = 0 && decide (sig + sigLen = len)) 1 noSect
  must ((f 4 2 = 1 || f 4 2 = 2) && (f 6 2 = 0xA0 || f 6 2 = 0xB0)) 2 noSect
  let img := raw.take len
  must (imageDigest img sig = (img.drop 0x20).take 48) 3 noSect
  must verified 4 noSect
  let count := f 8 2
  must (1 ≤ count && count ≤ 15 && decide (f 0x0A 2 < 2) && zeroAt img 0x1A 2 && zeroAt img 0x58 168) 5 noSect
  let ss ← walk img sig count 0 256 0 []
  must (zeroAt img (sig + 4) 4 && zeroAt img (sig + 0xD35) 3) 5 noSect
  let old : Option Sect := if f 4 2 = 1 then ss.find? fun x => x.type = 15 && x.recs.any fun r => leAt r 0 2 = 4 else none
  match old with
  | some x => throw (2, x.idx)
  | none =>
    return { version := f 4 2, seg := seg, target := f 0x18 1, epoch := f 0x19 1, id := f 0x10 8, digest := (img.drop 0x20).take 48,
             sects := ss }

/-- The checks of Table 2.6 up to BAD_LAYOUT under the keys of the running firmware (R14, R42). -/
def parseImage (ed ml raw : List Byte) : Except Refuse Image := parseWith (signed ed ml (raw.take (leAt raw 0x0C 4)) (leAt raw 0x1C 4)) raw

/-! ### Records into maps (Table 2.4) -/

/-- The PORT record's shares. -/
def sharesOf (r : List Byte) : List Nat := (List.range 32).map fun i => leAt r (8 + 2 * i) 2

/-- The port as the maps have it: WIDTH 0, disabled and every share 0 where they hold no record (R57). -/
def portOr (m : Maps) (p : Nat) : PortRec := (Tab.find m.ports p).getD { width := 0, enable := false, share := List.replicate 32 0 }

/-- The partition a record names: the byte of its PART_ID. -/
def recPart (t : Nat) (r : List Byte) : Option Nat :=
  match t with
  | 1 => some (leAt r 0 1)
  | 2 => some (leAt r 1 1)
  | 3 => some (leAt r 1 1)
  | 4 => some (leAt r 4 1)
  | 5 => some (leAt r 4 1)
  | 6 => some (leAt r 2 1)
  | 7 => some (leAt r 1 1)
  | 10 => some (leAt r 6 1)
  | 11 => some (leAt r 0x10 1)
  | 12 => some (leAt r 0 1)
  | 14 => some (leAt r 1 1)
  | _ => none

/-- Enters a record in the maps; in a segment, and only there, a share of 0xFFFF keeps the one in force (R43, R57). -/
def addRec (seg : Bool) (t : Nat) (m : Maps) (r : List Byte) : Maps :=
  let f := leAt r
  let k := f 0 (keyLen t)
  let part := (recPart t r).getD 0
  match t with
  | 1 =>
    let v : PartRec :=
      { enable := (f 1 1).testBit 0, mgmtPriv := (f 1 1).testBit 1, encrypt := (f 1 1).testBit 2, jobKey := f 2 2, pageServer := f 4 1,
        keySlot := f 5 1, meterBank := f 6 1, ceilUcie := f 8 1, ceilFabin := f 9 1, ceilHome := f 10 1, ceilCar := f 11 1 }
    { m with parts := Tab.insert m.parts k v }
  | 2 => { m with booths := Tab.insert m.booths k { part := part, listBatch := (f 2 1).testBit 0 } }
  | 3 => { m with groups := Tab.insert m.groups k part }
  | 4 =>
    let v : QpRec := { first := k, count := f 2 2, part := part, booth := f 5 1, remote := (f 6 1).testBit 0, owner := f 8 2 }
    { m with qps := m.qps ++ [v] }
  | 5 => { m with ctrs := m.ctrs ++ [{ first := k, count := f 2 2, part := part }] }
  | 6 => { m with wins := Tab.insert m.wins k { part := part, entry := BitVec.ofNat 128 (f 8 16) } }
  | 7 =>
    let v : MirRec := { part := part, partnerNode := f 2 2, partnerGroup := f 4 1, localDomain := f 6 2, partnerDomain := f 8 2 }
    { m with mirs := Tab.insert m.mirs k v }
  | 8 => { m with ring := some { ringId := f 0 2, count := f 2 1, this := f 3 1, nodes := (List.range (f 2 1)).map fun i => f (8 + 2 * i) 2 } }
  | 9 =>
    let old := portOr m k
    let share := List.zipWith (fun a b => if seg && a = 0xFFFF then b else a) (sharesOf r) old.share
    { m with ports := Tab.insert m.ports k { width := f 1 1, enable := (f 2 1).testBit 0, share := share } }
  | 10 =>
    let v : SiteRec := { enable := (f 1 1).testBit 0, passCheck := (f 1 1).testBit 1, modules := f 2 1, maxRate := f 3 1,
                         powerLimit := f 4 2, part := part }
    { m with sites := Tab.insert m.sites k v }
  | 11 => { m with pins := m.pins ++ [{ virtBase := k, globalBase := f 8 8, part := part, size := f 0x11 1, perm := f 0x12 1 }] }
  | 12 => { m with pows := Tab.insert m.pows k { sleep := (f 1 1).testBit 0, wakeN := (f 1 1).testBit 1, idle := f 4 4 } }
  | 13 => { m with gates := Tab.insert m.gates k { gate := (f 1 1).testBit 0, idle := f 4 4 } }
  | 14 => { m with meters := Tab.insert m.meters k { part := part, events := f 2 2, window := f 8 8 } }
  | 15 => { m with opts := Tab.insert m.opts k (f 8 8) }
  | _ => m

/-- The maps without a partition's resources (R56). -/
def releasePart (m : Maps) (p : Nat) : Maps :=
  { m with
    booths := m.booths.filter fun e => e.2.part ≠ p
    groups := m.groups.filter fun e => e.2 ≠ p
    qps := m.qps.filter fun r => r.part ≠ p
    ctrs := m.ctrs.filter fun r => r.part ≠ p
    wins := m.wins.filter fun e => e.2.part ≠ p
    mirs := m.mirs.filter fun e => e.2.part ≠ p
    sites := m.sites.filter fun e => e.2.part ≠ p
    pins := m.pins.filter fun r => r.part ≠ p
    pows := Tab.erase m.pows p
    meters := m.meters.filter fun e => e.2.part ≠ p }

/-- The maps an image asks for, over those it starts from. -/
def mapsFrom (seg : Bool) (base : Maps) (ss : List Sect) : Maps := ss.foldl (fun m x => x.recs.foldl (addRec seg x.type) m) base

/-! ### Values, overlaps and limits (R39, R43, R57, R82) -/

/-- What a check of an image looks at: the node, the populated sites, the maps before and after the image. -/
structure Against where
  seg : Bool
  target : Nat
  node : Nat
  populated : List Nat
  cur : Maps
  base : Maps
  new : Maps
  banks : List Nat

/-- The range of an option (Table 2.5). -/
def optionOk (id v : Nat) : Bool :=
  match id with
  | 1 => v ≤ 0xFFFF
  | 2 => 4000 ≤ v && v ≤ 500000
  | 3 => 8000 ≤ v && v ≤ 8000000
  | 4 => 5000 ≤ v && v ≤ 5000000
  | 5 => v ≤ 8000000
  | 6 => v ≤ 1
  | 7 => v ≤ 0xFFFF
  | 8 => 128000 ≤ v && v ≤ 50000000
  | _ => false

/-- Whether a window entry meets Table 3.3 and the second and third rules of R82. -/
def windowOk (node : Nat) (e : BitVec 128) : Bool :=
  let k := winKind e
  k ≤ 3 && (k = 2 || (winPart e = 0 && winEpoch e = 0)) && (k ≠ 3 || (!winSite e && !winBooth e)) &&
  (k = 0 || (decide (nodeOf (winBase e) = node) == decide (k ≠ 2) && decide (offOf (winBase e) + winSize e ≤ 2 ^ 42)))

/-- Whether pinned records of a partition cover the global pages its Booths can reach (R43). -/
def pinsCover (m : Maps) (p : Nat) : Bool :=
  let pages (e : BitVec 128) : List Nat := (List.range (bits e.toNat 16 13 + 1)).map fun i => winBase e + i * 2 ^ 29
  let pinned (a : Nat) : Bool := m.pins.any fun r => r.part = p && r.globalBase ≤ a && a < r.globalBase + pageBytes r.size
  m.wins.all fun w => w.2.part ≠ p || !winBooth w.2.entry || !(winKind w.2.entry = 1 || winKind w.2.entry = 2) || (pages w.2.entry).all pinned

/-- The page server of a PARTITION record: its site enabled and bound, or pinned records where it owns a Booth (R43). -/
def serverOk (x : Against) (p server : Nat) : Bool :=
  if server = 0xFF then !(x.new.booths.any fun b => b.2.part = p) || pinsCover x.new p
  else match Tab.find x.new.sites server with
    | some r => r.enable && r.part = p
    | none => false

/-- Whether two windows of one partition and kind overlap (R82). -/
def windowsMeet (x : Against) (k : Nat) (r : List Byte) : Bool :=
  let e := BitVec.ofNat 128 (leAt r 8 16)
  winKind e ≠ 0 && x.new.wins.any fun w => w.1 ≠ k && w.2.part = leAt r 2 1 && winKind w.2.entry = winKind e &&
    spanMeets (winBase e) (winSize e) (winBase w.2.entry) (winSize w.2.entry)

/-- Whether a record's fields hold values within their ranges, and its BAD_VALUE references hold (Table 2.4, R43, R57, R422). -/
def valueOk (x : Against) (t : Nat) (r : List Byte) : Bool :=
  let f := leAt r
  let k := f 0 (keyLen t)
  let part := match recPart t r with
    | some p => p ≤ 31 || (t = 12 && p = 0xFF)
    | none => true
  part &&
  match t with
  | 1 =>
    (f 4 1 ≤ 3 || f 4 1 = 0xFF) && (!(f 1 1).testBit 2 || f 5 1 ≤ 31) && f 6 1 ≤ 31 && x.banks.contains (f 6 1) &&
    (!x.seg || k = x.target) && serverOk x k (f 4 1)
  | 2 => k ≤ 39
  | 3 => k ≤ 79
  | 4 => k ≤ 4095 && 1 ≤ f 2 2 && f 2 2 ≤ 128 && f 5 1 ≤ 39
  | 5 => k ≤ 2047 && 1 ≤ f 2 2 && f 2 2 ≤ 64
  | 6 => k ≤ 8191 && windowOk x.node (BitVec.ofNat 128 (f 8 16)) && !windowsMeet x k r
  | 7 => k ≤ 79 && f 4 1 ≤ 79 && f 2 2 ≠ x.node && f 6 2 ≠ f 8 2
  | 8 =>
    let ns := (List.range 8).map fun i => f (8 + 2 * i) 2
    !x.seg && 1 ≤ f 2 1 && f 2 1 ≤ 8 && f 3 1 < f 2 1 && (ns.drop (f 2 1)).all (· = 0) && ns.getD (f 3 1) 0 = x.node &&
    (ns.take (f 2 1)).Nodup
  | 9 =>
    let o := portOr x.cur k
    k ≤ 7 && f 1 1 ≤ 1 && (!x.seg || (f 1 1 = o.width && (f 2 1).testBit 0 = o.enable))
  | 10 =>
    k ≤ 3 && (f 2 1 = 1 || f 2 1 = 2 || f 2 1 = 4) && f 3 1 ≤ 3 && f 4 2 ≤ 400 &&
    (!(f 1 1).testBit 0 || (x.populated.contains k && 1 ≤ f 4 2))
  | 11 =>
    f 0x11 1 ≤ 1 && k % pageBytes (f 0x11 1) = 0 && k < 2 ^ 52 && f 8 8 % pageBytes (f 0x11 1) = 0 && f 8 8 < 2 ^ 58
  | 12 => !x.seg || k = x.target
  | 13 => !x.seg && 1 ≤ k && k ≤ 18 && (!(f 1 1).testBit 0 || !([13, 14, 16, 17, 18].contains k))
  | 14 => k ≤ 31 && 500000 ≤ f 8 8
  | 15 => !x.seg && optionOk k (f 8 8)
  | _ => true

/-- Whether a record assigns nothing that another holds, and crosses no partition (R43, R49, R56, R82). -/
def apart (x : Against) (t : Nat) (r : List Byte) : Bool :=
  let f := leAt r
  let k := f 0 (keyLen t)
  let part := (recPart t r).getD 0
  (!x.seg || t = 1 || t = 12 || recPart t r = none || part = x.target) &&
  match t with
  | 1 =>
    !(x.new.parts.any fun e => e.1 ≠ k && e.2.encrypt && (f 1 1).testBit 2 && e.2.keySlot = f 5 1) &&
    (match Tab.find x.new.meters (f 6 1) with | some m => m.part = k | none => true)
  | 2 => (Tab.find x.base.booths k).isNone
  | 3 => (Tab.find x.base.groups k).isNone
  | 4 =>
    !((x.new.qps.filter fun q => spanMeets q.first q.count k (f 2 2)).length > 1) &&
    (match Tab.find x.new.booths (f 5 1) with | some b => b.part = part | none => false)
  | 5 => !((x.new.ctrs.filter fun q => spanMeets q.first q.count k (f 2 2)).length > 1)
  | 6 =>
    let e := BitVec.ofNat 128 (f 8 16)
    let lo := offOf (winBase e) / 2 ^ 35
    let hi := (offOf (winBase e) + winSize e - 1) / 2 ^ 35
    (Tab.find x.base.wins k).isNone &&
    (!(winKind e = 1 || winKind e = 3) || (List.range (hi + 1 - lo)).all fun i => groupOwner x.new (lo + i) = some part)
  | 7 => groupOwner x.new k = some part
  | 9 => !x.seg || (sharesOf r).zipIdx.all fun s => s.2 = x.target || s.1 = 0xFFFF
  | 10 => (Tab.find x.base.sites k).isNone
  | 14 => (Tab.find x.base.meters k).isNone
  | _ => true

/-- Whether the sums and counts a record belongs to stay within their limits (R43, R94, R386). -/
def within (x : Against) (t : Nat) (r : List Byte) : Bool :=
  let f := leAt r
  let k := f 0 (keyLen t)
  let part := (recPart t r).getD 0
  let sum (l : List Nat) : Nat := l.foldl (· + ·) 0
  match t with
  | 4 => k + f 2 2 ≤ 4096 && sum ((x.new.qps.filter fun q => q.part = part).map QpRec.count) ≤ 128
  | 5 => k + f 2 2 ≤ 2048 && sum ((x.new.ctrs.filter fun q => q.part = part).map CtrRec.count) ≤ 64
  | 9 =>
    let v := portOr x.new k
    sum v.share ≤ (if v.width = 0 then 32768 else 16384)
  | 10 => sum (x.new.sites.map fun e => e.2.powerLimit) ≤ 1450
  | 11 => x.new.pins.length ≤ 4096
  | _ => true

/-- The first section, in the order of the image, that holds a record which fails. -/
def firstFail (ss : List Sect) (ok : Nat → List Byte → Bool) : Option Nat :=
  (ss.find? fun x => !x.recs.all (ok x.type)).map Sect.idx

/-- The sites a strap value populates (Table 13.2). -/
def populatedSites (pop : Nat) : List Nat :=
  match pop with
  | 1 => [0, 1]
  | 2 => [0, 1, 2, 3]
  | _ => []

/-- What an image's header must say, and the sections it must have or must not have (Tables 2.1, 2.2, R41): none when it does.
The manual names no result code for a segment without its PARTITION section or a full image without NODE_NUMBER: BAD_VALUE, with section
0xFFFF, is the model's choice (log 32). -/
def headFail (i : Image) : Option Nat :=
  let has (t : Nat) : Option Sect := i.sects.find? fun x => x.type = t
  if i.seg then
    if i.target > 31 then some noSect else
    match i.sects.find? fun x => x.type = 8 || x.type = 13 || x.type = 15, has 1 with
    | _, none => some noSect
    | b, some p => if p.recs.length ≠ 1 then some p.idx else b.map Sect.idx
  else if i.target ≠ 0xFF then some noSect
  else match has 15 with
    | none => some noSect
    | some o => if o.recs.any fun r => leAt r 0 2 = 1 then none else some o.idx

/-- The checks BAD_VALUE, OVERLAP and LIMIT, and the maps of an image that passes them. -/
def checkMaps (s : State) (i : Image) : Except Refuse Maps := do
  let cur := s.rig.cur
  let base := if i.seg then releasePart cur i.target else {}
  let new := mapsFrom i.seg base i.sects
  let node := if i.seg then thisNode s else Tab.get 0 new.opts 1
  let banks := (i.sects.filter fun x => x.type = 14).flatMap fun x => x.recs.map fun r => leAt r 0 1
  let x : Against := { seg := i.seg, target := i.target, node := node, populated := populatedSites s.power.sitePop.toNat, cur := cur, base := base,
                       new := new, banks := banks }
  let rank (a b : Option Nat) : Option Nat :=
    match a, b with
    | some m, some n => if m = noSect then a else if n < m then b else a
    | some _, none => a
    | none, b => b
  match rank (headFail i) (firstFail i.sects (valueOk x)) with
  | some n => throw (6, n)
  | none => pure ()
  match firstFail i.sects (apart x) with
  | some n => throw (7, n)
  | none => pure ()
  match firstFail i.sects (within x) with
  | some n => throw (8, n)
  | none => return new

end Sys2Proof.Machine
end

