-- ==== Sys2Proof/Machine/Rigging.lean ====
section
/-! DEFINITION. Rigging (02): the gates of an image, a full image's application, a segment's load and switch, the draining of an epoch,
its retirement, and the clearing of released channel groups. -/

namespace Sys2Proof.Machine

/-! ### What a segment moves (R58, R239) -/

/-- What R239 compares of a queue pair. -/
def qpTies (m : Maps) (q : Nat) : Option (Nat × Nat × Nat × Bool) :=
  (qpRecOf m q).map fun r => (r.part, r.booth, r.owner, r.remote)

/-- The queue pairs that differ between two maps. -/
def movedQps (a b : Maps) : List Nat := (List.range 4096).filter fun q => qpTies a q ≠ qpTies b q

/-- The partition that owns a Booth. -/
def boothOwner (m : Maps) (b : Nat) : Option Nat := (Tab.find m.booths b).map BoothRec.part

/-- The Booths whose owner differs between two maps. -/
def movedBooths (a b : Maps) : List Nat := (List.range 40).filter fun n => boothOwner a n ≠ boothOwner b n

/-- The Booths, of one owner in both maps, whose LIST_BATCH differs. -/
def rebatched (a b : Maps) : List Nat :=
  let flag (m : Maps) (n : Nat) : Bool := match Tab.find m.booths n with | some r => r.listBatch | none => false
  (List.range 40).filter fun n => boothOwner a n = boothOwner b n && flag a n ≠ flag b n

/-- The channel groups that the second maps give to a partition that did not hold them. -/
def newGroups (a b : Maps) : List Nat := (b.groups.filter fun e => groupOwner a e.1 ≠ some e.2).map Prod.fst

/-- Whether a segment's ENABLE is 0. -/
def shutsDown (m : Maps) (p : Nat) : Bool := match Tab.find m.parts p with | some r => !r.enable | none => true

/-- SEGMENT_BUSY: a segment stands between step 1 and step 6 of Table 2.8, one that waits for its partition to leave CURTAIN among them
(R65, R69, Table 15.4). -/
def segmentUnderWay (s : State) : Bool := s.rig.loaded.isSome || !s.power.segWaits.isEmpty

/-- Whether a segment for a partition is BUSY: an epoch drains, another segment is under way, the partition changes state, a channel
group it assigns is being cleared, or what it moves is in use (R58, R59, R65, R436, Note 5 of Table 17.3). -/
def segmentBusy (s : State) (p : Nat) (new : Maps) : Bool :=
  let cur := s.rig.cur
  let x := getPart s p
  let inExec (b : Nat) (op : Option Nat) : Bool :=
    s.cmds.any fun c => c.booth = b && c.begun && (match op with | some o => cmdOp c = o | none => true)
  s.rig.draining.isSome || segmentUnderWay s || x.st = .starting || x.st = .stopping || (x.st = .faulted && !partQuiet s p) ||
  (newGroups cur new).any s.rig.clearing.contains ||
  (!shutsDown new p &&
    ((movedQps cur new).any (fun q => decide ((getQp s q).st ≠ .reset)) || (movedBooths cur new).any (fun b => inExec b none) ||
     (rebatched cur new).any (fun b => inExec b (some 0x10))))

/-! ### Gates and refusal (R40, R41, R44, Table 2.6) -/

/-- The last checks of Table 2.6: EPOCH_MISMATCH, BUSY, NOT_AT_RESET. -/
def gate (s : State) (i : Image) (new : Maps) : Except Refuse Maps := do
  if i.seg then
    must (i.epoch = s.rig.epoch) 9 noSect
    must (!segmentBusy s i.target new) 10 noSect
    must s.rig.rigged 11 noSect
    return new
  else
    must (!s.rig.rigged) 11 noSect
    return new

/-- Every check of an image, in the order of Table 2.6. -/
def checkImage (s : State) (raw : List Byte) : Except Refuse (Image × Maps) := do
  let i ← parseImage s.mgmt.rigEd s.mgmt.rigMldsa raw
  let m ← checkMaps s i
  let m ← gate s i m
  return (i, m)

/-- A refused image: its result and its section recorded, and RIGGING_REFUSED posted (R44). -/
def refuseImage (e : Refuse) (s : State) : State :=
  let s := modRig (fun r => { r with lastResult := e.1, failSection := e.2 }) s
  post { recOf s 0x0010 0 0xFF 0x71 with detail := pack [(16, 8, e.1), (0, 16, e.2)] } s

/-! ### A full image (R46 to R50, R74, Table 2.7) -/

/-- The sites of a full image: those it enables train, the sideband of the others goes down (R47, step 10). -/
def applySites (s : State) : State :=
  eachS (List.range 4) (fun k s =>
    match Tab.find s.rig.cur.sites k with
    | some r => if r.enable then siteTrain k s else modSite k (fun x => { x with sideband := false }) s
    | none => modSite k (fun x => { x with sideband := false }) s) s

/-- The links of the enabled ports train (step 11). -/
def applyPorts (s : State) : State := eachS ((List.range 16).filter (linkExists s)) startTraining s

/-- The partitions of a full image, their allowances not admitted: one without ENABLE is STOPPED; one with it enters STARTING once the
Turnstile has admitted it, in partition order, or FAULTED after a brown-out in keep-alive (Table 14.2, R437, R481, Table 15.9; log 33). -/
def startParts (s : State) : State :=
  let ps := s.rig.cur.parts
  let s := eachS ps (fun e s =>
    let s := modPart e.1 (fun x => { x with released := allowance s.rig.cur e.1 }) s
    whenS (!e.2.enable) (setPartSt e.1 .stopped) s) s
  let on := (ps.filter fun e => e.2.enable).map Prod.fst
  let wake (p : Nat) (s : State) : State := queueWake { target := some p, time := s.now, remaining := allowance s.rig.cur p } s
  let s := eachS on (fun p s => if s.power.recovering then enterFaulted p 4 s else wake p s) s
  modPower (fun x => { x with recovering := false }) s

/-- The application of a full image (Table 2.7). -/
def applyFull (i : Image) (m : Maps) (s : State) : State :=
  let set (r : Rig) : Rig :=
    { r with
      cur := m, draining := none, loaded := none, fullDigest := i.digest, chainDigest := i.digest, imageId := BitVec.ofNat 64 i.id }
  let s := modRig set s
  let s := whenS m.ring.isSome (modHome fun h => { h with live := setBit 0 ((m.ring.map RingRec.this).getD 0) true }) s
  let s := applyPorts (applySites s)
  let s := eachS m.meters (fun e s => openBank e.1 e.2 s) s
  let s := modRig (fun r =>
    { r with locks := Tab.get 0 m.opts 7, epoch := i.epoch, rigged := true, lastResult := 0, failSection := noSect }) s
  let s := modMgmt (fun g => if g.raiseSvn then { g with minSvn := some (max (g.minSvn.getD Config.minSvnFuse) g.svn), raiseSvn := false } else g) s
  startParts s

/-- Whether every stack is TRAINED (Table 15.9). -/
def allTrained (s : State) : Bool := (List.range 20).all fun k => (getStack s k).trained

/-! ### A segment (R56 to R61) -/

/-- An image reaches the Ringmaster: checked, and refused, applied whole, or loaded. A full image waits for the stacks to be trained (R46,
Table 15.9). A segment for a partition that sleeps wakes it, and waits until it has left CURTAIN (Table 15.4); else it stands in the
inactive banks (steps 1 to 4 of Table 2.8). -/
def presentImage (t : Option Transport) (raw : List Byte) (s : State) : State :=
  match checkImage s raw with
  | .error e => refuseImage e s
  | .ok (i, m) =>
    if !i.seg then (if allTrained s then applyFull i m s else s)
    else if sleeping s i.target then
      inOrder (fun n s => wakePart i.target s.now (modPower (fun x =>
        { x with segWaits := x.segWaits ++ [{ order := n, part := i.target, from_ := t, raw := raw }] }) s)) s
    else
      let l : Loaded := { maps := m, part := i.target, digest := i.digest, enable := !shutsDown m i.target, from_ := t }
      modRig (fun r => { r with loaded := some l }) s

/-- Whether an image names itself a segment: its header says so (Table 2.1). -/
def namesSegment (raw : List Byte) : Bool := leAt raw 0 4 = 0x47524E54 && (leAt raw 0x0A 2).testBit 0

/-- The Ringmaster takes an image while it runs its firmware; in await-image, which is part of the reset sequence, it refuses a segment, with the
first check of Table 2.6 that it fails, of which NOT_AT_RESET is the last (R42, R46, Table 16.9). -/
def takeImage (t : Option Transport) (segment : Bool) (raw : List Byte) (s : State) : State :=
  if s.mgmt.boot = .running then settle (presentImage t raw s)
  else if s.mgmt.boot = .awaitImage && (segment || namesSegment raw) then
    let e := match checkImage s raw with | .error e => e | .ok _ => (11, noSect)
    settle (refuseImage e s)
  else s

/-- FULL_IMAGE_APPLY: an image pushed while the device waits unrigged, or, where the command brings none, the one the Ringmaster reads from
the rigging region of the board flash (R46, R48). -/
def execFullImageApply (image : List Byte) (s : State) : Host.Outcome State Fault Refusal :=
  .next (takeImage none false (if image.isEmpty then s.mgmt.rigFlash else image) s)

/-- SEGMENT_PRESENT (R61). -/
def execSegmentPresent (image : List Byte) (s : State) : Host.Outcome State Fault Refusal := .next (takeImage none true image s)

/-- The maps in force after a switch: those loaded; for a segment with ENABLE 0, those of before with the PARTITION record replaced and
the partition's sites unbound, its other resources held until it is UNASSIGNED (R60, R66, Table 14.1). The records such a segment brings are
dropped, of a partition that was UNASSIGNED too, which then is STOPPED without resources: the manual does not say what they do, and this is the
model's choice (log 32). -/
def switchMaps (cur : Maps) (l : Loaded) : Maps :=
  if l.enable then l.maps
  else
    { cur with
      parts := match Tab.find l.maps.parts l.part with
        | some r => Tab.insert cur.parts l.part r
        | none => cur.parts
      sites := cur.sites.filter fun e => e.2.part ≠ l.part }

/-- What a switch does to the state of its partition (Table 14.2). -/
def switchPart (p : Nat) (enable : Bool) (s : State) : State :=
  let release (s : State) : State := modPart p (fun x => { x with releasing := true, retired := false }) s
  match (getPart s p).st, enable with
  | .unassigned, true => enterStarting p s
  | .unassigned, false => setPartSt p .stopped s
  | .stopped, true => enterStarting p s
  | .running, false => enterStopping p (release s)
  | .starting, false => enterStopping p (release s)
  | .stopped, false => release s
  | .faulted, false => release s
  | _, _ => s

/-- The queue pairs of a partition whose rings no longer meet R240 under the new maps are aborted (Table 8.8). -/
def recheckRings (p : Nat) (s : State) : State :=
  let live (q : Nat) : Bool := (getQp s q).st ≠ .reset && (getQp s q).st ≠ .error
  eachS ((partQps s p).filter fun q => live q && !ringsOk s q) (fun q s => abortQp q 7 s) s

/-- A partition's allowance follows its maps: what is admitted changes with it, or what is released (R473, log 15). -/
def adjust (old new : Maps) (p : Nat) (s : State) : State :=
  let n := (getPart s p).released
  if sleeping s p || n = allowance old p && n ≠ 0 then modPart p (fun x => { x with released := if n = 0 then 0 else allowance new p }) s
  else
    let booths (m : Maps) : Nat := 12 * (m.booths.filter fun e => e.2.part = p).length
    let m := if n = 0 then 0 else booths new
    modPart p (fun x => { x with released := m })
      (modPower (fun x => { x with admitted := x.admitted + (allowance new p - m) - (allowance old p - n) }) s)

/-- The switch (step 5 of Table 2.8) and its record (step 6). -/
def switchSegment (l : Loaded) (s : State) : State :=
  let p := l.part
  let old := s.rig.cur
  let e := s.rig.epoch
  let new := switchMaps old l
  let d : Drain := { epoch := e, maps := old, switchAt := s.now }
  let set (r : Rig) : Rig :=
    { r with
      cur := new, epoch := (e + 1) % 256, draining := some d, loaded := none, lastResult := 0, failSection := noSect
      chainDigest := sha384 (r.chainDigest ++ l.digest) }
  let moved := movedQps old new
  let s := modQps (fun t => t.filter fun x => !moved.contains x.1) (modRig set s)
  let s := eachS (movedBooths old new) clearBooth s
  let changed := new.meters.filter fun x => x.2.part = p && Tab.find old.meters x.1 ≠ some x.2
  let s := eachS changed (fun x s => openBank x.1 x.2 s) s
  let s := adjust old new p s
  let s := recheckRings p (switchPart p l.enable s)
  post { recOf s 0x0011 0 0xFF 0x71 with detail := pack [(8, 8, e), (0, 8, (e + 1) % 256)] } s

/-- SEGMENT_SWITCH (R61). A segment that came as an update component switches at its ActivateFirmware (R492). -/
def execSegmentSwitch (s : State) : Host.Outcome State Fault Refusal :=
  match s.rig.loaded with
  | some l => if l.from_.isNone then .next (settle (switchSegment l s)) else .next s
  | none => .next s

/-! ### Draining (R59, R62 to R66) -/

/-- What retirement does: the draining bank is freed, its translations go, its released groups are cleared, its unbound meter banks
close, and a shut-down partition may become UNASSIGNED (step 8 of Table 2.8, R59, R60, R510). -/
def retire (d : Drain) (s : State) : State :=
  let groups := (d.maps.groups.filter fun e => (groupOwner s.rig.cur e.1).isNone).map Prod.fst
  let s := modRig (fun r => { r with draining := none, clearing := r.clearing ++ groups }) s
  let s := modXlat (fun x => { x with tlb := x.tlb.map fun t => (t.1, t.2.filter fun e => e.epoch ≠ d.epoch) }) s
  let unbound := (d.maps.meters.map Prod.fst).filter fun n => (Tab.find s.rig.cur.meters n).isNone
  let s := eachS unbound (fun n s => modBank n (fun b => { b with isOpen := false, part := 0xFF, events := 0 }) s) s
  let leaving := (s.parts.filter fun e => e.2.releasing).map Prod.fst
  eachS leaving (fun p s => quiesce p (modPart p (fun x => { x with retired := true }) s)) s

/-- EPOCH_RETIRE: once nothing is in flight under the draining epoch and SHADOW_MIN has passed (R63). -/
def execEpochRetire (s : State) : Host.Outcome State Fault Refusal :=
  match s.rig.draining with
  | some d =>
    if underEpoch s d.epoch = 0 && d.switchAt + shadowMin s ≤ s.now then .next (settle (retire d s)) else .next s
  | none => .next s

/-- A command that the drain limit ends: it issues no more, and its waits go; once its accesses have ended it ends with TIMEOUT (R64). -/
def drainCmd (d : Drain) (c : Cmd) (s : State) : State :=
  let q := c.qp
  let n := c.count
  let s := modCmd q n (fun x => { x with fault := some (.timeout, BitVec.allOnes 64), stop := true, done := none, aborted := false }) s
  let s := modOrder (fun x =>
    { x with
      waits := x.waits.filter fun w => w.qp ≠ some (q, n)
      due := x.due.filter fun y => !(y.qp = q && y.count = n) }) s
  let s := modXlat (fun x =>
    { x with misses := x.misses.map fun m => { m with waiters := m.waiters.filter fun w => !(w.1 = q && w.2.1 = n) } }) s
  let later := (qpCmds s q).filter fun x => c.order < x.order && x.epoch ≠ d.epoch
  let s := eachS later stopCmd s
  closeCmd q n (enterError q 8 (n % 2 ^ (getQp s q).sqLog) (statusCode .timeout) (cmdOp c) s)

/-- DRAIN_LIMIT_EXPIRY (R64). -/
def execDrainLimitExpiry (s : State) : Host.Outcome State Fault Refusal :=
  match s.rig.draining with
  | some d =>
    if d.switchAt + drainLimit s ≤ s.now && underEpoch s d.epoch ≠ 0 then
      .next (settle (eachS (s.cmds.filter fun c => c.epoch = d.epoch && c.fault.isNone) (drainCmd d) s))
    else .next s
  | none => .next s

/-- The Roustabout's write of zeros to a line of a released group (R59). -/
def clearReq (s : State) (l : Nat) : Req :=
  { origin := .roustabout, pkt := { ptype := 0x04, addr := ownAddr s l, data := [0] }, part := 0xFF, epoch := s.rig.epoch, time := s.now }

/-- The lines of a group whose hand-off an awaited fault strikes. -/
def struckLines (s : State) (g : Nat) : List Nat :=
  (s.upsets.filterMap fun u => match u with | .handOff a _ _ _ _ => some (lineNo (offOf a.toNat)) | _ => none).filter fun l => groupOfLine l = g

/-- A released group's lines are zero, each written with a fresh check through the hand-offs of any write, those that nothing has written
among them; a fenced line takes none (R27, R59, R451, log 2). -/
def clearGroup (g : Nat) (s : State) : State :=
  let ls := (s.mem.lines.map Prod.fst).filter fun l => groupOfLine l = g
  let all := ls ++ (struckLines s g).filter fun l => !ls.contains l
  let bare (page : Nat) (v : Line) : Line := if page / 64 = g then { v with key := none, at_ := none } else v
  let s := modForms (fun m => { m with blank := m.blank.map fun e => (e.1, bare e.1 e.2)
                                       moves := m.moves.map fun r => { r with form := bare r.page r.form } }) s
  let s := eachS all (fun l s => handOver (fun _ s => whenS (channelUp s l && ls.contains l && !fenced s l) (storeLine l 0) s) (clearReq s l) s) s
  modRig (fun r => { r with clearing := r.clearing.filter (· ≠ g) }) s

/-- GROUP_CLEAR_DONE: the Roustabout clears one group after another (R59). -/
def execGroupClearDone (g : Fin 80) (s : State) : Host.Outcome State Fault Refusal :=
  if s.rig.clearing.head? = some g.val then .next (settle (clearGroup g.val s)) else .next s

end Sys2Proof.Machine
end

