-- ==== Sys2Proof/Machine/TestPort.lean ====
section
/-! DEFINITION. The test port: IEEE 1149.1 boundary scan over the control lands (R525, Table 18.2). The manual names the standard, the three
instructions and the lands; the controller's states are the standard's own (PRESUMED, log 48); the width and the codes of the instruction
register and the order of the cells are the model's (DESIGN CHOICE, log 48). -/

namespace Sys2Proof.Machine

/-- The state of the controller that follows a rising edge of TCK, by the level of TMS. -/
def Tap.next (t : Tap) (tms : Bool) : Tap :=
  match t with
  | .reset => if tms then .reset else .idle
  | .idle => if tms then .select false else .idle
  | .select ir => if !tms then .capture ir else if ir then .reset else .select true
  | .capture ir => if tms then .exit1 ir else .shift ir
  | .shift ir => if tms then .exit1 ir else .shift ir
  | .exit1 ir => if tms then .update ir else .pause ir
  | .pause ir => if tms then .exit2 ir else .pause ir
  | .exit2 ir => if tms then .update ir else .shift ir
  | .update _ => if tms then .select false else .idle

/-- The instruction of a code: every code that names none is BYPASS. -/
def tapInstr (v : BitVec 2) : TapInstr := if v = 0 then .extest else if v = 1 then .sample else .bypass

/-- The data register between TDI and TDO sees a level shifted in: the bypass bit, or the boundary cells. -/
def TestPort.shiftDr (x : TestPort) (tdi : Bool) : TestPort :=
  if x.ir = .bypass then { x with bypass := tdi } else { x with scan := (x.scan >>> 1) ||| (BitVec.ofNat 20 (bit tdi) <<< 19) }

/-- What a rising edge of TCK does in the controller's state, before the state changes. -/
def TestPort.act (x : TestPort) (p : TapPins) : TestPort :=
  match x.tap with
  | .capture true => { x with irScan := 1 }
  | .capture false => if x.ir = .bypass then { x with bypass := false } else { x with scan := p.lands }
  | .shift true => { x with irScan := (x.irScan >>> 1) ||| (BitVec.ofNat 2 (bit p.tdi) <<< 1) }
  | .shift false => x.shiftDr p.tdi
  | _ => x

/-- What the state entered does at the falling edge that follows. -/
def TestPort.settleIn (x : TestPort) : TestPort :=
  match x.tap with
  | .reset => { x with ir := .bypass }
  | .update true => { x with ir := tapInstr x.irScan }
  | .update false => if x.ir = .bypass then x else { x with cells := x.scan }
  | _ => x

/-- The level of TDO while a register shifts; none otherwise. -/
def TestPort.tdo (x : TestPort) : Option Bool :=
  match x.tap with
  | .shift true => some (x.irScan.getLsbD 0)
  | .shift false => some (if x.ir = .bypass then x.bypass else x.scan.getLsbD 0)
  | _ => none

/-- One cycle of TCK with the levels of the port's lands and of the lands that have cells; TRST_N low holds the controller in reset. -/
def tapCycle (p : TapPins) (s : State) : State :=
  let x := s.power.test
  if !p.trst then modPower (fun y => { y with test := { x with tap := .reset, ir := .bypass } }) s else
  let s := match x.tdo with | some b => emit (.tdo b) s | none => s
  let y := x.act p
  modPower (fun z => { z with test := TestPort.settleIn { y with tap := x.tap.next p.tms } }) s

/-- Whether EXTEST has taken the covered lands from their functions: RESET_N, WAKE_N, the straps, the I3C target and the board flash (R525). -/
def landsTaken (s : State) : Bool := s.power.test.ir = .extest

end Sys2Proof.Machine
end

