-- ==== Sys2Proof/Machine/Power.lean ====
section
/-! DEFINITION. Power, clocks and reset (15, 18): CURTAIN, DARK, the Turnstile's slots, the wake latch, brown-outs, clock gating, the
resets, the samples of the sensors and the windows of the meters. -/

namespace Sys2Proof.Machine

/-- The POWER record of a partition, or of the device (255): nothing allowed where there is none. -/
def powRec (s : State) (p : Nat) : PowRec := Tab.get { sleep := false, wakeN := false, idle := 0 } s.rig.cur.pows p

/-- The channel groups of a partition. -/
def partGroups (s : State) (p : Nat) : List Nat := (s.rig.cur.groups.filter fun e => e.2 = p).map Prod.fst

/-- SREF_GROUP of groups set or cleared (R133). -/
def setSref (gs : List Nat) (b : Bool) (s : State) : State :=
  eachS gs (fun g s => modStack (g / 4) (fun x => { x with sref := setBit x.sref (g % 4) b }) s) s

/-! ### CURTAIN (R463 to R466) -/

/-- Sets CONTROL_RESULT of PWRCLK_PART_STATUS. -/
def powerResult (p r : Nat) (s : State) : State := modPart p (fun x => { x with pctl := r }) s

/-- The CURTAIN action (R463). -/
def askCurtain (p : Nat) (s : State) : State :=
  let x := getPart s p
  if !(powRec s p).sleep then powerResult p 6 s
  else if x.st ≠ .running || x.pstate ≠ .on then powerResult p 5 s
  else if !partQuiet s p then powerResult p 7 s
  else powerResult p 0 (modPart p (fun x => { x with pstate := .entering, curtainAt := s.now, wakeAt := none, exitAt := none }) s)

/-- The WAKE action (Table 15.18, R465). -/
def askWake (p : Nat) (s : State) : State :=
  if sleeping s p then powerResult p 0 (wakePart p s.now s) else powerResult p 5 s

/-- The entry ends: buffers empty, hot lines closed, channel groups in self-refresh, the allowance released; a latched wake is replayed
(Table 15.3, R464). -/
def enterCurtain (p : Nat) (s : State) : State :=
  let gs := partGroups s p
  let s := emptyPartBufs p s
  let s := eachS ((s.home.hot.map Hot.line).filter fun l => gs.contains (groupOfLine l)) hotClose s
  let s := setSref gs true s
  let s := modPower (fun x => { x with admitted := x.admitted - allowance s.rig.cur p }) s
  let w := (getPart s p).wakeAt
  let s := modPart p (fun x => { x with pstate := .curtain, wakeAt := none }) s
  whenS w.isSome (wakePart p s.now) s

/-- CURTAIN_ENTRY_DONE: 5 µs after the request, 2,500 METER cycles (Table 15.3). -/
def execCurtainEntryDone (p : Fin 32) (s : State) : Host.Outcome State Fault Refusal :=
  let x := getPart s p.val
  if x.pstate = .entering && x.curtainAt + 2500 ≤ s.now then .next (settle (enterCurtain p.val s)) else .next s

/-- The wake list of a partition moves to the bounce lists of its entries' slices, in each port (R398). -/
def moveWakeList (p : Nat) (s : State) : State :=
  eachS (List.range 8) (fun k s =>
    modPort k (fun x =>
      let woken := x.bounce.filter fun b => b.wake = some p
      { x with bounce := (x.bounce.filter fun b => b.wake ≠ some p) ++ woken.map fun b => { b with wake := none } }) s) s

/-- A partition leaves CURTAIN, its channel groups leave self-refresh, and a START that waited goes on (R437, R466). -/
def leaveCurtain (p : Nat) (s : State) : State :=
  let s := modPart p (fun x =>
    { x with pstate := .on, exitAt := none, startAt := if x.st = .starting && x.startAt.isNone then some (s.now + 10000) else x.startAt }) s
  let s := setSref (partGroups s p) false s
  let s := charge p s.rig.epoch 12 1 s.now s
  moveWakeList p s

/-! ### DARK (R467 to R470) -/

/-- Whether the Roustabout has nothing to do: no repair, no raw read, no sweep, and no access of its own that waits (R467). -/
def roustaboutIdle (s : State) : Bool :=
  s.home.sweeps.isEmpty && !s.integ.inspBusy && !(s.mem.holds.any fun h => h.2 = .repair || h.2 = .inspect) &&
  !(s.mem.parked.any fun x => x.req.origin = .roustabout)

/-- Whether every condition of R467 but the POWER record's holds. -/
def darkMay (s : State) : Bool :=
  let rests (e : Nat × Part) : Bool :=
    e.2.pstate = .curtain || ((e.2.st = .stopped || e.2.st = .faulted || e.2.st = .unassigned) && e.2.pstate = .on && partQuiet s e.1)
  s.power.dark = .no && s.parts.all rests && !(s.ucie.sites.any fun e => e.2.st = .active || e.2.st = .training) &&
  s.rig.draining.isNone && s.rig.clearing.isEmpty && roustaboutIdle s && s.cmds.isEmpty &&
  !(s.order.replay.any fun r => r.t0.isNone)

/-- The DARK action (R467). -/
def askDark (s : State) : State :=
  if !(powRec s 255).sleep then modPower (fun x => { x with darkResult := 6 }) s
  else if !darkMay s then modPower (fun x => { x with darkResult := 7 }) s
  else modPower (fun x => { x with darkResult := 0, dark := .entering, darkAt := s.now, darkWake := none }) s

/-- A device wake enters the Turnstile queue for the base allowance (R473, Table 15.5). -/
def queueDevice (s : State) : State := queueWake { target := none, time := s.now, remaining := 290 } s

/-- A wake of the device from a source: latched during entry, queued in DARK (R464, R469, R470). -/
def wakeDevice (source : Nat) (s : State) : State :=
  match s.power.dark with
  | .entering => if s.power.darkWake.isSome then s else modPower (fun x => { x with darkWake := some (source, s.now, true) }) s
  | .dark => queueDevice (modPower (fun x => { x with darkWake := some (source, s.now, false), dark := .leaving }) s)
  | _ => s

/-- What DARK keeps of the directory: each cache entry's state in DIR, the cache invalid (R468). -/
def flushDirectory (s : State) : State :=
  let es := s.home.cache
  let s := eachS es (fun e s => writeDir e.line (dirBits e.dir) s) s
  modHome (fun h => { h with cache := [] }) s

/-- The allowance of every partition that is not in CURTAIN is released with the rest, and a START asks for it again (R473). -/
def releaseAll (s : State) : State :=
  eachS (assigned s) (fun p s => whenS (decide ((getPart s p).pstate = .on)) (modPart p fun x => { x with released := allowance s.rig.cur p }) s) s

/-- What DARK keeps of a site: its registers; its training is lost (Table 15.6). -/
def darkSite (k : Nat) (s : State) : State :=
  whenS (decide ((getSite s k).st = .down)) (modSite k fun x => { x with st := .reset, rate := 0, repaired := 0 }) s

/-- DARK is entered; wakes raised meanwhile enter the queue now (R464, R468, R473, Table 15.6). -/
def enterDark (s : State) : State :=
  let ls := (List.range 16).filter (linkExists s)
  let s := eachS ls (fun l s => linkDropped l (setLinkSt l .off s)) s
  let s := releaseAll (eachS (List.range 4) darkSite s)
  let s := flushDirectory s
  let s := modOrder (fun x => { x with boothBufs := [], siteBufs := [] }) s
  let s := setSref (List.range 80) true s
  let s := modPower (fun x =>
    { x with
      queue := x.queue.map fun w => { w with time := s.now }
      dark := .dark, admitted := 0, keepAlive := true, pllLocked := false, running := BitVec.ofNat 18 (1 <<< 17) }) s
  match s.power.darkWake with
  | some (src, _, _) =>
    queueDevice (modPower (fun x => { x with darkWake := some (src, s.now, true), dark := .leaving }) s)
  | none => s

/-- DARK_ENTRY_DONE: at most 50 µs after the request, 25,000 METER cycles (R468). -/
def execDarkEntryDone (s : State) : Host.Outcome State Fault Refusal :=
  if s.power.dark = .entering && s.power.darkAt + 25000 ≤ s.now then .next (settle (enterDark s)) else .next s

/-- Once the base allowance is admitted, channels of partitions not in CURTAIN leave self-refresh and enabled links train (steps 5 and 6
of Table 15.5). -/
def resumeDark (s : State) : State :=
  if s.power.dark = .leaving && s.power.pllLocked && !(s.power.queue.any fun w => w.target.isNone) then
    let s := modPower (fun x => { x with dark := .resuming }) s
    let stays (g : Nat) : Bool := match groupOwner s.rig.cur g with | some p => (getPart s p).pstate ≠ .on | none => false
    let s := setSref ((List.range 80).filter fun g => !stays g) false s
    eachS ((List.range 16).filter (linkExists s)) startTraining s
  else s

/-- The window of a bank that held the entry into DARK is reported when it has ended, and the current window is the one that holds the
exit (R511). -/
def meterResume (s : State) : State :=
  let upd (b : Bank) : Bank :=
    if b.isOpen && windowEnd b ≤ s.now then
      { closeWindow (windowEnd b) b with from_ := b.start + (s.now - b.start) / max 1 b.window * max 1 b.window }
    else b
  modBanks (fun t => t.map fun e => (e.1, upd e.2)) s

/-- The exit from DARK ends: the wake is logged (step 7 of Table 15.5). -/
def leaveDark (s : State) : State :=
  match s.power.darkWake with
  | some (src, t, rep) =>
    modPower (fun x => { x with dark := .no, wakeSource := src, wakeTime := t, wakeReplayed := rep, darkWake := none }) (meterResume s)
  | none => modPower (fun x => { x with dark := .no }) (meterResume s)

/-- DARK_EXIT (R470). -/
def execDarkExit (s : State) : Host.Outcome State Fault Refusal :=
  if s.power.dark = .resuming then .next (settle (leaveDark s)) else .next s

/-! ### Wakes (R469, R474 to R478) -/

/-- TURNSTILE_SLOT: the slot's budget, and the admission (R474). -/
def execTurnstileSlot (s : State) : Host.Outcome State Fault Refusal :=
  if s.power.phase = .clocked then .next (settle (resumeDark (admitWakes s))) else .next s

/-- A WAKE_N event: it wakes the device in DARK and each partition in CURTAIN whose POWER record asks for it (R469, R476). -/
def wakePin (source : Nat) (s : State) : State :=
  let s := whenS (powRec s 255).wakeN (wakeDevice source) s
  let ps := (s.parts.map Prod.fst).filter fun p => (powRec s p).wakeN && sleeping s p
  eachS ps (fun p s => wakePart p s.now s) s

/-- WAKE_N: an edge event is not used under COMPAT_A, and is lost within an entry window, the last 120 METER cycles of an entry into CURTAIN; nothing wakes
before PWRGD_OUT (Table 15.3, R476 to R478, R535). -/
def execWakeN (edge : Bool) (inWindow : Bool) (s : State) : Host.Outcome State Fault Refusal :=
  let entering := s.power.dark = .entering || s.parts.any fun e => e.2.pstate = .entering && decide (e.2.curtainAt + 2380 ≤ s.now)
  if !s.power.pwrgd || landsTaken s then .next s
  else if edge && (s.power.compatA || (inWindow && entering)) then .next s
  else .next (settle (wakePin (if edge then 2 else 1) s))

/-- I3C_WAKE (R469). -/
def execI3cWake (s : State) : Host.Outcome State Fault Refusal :=
  if s.power.i3cWake && !landsTaken s then .next (wakeDevice 3 s) else .next s

/-- LANE_SIGNAL_DETECT (R469). -/
def execLaneSignalDetect (pt : Fin 8) (s : State) : Host.Outcome State Fault Refusal :=
  if s.power.portDetect.getLsbD pt.val && linkExists s (2 * pt.val) then .next (wakeDevice (0x10 + pt.val) s) else .next s

/-! ### INTERVAL and clock gates (R461, R462) -/

/-- BOOTH_INTERVAL_ENTRY: a Booth of a running partition without work for IDLE_CYCLES is gated (R461). -/
def execBoothIntervalEntry (b : Fin 40) (s : State) : Host.Outcome State Fault Refusal :=
  match boothOwner s.rig.cur b.val with
  | some p =>
    let idle := (powRec s p).idle
    let work := s.cmds.any (fun c => c.booth = b.val) || boothLoad s b.val ≠ 0
    if idle ≠ 0 && !work && (getPart s p).st = .running && (getBooth s b.val).lastWork + idle ≤ s.now then
      .next (modBooth b.val (fun x => { x with gated := true }) s)
    else .next s
  | none => .next s

/-- A number of a domain's own cycles in METER cycles, rounded up (Table 15.8). -/
def ownCycles (d n : Nat) : Nat :=
  let r : Nat × Nat := ([(1, 10), (1, 5), (1, 4), (1, 4), (1, 4), (1, 4), (1, 4), (1, 4), (1, 4), (1, 4), (1, 2), (1, 2), (1, 1), (2, 1), (16, 5), (5, 1),
    (10, 1), (20, 1)] : List (Nat × Nat)).getD d (1, 1)
  ceilDiv (n * r.1) r.2

/-- Whether a domain has work (R462, Table 1.1, Table 15.8). DESIGN CHOICE, log 61: what each domain works on. -/
def domainWork (s : State) (d : Nat) : Bool :=
  let stack := !s.mem.reads.isEmpty || !s.mem.holds.isEmpty || s.mem.parked.any fun p => p.why = .line
  let links := (List.range 16).any fun l => linkUp s l || (getLink s l).st = .training
  match d with
  | 0 | 1 | 2 => stack
  | 3 | 4 | 5 | 6 => s.cmds.any fun c => c.booth / 10 = d - 3
  | 7 => !s.home.txns.isEmpty || !s.home.hot.isEmpty || !s.home.sweeps.isEmpty || !s.mem.parked.isEmpty
  | 8 => s.ucie.sites.any fun e => !e.2.waiting.isEmpty || !e.2.held.isEmpty || e.2.st = .training
  | 9 | 14 => links
  | 10 => !s.mem.parked.isEmpty
  | 11 => !s.xlat.misses.isEmpty
  | _ => true

/-- CLOCK_GATE_IDLE: a domain whose record gates it stops after IDLE_CYCLES of its own cycles without work (R462). -/
def execClockGateIdle (d : Fin 18) (s : State) : Host.Outcome State Fault Refusal :=
  match Tab.find s.rig.cur.gates (d.val + 1) with
  | some r => if r.gate && !domainWork s d.val && s.power.worked + ownCycles d.val r.idle ≤ s.now then .next (modPower (fun x => { x with running := BitVec.ofNat 18 (setBit x.running.toNat d.val false) }) s) else .next s
  | none => .next s

/-! ### Resets (R459, R483, R484, R525, R529 to R534) -/

/-- What the stacks keep over a reset without a loss of power: their lines with their metadata, not the attributes that gave them their meaning
(R106, R138, Table 15.6). -/
def keptStore (s : State) : Mem :=
  let m : Mem := { State.reset.mem with blank := s.mem.blank, lines := s.mem.lines }
  { m with lines := Tab.trim (Memory.blank m) m.lines }

/-- The state after a device reset: every register at its reset value, but what R483 and the boards keep: the flash, the fuse, the straps and
PWRCLK_BROWNOUT where they are kept. -/
def resetDevice (f : Power → Power) (cycle halts : Nat) (store : Mem) (s : State) : State :=
  let m : Mgmt := { fwFlash := s.mgmt.fwFlash, rigFlash := s.mgmt.rigFlash, minSvn := s.mgmt.minSvn, halts := halts }
  { State.reset with now := cycle, mem := store, power := f {}, mgmt := m, outbox := s.outbox, freeCount := s.freeCount, pending := s.pending }

/-- The device is OFF, its store lost (R459, R534, R538). -/
def goOff (trip : Bool) (s : State) : State := resetDevice (fun x => { x with phase := .off, tripLatch := trip }) 0 0 State.reset.mem s

/-- POWER_LOSS (R459). -/
def execPowerLoss (s : State) : Host.Outcome State Fault Refusal := .next (goOff s.power.tripLatch s)

/-- REFCLK_LOST (R534). -/
def execRefclkLost (s : State) : Host.Outcome State Fault Refusal := .next (goOff s.power.tripLatch s)

/-- TRIP_LATCH_CLEAR: P48V below 30 V, which is OFF, clears the trip latch (R459, R538). -/
def execTripLatchClear (s : State) : Host.Outcome State Fault Refusal := .next (goOff false s)

/-- COLD_POWER_UP: from OFF, unless the trip latch is set, to step 1 of Table 15.9 (R529, R532, R538). -/
def execColdPowerUp (s : State) : Host.Outcome State Fault Refusal :=
  if s.power.phase = .off && !s.power.tripLatch then .next (resetDevice (fun x => x) 0 0 State.reset.mem s) else .next s

/-- WARM_RESET: from step 1 of Table 15.9 (R483, R530). The AON registers and the stacks' content keep their values, HALTS counts from the cold reset, and the test port is
reset by TRST_N alone. -/
def execWarmReset (s : State) : Host.Outcome State Fault Refusal :=
  if s.power.phase = .off || landsTaken s then .next s
  else
    let old := s.power
    let keep (x : Power) : Power :=
      { x with compatA := old.compatA, sitePop := old.sitePop, brownouts := old.brownouts, brownoutCause := old.brownoutCause, test := old.test }
    .next (resetDevice keep 0 s.mgmt.halts (keptStore s) s)

/-- RESET_N_RISE, behind the cycles of TCK at the test port before it (R525, log 48): the straps are latched; populated sites have their
rail and sideband; a reserved value leaves every site empty and posts STRAP_FAULT (R47, R411, R531). -/
def execResetNRise (straps : Straps) (scan : List TapPins) (s : State) : Host.Outcome State Fault Refusal :=
  let s := eachS scan tapCycle s
  if s.power.phase ≠ .alwaysOn || landsTaken s then .next s else
  let s := modPower (fun x => { x with phase := .strapped, compatA := straps.compatA, sitePop := straps.sitePop }) s
  let s := eachS (populatedSites straps.sitePop.toNat) (fun k s => modSite k (fun x => { x with st := .reset, rail := true, sideband := true }) s) s
  .next (whenS (straps.sitePop = 3) (post { recOf s 0x0061 6 0xFF 0x71 with detail := 3 }) s)

/-- The clocks start: the dies have left keep-alive, and the base allowance is asked for (Table 15.5, Table 15.9). -/
def clocksStart (s : State) : State :=
  modPower (fun x => { x with phase := .clocked, pllLocked := true, pllTries := 0, keepAlive := false, running := BitVec.ofNat 18 0x3FFFF }) s

/-- PLL_LOCK: step 4 of Table 15.9, or step 3 of Table 15.5. METER starts at 0 after a cold or a warm reset (R471, R483). -/
def execPllLock (s : State) : Host.Outcome State Fault Refusal :=
  if s.power.phase = .strapped then
    let s := if s.power.recovering then s else { s with now := 0 }
    .next (queueDevice (modPower (fun x => { x with slotAt := s.now / 1000, budget := 40, slotRise := 0 }) (clocksStart s)))
  else if s.power.dark = .leaving && !s.power.pllLocked then .next (settle (resumeDark (admitWakes (clocksStart s))))
  else .next s

/-- PLL_LOCK_RETRY: the PLL has not locked within 100 µs and starts again (R530). -/
def execPllLockRetry (s : State) : Host.Outcome State Fault Refusal :=
  if s.power.phase = .strapped || (s.power.dark = .leaving && !s.power.pllLocked) then
    .next (modPower (fun x => { x with pllTries := x.pllTries + 1 }) s)
  else .next s

/-! ### Brown-outs (R479 to R481) -/

/-- A command in execution ends with BROWNOUT as a fault (step 3 of R480). -/
def brownCmd (c : Cmd) (s : State) : State :=
  let q := c.qp
  let n := c.count
  let browned (x : Cmd) : Cmd :=
    { x with
      fault := some (.brownout, BitVec.allOnes 64), stop := true, done := none, aborted := false, context := none, stream := 0, granted := false
      ready := false, rows := [], owes := [] }
  let s := modCmd q n browned s
  let s := modOrder (fun x =>
    { x with
      waits := x.waits.filter fun w => w.qp ≠ some (q, n)
      due := x.due.filter fun y => !(y.qp = q && y.count = n) }) s
  let s := modXlat (fun x =>
    { x with misses := x.misses.map fun m => { m with waiters := m.waiters.filter fun w => !(w.1 = q && w.2.1 = n) } }) s
  closeCmd q n (enterError q 1 (n % 2 ^ (getQp s q).sqLog) (statusCode .brownout) (cmdOp c) s)

/-- The Booths' allowances are released (step 5 of R480). -/
def releaseBooths (p : Nat) (s : State) : State :=
  let n := 12 * (partBooths s p).length
  if (getPart s p).released ≠ 0 || sleeping s p then s
  else modPart p (fun x => { x with released := n }) (modPower (fun x => { x with admitted := x.admitted - n }) s)

/-- A brown-out outside keep-alive: the commands in execution end with it, and every other command of their queue pairs with QP_ABORTED (R261, R480); the
Booths' reset refills the Tickets of their command queues (R25). -/
def brownOut (s : State) : State :=
  let s := modPower (fun x => { x with brownouts := satInc 32 x.brownouts, brownoutCause := 2, slotRise := 0 }) s
  let s := eachS (s.cmds.filter fun c => c.begun && c.fault.isNone) brownCmd s
  let s := eachS s.cmds stopCmd s
  let s := faultAll 4 s
  let s := eachS (List.range 40) clearBooth s
  let s := modQps (fun t => t.map fun e => (e.1, { e.2 with spent := 0 })) s
  let s := eachS (assigned s) releaseBooths s
  post (recOf s 0x0060 6 0xFF 0x7C) s

/-- BROWNOUT: the admitted current rose by more than 80 A within a slot (R479, R480). -/
def execBrownout (s : State) : Host.Outcome State Fault Refusal :=
  if !s.power.keepAlive && 80 < s.power.slotRise then .next (settle (brownOut s)) else .next s

/-- BROWNOUT_KEEP_ALIVE: more than 60 A admitted in keep-alive; the reset sequence runs from step 3, and the stacks keep their content (R479, R481,
Table 15.6). -/
def execBrownoutKeepAlive (s : State) : Host.Outcome State Fault Refusal :=
  if s.power.keepAlive && 60 < s.power.admitted then
    let old := s.power
    let f (x : Power) : Power :=
      { x with
        phase := .strapped, compatA := old.compatA, sitePop := old.sitePop, recovering := true
        brownouts := satInc 32 old.brownouts, brownoutCause := 1, test := old.test }
    let t := resetDevice f s.now s.mgmt.halts (keptStore s) s
    let t := eachS (populatedSites old.sitePop.toNat) (fun k s => modSite k (fun x => { x with st := .reset, rail := true, sideband := true }) s) t
    .next (whenS (old.sitePop = 3) (post { recOf t 0x0061 6 0xFF 0x71 with detail := 3 }) t)
  else .next s

/-! ### Sensors (R506, R507, R537, R538) -/

/-- The sensors of a sample, by sensor number (Table 16.6). -/
def sensorList (s : State) (t : Telemetry) : List (Nat × Int) :=
  [(0x01, t.hub)] ++ t.stackTemps.zipIdx.map (fun e => (0x10 + e.2, e.1)) ++
  [(0x30, (t.inputMv.toNat : Int)), (0x31, (t.inputW.toNat : Int)), (0x32, (t.coreA.toNat : Int))] ++
  (List.range 4).map fun k => (0x40 + k, ((getSite s k).average : Int))

/-- Whether a value lies beyond a sensor's thresholds. -/
def beyond (th : Int × Int) (v : Int) : Bool := decide (v < th.1) || decide (th.2 < v)

/-- One sensor sampled: a crossing of a threshold goes to the event receiver (R506). -/
def sampleSensor (e : Nat × Int) (s : State) : State :=
  let old := Tab.get 0 s.mgmt.sensors e.1
  let crossed := match Tab.find s.mgmt.thresholds e.1 with
    | some th => beyond th old != beyond th e.2
    | none => false
  let s := modMgmt (fun m => { m with sensors := Tab.insert m.sensors e.1 e.2 }) s
  whenS (crossed && s.mgmt.receiver.isSome && s.mgmt.boot = .running)
    (emit (.event "SENSOR_THRESHOLD" (leBytes 2 e.1))) s

/-- Whether a sample lies over the limits of a trip (Table 18.9). -/
def tripped (t : Telemetry) : Bool := decide (1150 ≤ t.hub) || t.stackTemps.any (950 ≤ ·) || t.dies.any (1250 ≤ ·)

/-- The throttles of a sample: the stacks whose refresh is doubled, the Booths at half rate (Table 18.9). -/
def throttle (t : Telemetry) (x : Power) : Power :=
  let hot (e : Int × Nat) : Bool := decide (850 ≤ e.1) || (x.hotStacks.contains e.2 && decide (830 ≤ e.1))
  { x with
    inputMv := t.inputMv, inputW := t.inputW, coreA := t.coreA
    hotStacks := (t.stackTemps.zipIdx.filter hot).map Prod.snd
    halfRate := decide (1000 ≤ t.hub) || (x.halfRate && decide (950 ≤ t.hub))
    tripSamples := if tripped t then x.tripSamples + 1 else 0 }

/-- TELEMETRY_SAMPLE: once in each window of 500,000 METER cycles, while MGMT runs (R506, R537, R538). -/
def execTelemetrySample (t : Telemetry) (s : State) : Host.Outcome State Fault Refusal :=
  let n := s.now / 500000
  if s.power.phase ≠ .clocked || !s.power.pllLocked || n < s.power.sampled then .next s else
  let s := modPower (fun x => { throttle t x with sampled := n + 1 }) (eachS (sensorList s t) sampleSensor s)
  if 2 ≤ s.power.tripSamples then .next (goOff true s) else .next s

/-! ### Meters (R510) -/

/-- METER_WINDOW_END: a bank's window ends (R510). -/
def execMeterWindowEnd (n : Fin 32) (s : State) : Host.Outcome State Fault Refusal :=
  let b := getBank s n.val
  if b.isOpen && banksRun s.power && windowEnd b ≤ s.now then .next (modBank n.val (rollBank s.now) s) else .next s

/-! ### PWRCLK registers (R485) -/

/-- A write to PWRCLK_PART_CTRLp: by a writer of p or with MGMT_PRIV; a reserved ACTION is recorded (R485, Table 15.17). -/
def powerPartCtrl (w : Writer) (p v : Nat) (s : State) : Wrote :=
  let addr := 0x1C0100 + 8 * p
  if !writerMay s w p then denyWrite w addr v .protection s
  else match bits v 0 3 with
  | 1 => wrote (askCurtain p s)
  | 2 => wrote (askWake p s)
  | _ => denyWrite w addr v .malformed s

/-- A write to PWRCLK_DEVICE_CTRL (R485, Table 15.11). -/
def powerDeviceCtrl (w : Writer) (v : Nat) (s : State) : Wrote :=
  if !writerPriv s w then denyWrite w 0x1C0008 v .protection s
  else if bits v 0 3 = 1 then wrote (askDark s)
  else denyWrite w 0x1C0008 v .malformed s

/-- PWRCLK_CURTAIN (R463). -/
def execPwrclkCurtain (w : Writer) (p : Fin 32) (s : State) : Host.Outcome State Fault Refusal := writeCmd w (powerPartCtrl w p.val 1) s

/-- PWRCLK_WAKE (R465). -/
def execPwrclkWake (w : Writer) (p : Fin 32) (s : State) : Host.Outcome State Fault Refusal := writeCmd w (powerPartCtrl w p.val 2) s

/-- PWRCLK_DARK (R467). -/
def execPwrclkDark (w : Writer) (s : State) : Host.Outcome State Fault Refusal := writeCmd w (powerDeviceCtrl w 1) s

end Sys2Proof.Machine
end

