-- ==== Sys2Proof/Machine/Mgmt.lean ====
section
/-! DEFINITION. The Ringmaster (16): its boot chain, its halts, updates, attestation, keys, sensors, the event receiver and the
partitions' mailboxes. Message bodies are those of other standards: a response is named here by its message and its data. -/

namespace Sys2Proof.Machine

/-! ### The boot chain (R487 to R491, R495, R496) -/

/-- The straps byte: bits [7:0] of GLOBAL_STRAPS (Table 18.11). -/
def strapsByte (s : State) : Nat := pack [(1, 2, s.power.sitePop.toNat), (0, 1, bit s.power.compatA)]

/-- MIN_SVN in force (Table 16.10, R491). -/
def minSvn (s : State) : Nat := s.mgmt.minSvn.getD Config.minSvnFuse

/-- The steps 2 to 6 of R489 on an image: the FAIL_CODE of the first that fails, 0 when none does (Tables 16.2, 16.9). -/
def firmwareFail (s : State) (img : List Byte) : Nat :=
  let f := leAt img
  let len := f 0x0C 4
  let sig := f 0x18 4
  let code := f 0x10 4
  let body := img.take len
  let lengths := decide (256 ≤ img.length) && decide (len ≤ img.length) && decide (len ≤ 2 ^ 22) && decide (sig + sigLen = len) &&
    decide (0x1080 ≤ code) && code % 8 = 0 && decide (f 0x14 4 ≤ 896 * 1024) && decide (code + f 0x14 4 ≤ sig)
  if f 0 4 ≠ 0x57464E54 || !lengths then 1
  else if f 4 2 ≠ 1 || !(f 6 2 = 0xB0 || (f 6 2 = 0xA0 && s.power.compatA)) then 2
  else if sha384 ((img.drop 0x100).take 32) ≠ Config.rootEdDigestFuse || sha384 ((img.drop 0x120).take 1952) ≠ Config.rootMldsaDigestFuse then 5
  else if imageDigest body sig ≠ (img.drop 0x20).take 48 then 3
  else if !signed ((img.drop 0x100).take 32) ((img.drop 0x120).take 1952) body sig then 4
  else if f 8 4 < minSvn s then 6
  else 0

/-- The Ringmaster, bus owner on the sidebands, assigns each site die its endpoint ID (R420). No rule states the ID, which is free (log 61). -/
def assignEids (s : State) : State :=
  eachS ((List.range 4).filter fun k => (getSite s k).sideband) (fun k s =>
    let e := drawFree s
    emit (.endpoint k (e.1.setWidth 8)) (modSite k (fun x => { x with eid := (e.1.setWidth 8).toNat }) e.2)) s

/-- The firmware runs: its digest, its SVN and its rigging keys are in force, the identity is derived (step 7 of R489, R496), and the site dies get
their endpoint IDs. -/
def runFirmware (s : State) : State :=
  let img := s.mgmt.fwFlash
  let digest := (img.drop 0x20).take 48
  let cdi := Config.hmacSha384 Config.udsFuse (digest ++ leBytes 4 (leAt img 8 4) ++ [BitVec.ofNat 8 (strapsByte s)])
  assignEids <| modMgmt (fun m =>
    { m with
      boot := .running, failCode := 0, svn := leAt img 8 4, fwDigest := digest, refreshed := s.now
      rigEd := (img.drop 0x8C0).take 32, rigMldsa := (img.drop 0x8E0).take 1952, raiseSvn := (leAt img 0x1C 4).testBit 0
      devidSeed := Config.hkdf Config.udsFuse "TN2560 DeviceID", aliasSeed := Config.hkdf cdi "TN2560 Alias" }) s

/-- The code of a cause of halt (Table 16.9). -/
def haltCode : HaltCause → Nat
  | .watchdog => 1 | .trap => 2 | .sramCheck => 3 | .romSelfTest => 4

/-- The Ringmaster halts: recorded and posted, every partition FAULTED, the MGMT domain reset, which refills the Tickets of the Barker (R25), a
segment that has not switched discarded; the boot chain runs again, or stops in await-image after four halts within 100 ms (R494). -/
def halt (c : HaltCause) (s : State) : State :=
  let times := (s.mgmt.haltTimes.filter fun t => s.now < t + 50000000) ++ [s.now]
  let m := s.mgmt
  let next : Mgmt :=
    { boot := if 4 ≤ times.length then .awaitImage else .halted, haltCause := haltCode c, halts := satInc 8 m.halts, haltTimes := times
      minSvn := m.minSvn, fwFlash := m.fwFlash, rigFlash := m.rigFlash, keys := m.keys, sensors := m.sensors }
  let s := faultAll 5 s
  let s := modMgmt (fun _ => next) s
  let s := modPower (fun x => { x with segWaits := [] }) (modRig (fun r => { r with loaded := none }) s)
  refillBarker (post { recOf s 0x0062 6 0xFF 0x71 with detail := haltCode c } s)

/-- BOOT_CHAIN: the ROM's steps, once PWRGD_OUT is released, or again after a halt or an activation (R489). -/
def bootChain (selfTest flashAnswers : Bool) (s : State) : State :=
  if !(s.power.pwrgd && (s.mgmt.boot = .rom || s.mgmt.boot = .halted)) then s
  else if !selfTest then halt .romSelfTest s
  else
    let code := if flashAnswers && !landsTaken s then firmwareFail s s.mgmt.fwFlash else 7
    if code = 0 then forwardHead (runFirmware s) else modMgmt (fun m => { m with boot := .awaitImage, failCode := code }) s

/-- BOOT_CHAIN (R489). -/
def execBootChain (selfTest : Bool) (flashAnswers : Bool) (s : State) : Host.Outcome State Fault Refusal :=
  .next (settle (bootChain selfTest flashAnswers s))

/-- WATCHDOG_EXPIRY: 1 ms without a refresh, 500,000 METER cycles (R493). -/
def execWatchdogExpiry (s : State) : Host.Outcome State Fault Refusal :=
  if s.mgmt.boot = .running && s.mgmt.refreshed + 500000 ≤ s.now then .next (settle (halt .watchdog s)) else .next s

/-- RINGMASTER_HALT (R494). -/
def execRingmasterHalt (cause : HaltCause) (s : State) : Host.Outcome State Fault Refusal :=
  if s.mgmt.boot = .running || s.mgmt.boot = .rom || s.mgmt.boot = .awaitImage then .next (settle (halt cause s)) else .next s

/-! ### Messages and their authority (R503, R504, Table 16.5) -/

/-- The partition a transport acts for: none for I3C and for an unbound site. -/
def transportPart (s : State) : Transport → Option Nat
  | .i3c => none
  | .sideband k => sitePart s.rig.cur k.val
  | .mailbox p => some p.val

/-- Whether a transport has the authority of MGMT_PRIV: I3C has every authority. -/
def transportPriv (s : State) (t : Transport) : Bool :=
  match t, transportPart s t with
  | .i3c, _ => true
  | _, some p => mgmtPrivOf s.rig.cur p
  | _, none => false

/-- A partition's mailbox. -/
def getMbox (s : State) (p : Nat) : Mailbox := Tab.get {} s.mgmt.mboxes p

/-- Updates a partition's mailbox. -/
def modMbox (p : Nat) (f : Mailbox → Mailbox) (s : State) : State :=
  modMgmt (fun m => { m with mboxes := Tab.insert m.mboxes p (f (Tab.get {} m.mboxes p)) }) s

/-- Whether a transport carries a message now: I3C while MGMT runs, a sideband that is up, a mailbox that holds a request. -/
def carries (s : State) : Transport → Bool
  | .i3c => s.power.pwrgd && s.power.pllLocked && !landsTaken s
  | .sideband k => (getSite s k.val).sideband && s.power.pwrgd && s.power.pllLocked
  | .mailbox p => decide ((getMbox s p.val).st = 1)

/-- Where a message entered the device (Table 14.17). -/
def transportLoc : Transport → Nat
  | .sideband k => 0x30 + k.val
  | _ => 0x71

/-- A response leaves: on its transport, and for a mailbox in its buffer too, with the state of the mailbox (Table 16.11). -/
def mgmtReply (t : Transport) (name : String) (code : Nat) (data : List Byte) (refused : Bool) (s : State) : State :=
  let s := emit (.mgmt t name code data) s
  match t with
  | .mailbox p =>
    modMbox p.val (fun x =>
      { x with
        st := if refused then 3 else 2, respLen := min 4032 data.length
        buffer := (chunks 8 (data.length / 8 + 1) (data.take 4032)).zipIdx.foldl (fun b e =>
          if e.1.isEmpty then b else Tab.put 0 b e.2 (BitVec.ofNat 64 (ofLe e.1))) x.buffer }) s
  | _ => s

/-- A message that Table 16.5 does not allow, or that is not supported: an error, and an access-violation event (R504). -/
def unsupported (t : Transport) (s : State) : State :=
  let p := match transportPart s t with
    | some p => existing s p
    | none => 0xFF
  post (recOf s 0x0001 1 p (transportLoc t)) (mgmtReply t "ERROR_UNSUPPORTED" 1 [] true s)

/-- The kinds of messages of Table 16.5. -/
inductive MsgKind where
  | control | spdm | platform | update
deriving DecidableEq, Repr

/-- Whether a transport may send a kind of message (Table 16.5). An update from a mailbox without MGMT_PRIV is held to its partition's
segments at each of its steps. -/
def mayManage (s : State) (t : Transport) (k : MsgKind) : Bool :=
  match k with
  | .control => true
  | .spdm => true
  | .platform => transportPriv s t
  | .update => transportPriv s t || (match t with | .mailbox _ => true | _ => false)

/-- A message reaches the Ringmaster. In await-image it answers MCTP control and firmware updates alone, on I3C and the sidebands; before
it runs and while halted, nothing (R490, R504). -/
def manage (t : Transport) (k : MsgKind) (f : State → State) (s : State) : State :=
  if !carries s t then s else
  match s.mgmt.boot with
  | .rom => s
  | .halted => s
  | .awaitImage =>
    let board := match t with | .mailbox _ => false | _ => true
    if !board || !(k = .control || k = .update) then s
    else if mayManage s t k || s.rig.rigged = false then f s else unsupported t s
  | .running => if mayManage s t k then f s else unsupported t s

/-- MCTP_CONTROL: answered; Set Endpoint ID gives the device its identifier on the board's bus; on a sideband the Ringmaster is the bus owner, and takes
none (R420, R503). -/
def execMctpControl (t : Transport) (command : BitVec 8) (eid : BitVec 8) (s : State) : Host.Outcome State Fault Refusal :=
  .next (settle (manage t .control (fun s =>
    let set := command = 1
    let s := match t with
      | .i3c => whenS set (modMgmt fun m => { m with eid := eid.toNat }) s
      | _ => s
    mgmtReply t "MCTP_CONTROL" 0 [command, eid] false s) s))

/-! ### Updates (R490 to R492) -/

/-- Updates the update in progress. -/
def modUpdate (f : Update → Update) (s : State) : State := modMgmt (fun m => { m with update := f m.update }) s

/-- A step of the update in progress: from its own transport, at its stage; another is answered as out of place. -/
def updateStep (t : Transport) (stage : UpdStage) (f : Update → State → State) (s : State) : State :=
  let u := s.mgmt.update
  if u.transport = some t && u.stage = stage then f u s else mgmtReply t "NOT_IN_UPDATE_MODE" 1 [] false s

/-- REQUEST_UPDATE (R492). -/
def execRequestUpdate (t : Transport) (s : State) : Host.Outcome State Fault Refusal :=
  .next (settle (manage t .update (fun s =>
    if s.mgmt.update.stage ≠ .idle then mgmtReply t "ALREADY_IN_UPDATE_MODE" 1 [] false s
    else mgmtReply t "RequestUpdate" 0 [] false (modUpdate (fun _ => { stage := .requested, transport := some t }) s)) s))

/-- PASS_COMPONENT_TABLE: in await-image only the firmware is supported (R490, Table 16.3). -/
def execPassComponentTable (t : Transport) (component : BitVec 16) (s : State) : Host.Outcome State Fault Refusal :=
  let n := component.toNat
  .next (settle (manage t .update (updateStep t .requested (fun _ s =>
    let known := 1 ≤ n && n ≤ 3 && (s.mgmt.boot = .running || n = 1)
    if !known then mgmtReply t "COMPONENT_NOT_SUPPORTED" 1 [] false s
    else if n ≠ 3 && !(transportPriv s t || s.mgmt.boot = .awaitImage) then unsupported t (modUpdate (fun _ => {}) s)
    else mgmtReply t "PassComponentTable" 0 [] false (modUpdate (fun u => { u with stage := .passed, component := n }) s))) s))

/-- The checks a component passes before it is applied: its FAIL_CODE, or its result code of Table 2.6 with its section (Table 16.3). An image whose
SEGMENT disagrees with its component is a segment inside the reset sequence, or a full image outside it: the last check (R42). -/
def verifyComponent (s : State) (n : Nat) (image : List Byte) : Nat × Nat :=
  if n = 1 then (firmwareFail s image, noSect) else
  match parseImage s.mgmt.rigEd s.mgmt.rigMldsa image with
  | .error e => e
  | .ok i =>
    let other := i.seg ≠ decide (n = 3)
    if n = 3 && !other then (0, noSect)
    else match checkMaps s i with
    | .error e => e
    | .ok m =>
      if !other then (0, noSect)
      else match gate s i m with
      | .error e => e
      | .ok _ => (11, noSect)

/-- Whether a segment image is one for a transport's own partition (Table 16.5). -/
def ownSegment (s : State) (t : Transport) (image : List Byte) : Bool := transportPart s t = some (leAt image 0x18 1)

/-- VERIFY_COMPLETE: the transferred component is checked, and one that fails is refused (R490, R492). -/
def execVerifyComplete (t : Transport) (image : List Byte) (s : State) : Host.Outcome State Fault Refusal :=
  .next (settle (manage t .update (updateStep t .passed (fun u s =>
    if !(transportPriv s t || s.mgmt.boot = .awaitImage || ownSegment s t image) then unsupported t (modUpdate (fun _ => {}) s) else
    let r := verifyComponent s u.component image
    if r.1 = 0 then mgmtReply t "VerifyComplete" 0 [] false (modUpdate (fun u => { u with stage := .verified, image := image }) s)
    else
      let s := if u.component = 1 then s else refuseImage r s
      mgmtReply t "VerifyComplete" r.1 [] false (modUpdate (fun _ => {}) s))) s))

/-- What a region of the flash holds after a write that did not read back: a part of the image whose length is free (log 5). -/
def tornImage (image : List Byte) (s : State) : List Byte × State :=
  let d := drawFree s
  (image.take (d.1.toNat % (image.length + 1)), d.2)

/-- A component is written to its region of the flash (Table 16.3). -/
def writeFlash (n : Nat) (image : List Byte) (s : State) : State :=
  modMgmt (fun m => if n = 1 then { m with fwFlash := image } else { m with rigFlash := image }) s

/-- APPLY_COMPLETE: an image is written and read back; a segment takes steps 1 and 2 of Table 2.8 (R490, R492). -/
def execApplyComplete (t : Transport) (readBack : Bool) (s : State) : Host.Outcome State Fault Refusal :=
  .next (settle (manage t .update (updateStep t .verified (fun u s =>
    if u.component = 3 then
      let s := presentImage (some t) u.image s
      let ok := (s.rig.loaded.any fun l => l.from_ = some t) || s.power.segWaits.any fun w => w.from_ = some t
      mgmtReply t "ApplyComplete" (if ok then 0 else s.rig.lastResult) [] false
        (modUpdate (fun u => if ok then { u with stage := .applied } else {}) s)
    else if landsTaken s then mgmtReply t "ApplyComplete" 1 [] false (modUpdate (fun _ => {}) s)
    else if readBack then
      mgmtReply t "ApplyComplete" 0 [] false (modUpdate (fun u => { u with stage := .applied }) (writeFlash u.component u.image s))
    else
      let r := tornImage u.image s
      mgmtReply t "ApplyComplete" 1 [] false (modUpdate (fun _ => {}) (writeFlash u.component r.1 r.2)))) s))

/-- What an activation does (Table 16.3): the boot chain restarts in await-image, a full image is applied while unrigged, a segment
switches, and is answered once it has; one that waits for its partition to leave CURTAIN does so then (R492, Table 15.4). -/
def activate (t : Transport) (u : Update) (s : State) : State :=
  if u.component = 3 && s.power.segWaits.any (fun w => w.from_ = some t) then modUpdate (fun u => { u with stage := .activating }) s else
  let s := modUpdate (fun _ => {}) s
  if u.component = 1 then
    let s := mgmtReply t "ActivateFirmware" 0 [] false s
    whenS (s.mgmt.boot = .awaitImage) (modMgmt fun m => { m with boot := .rom }) s
  else if u.component = 2 then
    let s := if s.rig.rigged then s else presentImage none u.image s
    mgmtReply t "ActivateFirmware" (if s.rig.rigged then 0 else s.rig.lastResult) [] false s
  else match s.rig.loaded with
  | some l =>
    if l.from_ = some t then mgmtReply t "ActivateFirmware" 0 [] false (switchSegment l s)
    else mgmtReply t "ActivateFirmware" 1 [] false s
  | none => mgmtReply t "ActivateFirmware" (if s.rig.lastResult = 0 then 1 else s.rig.lastResult) [] false s

/-- ACTIVATE_FIRMWARE (R492). -/
def execActivateFirmware (t : Transport) (s : State) : Host.Outcome State Fault Refusal :=
  .next (settle (manage t .update (updateStep t .applied (activate t)) s))

/-- A segment that waited for its partition has been taken: its activation, if it has been asked for, goes on (R492). -/
def activateWaited (t : Transport) (s : State) : State :=
  let u := s.mgmt.update
  whenS (u.stage = .activating && u.transport = some t) (activate t u) s

/-! ### Sensors and the event receiver (R506, R507) -/

/-- The numeric sensors (Table 16.6). -/
def numericSensor (n : Nat) : Bool := n = 1 || (0x10 ≤ n && n ≤ 0x23) || (0x30 ≤ n && n ≤ 0x32) || (0x40 ≤ n && n ≤ 0x43)

/-- SET_SENSOR_THRESHOLDS (R506). -/
def execSetSensorThresholds (t : Transport) (sensor : BitVec 16) (low : Int) (high : Int) (s : State) : Host.Outcome State Fault Refusal :=
  .next (settle (manage t .platform (fun s =>
    if numericSensor sensor.toNat then
      mgmtReply t "SetSensorThresholds" 0 [] false (modMgmt (fun m => { m with thresholds := Tab.insert m.thresholds sensor.toNat (low, high) }) s)
    else mgmtReply t "INVALID_SENSOR_ID" 1 [] false s) s))

/-- EVENT_RECEIVER_REGISTRATION: the receiver is registered, and the queue's records are forwarded to it (R507). -/
def execEventReceiverRegistration (t : Transport) (s : State) : Host.Outcome State Fault Refusal :=
  .next (settle (manage t .platform (fun s =>
    forwardHead (mgmtReply t "SetEventReceiver" 0 [] false (modMgmt (fun m => { m with receiver := some t }) s))) s))

/-- PLATFORM_EVENT_ACK: HEAD advances past the acknowledged record, and the next one is forwarded (R507). -/
def execPlatformEventAck (s : State) : Host.Outcome State Fault Refusal :=
  let b := s.barker
  if s.mgmt.boot = .running && s.mgmt.receiver.isSome && b.head ≠ b.tail then
    .next (forwardHead (modBarker (fun b => { b with head := b.head + 1 }) s))
  else .next s

/-! ### Attestation (R497 to R501) -/

/-- The number of a transport's SPDM connection: each is one of its own (R503). -/
def transportNo : Transport → Nat
  | .i3c => 0
  | .sideband k => 1 + k.val
  | .mailbox p => 5 + p.val

/-- The SPDM connection of a transport. -/
def getSpdm (s : State) (t : Transport) : Spdm := Tab.get {} s.mgmt.spdms (transportNo t)

/-- Updates the SPDM connection of a transport. -/
def modSpdm (t : Transport) (f : Spdm → Spdm) (s : State) : State :=
  modMgmt (fun m => { m with spdms := Tab.put {} m.spdms (transportNo t) (f (Tab.get {} m.spdms (transportNo t))) }) s

/-- An SPDM response; one longer than a mailbox carries is fetched in chunks (R498, R512). -/
def spdmAnswer (t : Transport) (name : String) (data : List Byte) (s : State) : State :=
  if data.length ≤ 4032 then mgmtReply t name 0 data false s
  else mgmtReply t "LARGE_RESPONSE" 1 [] false (modSpdm t (fun x => { x with chunkOut := data, outSeq := 0 }) s)

/-- An SPDM error. -/
def spdmError (t : Transport) (name : String) (s : State) : State := mgmtReply t name 1 [] false s

/-- An SPDM request in its place: any request but PQ_SIGNATURE ends the offer of one (R499). -/
def spdm (t : Transport) (ok : Spdm → Bool) (f : State → State) (s : State) : State :=
  manage t .spdm (fun s =>
    let s := modSpdm t (fun x => { x with owed := false }) s
    if ok (getSpdm s t) then f s else spdmError t "ERROR_UnexpectedRequest" s) s

/-- The transcript grows by a request's and a response's data. -/
def record (t : Transport) (b : List Byte) (s : State) : State := modSpdm t (fun x => { x with transcript := x.transcript ++ b }) s

/-- A signed response: the Ed25519 Alias signature of the transcript's hash, after the data (R499, log 6). -/
def signAnswer (t : Transport) (name : String) (data : List Byte) (s : State) : State :=
  let s := record t data s
  let h := sha384 (getSpdm s t).transcript
  spdmAnswer t name (data ++ Config.ed25519Sign s.mgmt.aliasSeed h) (modSpdm t (fun x => { x with owed := true }) s)

/-- GET_VERSION: SPDM 1.3; the connection starts anew (R498). -/
def execGetVersion (t : Transport) (s : State) : Host.Outcome State Fault Refusal :=
  .next (settle (spdm t (fun _ => true) (fun s =>
    spdmAnswer t "VERSION" [0x00, 0x13] (modSpdm t (fun _ => { versioned := true, transcript := [0x13, 0x84, 0x00, 0x13] }) s)) s))

/-- GET_CAPABILITIES (R498). -/
def execGetCapabilities (t : Transport) (s : State) : Host.Outcome State Fault Refusal :=
  .next (settle (spdm t Spdm.versioned (fun s =>
    spdmAnswer t "CAPABILITIES" [] (record t [0x13, 0xE1] (modSpdm t (fun x => { x with capable := true }) s))) s))

/-- The algorithms of an offer that the device supports, one bit each (R498). -/
def algorithmBits (o : Algorithms) : Nat := pack [(0, 1, bit o.ed25519), (1, 1, bit o.sha384), (2, 1, bit o.secp384r1), (3, 1, bit o.aes256Gcm)]

/-- NEGOTIATE_ALGORITHMS: the device offers its own algorithms only; a connection needs the signature and the hash, a session the exchange
and the cipher too (R498). -/
def execNegotiateAlgorithms (t : Transport) (offer : Algorithms) (s : State) : Host.Outcome State Fault Refusal :=
  .next (settle (spdm t Spdm.capable (fun s =>
    let b := [BitVec.ofNat 8 (algorithmBits offer)]
    spdmAnswer t "ALGORITHMS" b (record t ([0x13, 0xE3] ++ b) (modSpdm t (fun x =>
      { x with
        negotiated := offer.ed25519 && offer.sha384
        sessions := offer.ed25519 && offer.sha384 && offer.secp384r1 && offer.aes256Gcm }) s))) s))

/-- The certificate chain of a slot (R497, R498, log 6). -/
def chain (s : State) (slot : Nat) : List Byte := Config.certificateChain slot s.mgmt.aliasSeed

/-- GET_DIGESTS: the digests of chain 0 and chain 1 (R498). -/
def execGetDigests (t : Transport) (s : State) : Host.Outcome State Fault Refusal :=
  .next (settle (spdm t Spdm.negotiated (fun s =>
    let d := sha384 (chain s 0) ++ sha384 (chain s 1)
    spdmAnswer t "DIGESTS" d (record t ([0x13, 0x81] ++ d) s)) s))

/-- GET_CERTIFICATE: a portion of the chain of slot 0 or 1 (R497, R498). -/
def execGetCertificate (t : Transport) (slot : BitVec 4) (offset : BitVec 16) (length : BitVec 16) (s : State) :
    Host.Outcome State Fault Refusal :=
  .next (settle (spdm t Spdm.negotiated (fun s =>
    if 1 < slot.toNat then spdmError t "ERROR_InvalidRequest" s else
    let d := ((chain s slot.toNat).drop offset.toNat).take length.toNat
    spdmAnswer t "CERTIFICATE" d (record t ([0x13, 0x82] ++ d) s)) s))

/-- CHALLENGE (R499). -/
def execChallenge (t : Transport) (slot : BitVec 4) (nonce : List Byte) (s : State) : Host.Outcome State Fault Refusal :=
  .next (settle (spdm t Spdm.negotiated (fun s =>
    if 1 < slot.toNat then spdmError t "ERROR_InvalidRequest" s
    else signAnswer t "CHALLENGE_AUTH" (sha384 (chain s slot.toNat)) (record t ([0x13, 0x83] ++ nonce) s)) s))

/-- The content of a measurement block (Table 16.4). -/
def measurement (s : State) (i : Nat) : List Byte :=
  match i with
  | 1 => Config.romDigest
  | 2 => s.mgmt.fwDigest
  | 3 => leBytes 4 s.mgmt.svn ++ leBytes 4 (minSvn s)
  | 4 => [BitVec.ofNat 8 (strapsByte s), 0xB0, 0x00]
  | 5 => s.rig.fullDigest
  | 6 => s.rig.chainDigest ++ leBytes 1 s.rig.epoch ++ leBytes 8 s.rig.imageId.toNat
  | 7 => leBytes 2 s.rig.locks
  | 8 => leBytes 4 ((s.mgmt.keys.map fun e => 2 ^ e.1).foldl (· + ·) 0)
  | _ => []

/-- GET_MEASUREMENTS: index 0 asks for their number, 0xFF for every block, 1 to 8 for one; every block is taken at once (R500, R501). -/
def execGetMeasurements (t : Transport) (index : BitVec 8) (isSigned : Bool) (nonce : List Byte) (s : State) :
    Host.Outcome State Fault Refusal :=
  let i := index.toNat
  .next (settle (spdm t Spdm.negotiated (fun s =>
    let s := record t ([0x13, 0xE0, index] ++ nonce) s
    if 8 < i && i ≠ 0xFF then spdmError t "ERROR_InvalidRequest" s else
    let d := if i = 0 then [0x08] else if i = 0xFF then (List.range 8).flatMap fun k => measurement s (k + 1) else measurement s i
    if isSigned then signAnswer t "MEASUREMENTS" d s else spdmAnswer t "MEASUREMENTS" d (record t d s)) s))

/-- KEY_EXCHANGE: a session starts, its response signed (R498, R499). -/
def execKeyExchange (t : Transport) (slot : BitVec 4) (sessionId : BitVec 16) (exchange : List Byte) (s : State) :
    Host.Outcome State Fault Refusal :=
  .next (settle (spdm t Spdm.sessions (fun s =>
    if 1 < slot.toNat then spdmError t "ERROR_InvalidRequest" s
    else
      let s := modSpdm t (fun x => { x with session := some sessionId.toNat, established := false, updates := 0 }) s
      signAnswer t "KEY_EXCHANGE_RSP" (leBytes 2 sessionId.toNat) (record t ([0x13, 0xE4] ++ exchange) s)) s))

/-- FINISH: the session is established when its proof verifies (R498). -/
def execFinish (t : Transport) (verified : Bool) (s : State) : Host.Outcome State Fault Refusal :=
  .next (settle (spdm t (fun x => x.session.isSome && !x.established) (fun s =>
    if verified then spdmAnswer t "FINISH_RSP" [] (modSpdm t (fun x => { x with established := true }) s)
    else spdmError t "ERROR_DecryptError" (modSpdm t (fun x => { x with session := none }) s)) s))

/-- HEARTBEAT (R498). -/
def execHeartbeat (t : Transport) (s : State) : Host.Outcome State Fault Refusal :=
  .next (settle (spdm t Spdm.established (spdmAnswer t "HEARTBEAT_ACK" []) s))

/-- KEY_UPDATE: the session's keys advance (R498). -/
def execKeyUpdate (t : Transport) (s : State) : Host.Outcome State Fault Refusal :=
  .next (settle (spdm t Spdm.established (fun s =>
    spdmAnswer t "KEY_UPDATE_ACK" [] (modSpdm t (fun x => { x with updates := x.updates + 1 }) s)) s))

/-- END_SESSION (R498). -/
def execEndSession (t : Transport) (s : State) : Host.Outcome State Fault Refusal :=
  .next (settle (spdm t Spdm.established (fun s =>
    spdmAnswer t "END_SESSION_ACK" [] (modSpdm t (fun x => { x with session := none, established := false, updates := 0 }) s)) s))

/-- CHUNK_SEND: a part of a long request, in sequence (R498, R512). -/
def execChunkSend (t : Transport) (seqNo : BitVec 16) (last : Bool) (bytes : List Byte) (s : State) : Host.Outcome State Fault Refusal :=
  .next (settle (spdm t Spdm.capable (fun s =>
    let x := getSpdm s t
    if seqNo.toNat ≠ x.chunkSeq then spdmError t "ERROR_InvalidRequest" (modSpdm t (fun x => { x with chunkIn := [], chunkSeq := 0 }) s)
    else
      let s := modSpdm t (fun x => { x with chunkIn := if last then [] else x.chunkIn ++ bytes, chunkSeq := if last then 0 else x.chunkSeq + 1 }) s
      spdmAnswer t "CHUNK_SEND_ACK" [] s) s))

/-- CHUNK_GET: the next part of a long response (R498, R512). -/
def execChunkGet (t : Transport) (seqNo : BitVec 16) (s : State) : Host.Outcome State Fault Refusal :=
  .next (settle (manage t .spdm (fun s =>
    let x := getSpdm s t
    if !x.capable || x.chunkOut.isEmpty || seqNo.toNat ≠ x.outSeq then spdmError t "ERROR_UnexpectedRequest" s
    else spdmAnswer t "CHUNK_RESPONSE" (x.chunkOut.take 4032)
      (modSpdm t (fun x => { x with chunkOut := x.chunkOut.drop 4032, outSeq := x.outSeq + 1 }) s)) s))

/-- PQ_SIGNATURE: once for each signed response, the ML-DSA-65 Alias signature of the same hash (R499, log 6). -/
def execPqSignature (t : Transport) (s : State) : Host.Outcome State Fault Refusal :=
  .next (settle (manage t .spdm (fun s =>
    let x := getSpdm s t
    if !x.owed then spdmError t "ERROR_UnexpectedRequest" s
    else spdmAnswer t "PQ_SIGNATURE" (Config.mldsaSign s.mgmt.aliasSeed (sha384 x.transcript)) (modSpdm t (fun x => { x with owed := false }) s)) s))

/-! ### Key slots (R502) -/

/-- Whether a transport may use a key slot (Table 16.5). -/
def mayKey (s : State) (t : Transport) (slot : Nat) : Bool :=
  transportPriv s t || (match (transportPart s t).bind (Tab.find s.rig.cur.parts) with | some r => r.keySlot = slot | none => false)

/-- A key request: inside an established session, for a slot that exists, from a requester that may use it (R502). -/
def keyRequest (t : Transport) (slot : Nat) (f : State → State) (s : State) : State :=
  spdm t Spdm.established (fun s =>
    if 31 < slot then spdmError t "ERROR_InvalidRequest" s
    else if !mayKey s t slot then unsupported t s
    else f s) s

/-- SET_KEY (R502). -/
def execSetKey (t : Transport) (slot : BitVec 8) (key : BitVec 512) (s : State) : Host.Outcome State Fault Refusal :=
  .next (settle (keyRequest t slot.toNat (fun s =>
    if (Tab.find s.mgmt.keys slot.toNat).isSome then mgmtReply t "KEY_BUSY" 1 [] false s
    else mgmtReply t "SET_KEY" 0 [] false (modMgmt (fun m => { m with keys := Tab.insert m.keys slot.toNat key }) s)) s))

/-- CLEAR_KEY (R502). -/
def execClearKey (t : Transport) (slot : BitVec 8) (s : State) : Host.Outcome State Fault Refusal :=
  .next (settle (keyRequest t slot.toNat (fun s =>
    let inUse (e : Nat × PartRec) : Bool :=
      let st := (getPart s e.1).st
      e.2.keySlot = slot.toNat && (st = .starting || st = .running || st = .stopping)
    if s.rig.cur.parts.any inUse then mgmtReply t "KEY_BUSY" 1 [] false s
    else mgmtReply t "CLEAR_KEY" 0 [] false (modMgmt (fun m => { m with keys := Tab.erase m.keys slot.toNat }) s)) s))

/-! ### Mailboxes (R512) -/

/-- The address of MGMT_MBOXp_CTRL. -/
def mboxAddr (p : Nat) : Nat := 0x200100 + 8 * p

/-- A write to MGMT_MBOXp_CTRL: the request's length and type, and GO; a length outside 1 to 4,032 is refused (R512, Table 16.11). -/
def mboxCtrl (w : Writer) (p v : Nat) (s : State) : Wrote :=
  if !writerMay s w p then denyWrite w (mboxAddr p) v .protection s
  else
    let len := bits v 16 16
    if v.testBit 0 && !(1 ≤ len && len ≤ 4032) then denyWrite w (mboxAddr p) v .malformed s
    else
      let go := v.testBit 0 && (getMbox s p).st ≠ 1
      wrote (modMbox p (fun x => { x with reqLen := len, msgType := bits v 8 8, st := if go then 1 else x.st }) s)

/-- A write to a word of a mailbox's buffer: ignored while STATE is BUSY (R512). -/
def mboxBuffer (w : Writer) (p i v : Nat) (s : State) : Wrote :=
  if !writerMay s w p then denyWrite w (0x201000 + 0x1000 * p + 8 * i) v .protection s
  else if (getMbox s p).st = 1 then (.malformed, s)
  else wrote (modMbox p (fun x => { x with buffer := Tab.put 0 x.buffer i (BitVec.ofNat 64 v) }) s)

/-- MAILBOX_GO (R512). -/
def execMailboxGo (w : Writer) (p : Fin 32) (v : Word) (s : State) : Host.Outcome State Fault Refusal :=
  writeCmd w (mboxCtrl w p.val (v.toNat ||| 1)) s

end Sys2Proof.Machine
end

