-- ==== Sys2Proof/Machine/Regs.lean ====
section
/-! DEFINITION. The configuration space (R9 to R11, R50, R505): what every register reads as, what a write to each does, the writes that
wait for a partition to leave CURTAIN, and the commands that are register accesses. -/

namespace Sys2Proof.Machine

/-! ### What registers read as -/

/-- The low bits of a packed register. -/
def reg (fields : List (Nat × Nat × Nat)) : Word := BitVec.ofNat 64 (pack fields)

/-- Word `i` of a digest (R73). -/
def digestWord (d : List Byte) (i : Nat) : Word := BitVec.ofNat 64 (leAt d (8 * i) 8)

/-- GLOBAL (R539). -/
def readGlobal (s : State) (o : Nat) : Word :=
  match o with
  | 0x000 => reg [(16, 16, 0x2560), (0, 16, 0x00B0)]
  | 0x008 => BitVec.ofNat 64 (strapsByte s)
  | _ => 0

/-- RIGGING (R68 to R73). -/
def readRigging (s : State) (o : Nat) : Word :=
  let r := s.rig
  let dr := r.draining
  if o = 0x00 then
    reg [(32, 8, r.lastResult), (16, 16, r.failSection), (7, 1, bit !r.clearing.isEmpty), (6, 1, bit dr.isSome), (5, 1, bit (segmentUnderWay s)),
         (4, 1, bit r.rigged)]
  else if o = 0x08 then
    match dr with
    | some d => reg [(16, 32, underEpoch s d.epoch), (8, 8, d.epoch), (0, 8, r.epoch)]
    | none => reg [(0, 8, r.epoch)]
  else if o = 0x10 then r.imageId
  else if o = 0x18 then BitVec.ofNat 64 r.locks
  else if 0x20 ≤ o && o ≤ 0x48 then digestWord r.fullDigest ((o - 0x20) / 8)
  else if 0x50 ≤ o && o ≤ 0x78 then digestWord r.chainDigest ((o - 0x50) / 8)
  else 0

/-- XLAT (R101, R102). -/
def readXlat (s : State) (o : Nat) : Word :=
  if o = 0x08 then reg [(16, 16, s.xlat.misses.length), (0, 13, s.rig.cur.pins.length)] else 0

/-- MEM_PAGE_ATTR of a page (Table 4.13). -/
def attrWord (a : PageAttr) : Word :=
  reg [(15, 1, bit a.encrypt), (14, 1, bit a.mirror), (13, 1, bit a.publishable), (11, 2, a.hint), (8, 3, a.tier)]

/-- MEM of a stack (R132 to R138). -/
def readMem (s : State) (k o : Nat) : Word :=
  let x := getStack s k
  if 0x800 ≤ o && o < 0x1000 then attrWord (Tab.get {} s.mem.attrs (256 * k + (o - 0x800) / 8))
  else match o with
  | 0x00 => reg [(36, 4, x.sref), (35, 1, bit s.power.compatA), (34, 1, bit x.trained), (0, 32, x.up.toNat)]
  | 0x08 => reg [(32, 32, x.compressed), (0, 32, x.plain)]
  | 0x10 => reg [(32, 32, x.merges), (16, 16, x.coalesced), (8, 8, x.mergeRetries), (0, 8, x.mergeFaults)]
  | 0x18 => reg [(0, 32, x.reassigned)]
  | _ => 0

/-- The 256 bits of a retry-log entry (Table 5.4). -/
def logBits (e : LogEntry) : Nat :=
  pack [(224, 32, e.stored.toNat), (192, 32, e.found.toNat), (191, 1, bit e.valid), (168, 8, e.part), (160, 8, e.location), (152, 8, e.channel),
        (144, 8, e.outcome), (128, 12, e.seq), (64, 64, e.addr.toNat), (0, 64, e.time)]

/-- INTEG (R173 to R179). -/
def readInteg (s : State) (o : Nat) : Word :=
  let x := s.integ
  if 0x40 ≤ o && o < 0x80 then BitVec.ofNat 64 (bits x.inspData.toNat (8 * (o - 0x40)) 64)
  else if 0x100 ≤ o && o < 0x380 then
    let m := getMirror s ((o - 0x100) / 8)
    reg [(7, 30, m.highWater), (3, 1, bit m.partner), (0, 3, pairCode m.state)]
  else if 0x1000 ≤ o && o < 0x1800 then
    match Tab.find x.log ((o - 0x1000) / 32) with
    | some e => BitVec.ofNat 64 (bits (logBits e) (8 * (o % 32)) 64)
    | none => 0
  else match o with
  | 0x00 => reg [(32, 32, x.overwritten), (0, 6, x.next)]
  | 0x08 => reg [(32, 32, x.transient), (0, 32, x.lasting)]
  | 0x10 => reg [(32, 32, x.repaired), (0, 32, x.poisoned)]
  | 0x18 => reg [(32, 32, x.pathRetried), (0, 32, x.pathFailed)]
  | 0x30 => reg [(63, 1, bit x.inspBusy), (61, 2, x.inspResult), (6, 36, x.inspLine), (0, 1, bit x.inspPartner)]
  | 0x38 => x.inspMeta
  | _ => 0

/-- HOME (R204). -/
def readHome (s : State) (o : Nat) : Word :=
  let h := s.home
  match o with
  | 0x00 => reg [(0, 1, bit h.sharerSource)]
  | 0x08 => reg [(16, 8, h.live), (8, 5, (h.sweeps.head?.map Sweep.agent).getD 0), (7, 1, bit !h.sweeps.isEmpty), (6, 1, bit (ringOf s).isSome),
                 (0, 3, thisIndex s)]
  | 0x10 => reg [(0, 32, h.lost)]
  | 0x20 => reg [(32, 32, h.retries), (16, 16, h.timeouts), (0, 16, h.ownerLost)]
  | _ => 0

/-- ORDER (R237). -/
def readOrder (s : State) (o : Nat) : Word :=
  let x := s.order
  if o < 0x4000 then getCtr s (o / 8)
  else match o with
  | 0x4000 => reg [(4, 1, bit x.boothBuf), (0, 4, x.siteBuf.toNat)]
  | 0x4010 => reg [(32, 14, (x.replay.filter (replayLive s s.now)).length), (0, 32, retention s)]
  | 0x4018 => reg [(32, 32, x.replayed), (16, 16, x.unknown), (0, 16, x.fullRetries)]
  | _ => 0

/-- The registers of a queue pair (R264, R265). -/
def readQp (s : State) (q o : Nat) : Word :=
  let x := getQp s q
  match o with
  | 0x00 => BitVec.ofNat 64 (x.sqBase ||| x.sqLog)
  | 0x08 => BitVec.ofNat 64 (x.cqBase ||| x.cqLog)
  | 0x10 => reg [(31, 1, bit x.cqCntEn), (16, 11, x.cqCnt), (6, 1, bit x.cqPair), (0, 6, x.maxInflight)]
  | 0x18 => reg [(32, 32, x.sqTail.toNat)]
  | 0x20 => reg [(32, 32, x.cqTail.toNat)]
  | 0x30 => reg [(32, 32, x.sqHead.toNat), (24, 8, x.ctl), (16, 8, x.ringer), (8, 8, x.notified), (7, 1, bit (qpQuiet s q)), (6, 1, bit x.latch),
                 (0, 3, qpCode x.st)]
  | 0x38 => reg [(48, 16, x.faultIdx), (40, 8, x.faultStatus), (32, 8, x.faultOpcode), (24, 8, x.cause), (16, 8, x.aborted)]
  | _ => 0

/-- The registers of a Booth (R302, R335). -/
def readBooth (s : State) (b o : Nat) : Word :=
  let x := getBooth s b
  let own := boothOwner s.rig.cur b
  let cs := s.cmds.filter fun c => c.booth = b
  match o with
  | 0x000 => reg [(32, 8, own.getD 0xFF), (16, 8, (cs.filter Cmd.begun).length), (8, 7, (cs.filter fun c => c.context.isSome).length), (2, 1, bit x.gated),
                  (1, 1, bit (listBatch s b)), (0, 1, bit own.isSome)]
  | 0x008 => reg [(32, 32, x.blocksRead), (0, 32, x.blocksSkipped)]
  | 0x010 => reg [(32, 32, x.rows), (0, 32, x.saturated)]
  | 0x100 => reg [(0, 16, x.window)]
  | 0x108 => reg [(32, 32, x.queries), (16, 16, x.short), (0, 16, x.refused)]
  | 0x110 => reg [(0, 64, x.scanned)]
  | 0x118 => reg [(32, 32, x.batches), (0, 32, x.saved)]
  | _ => 0

/-- The registers of a port (R403 to R409). -/
def readFab (s : State) (p o : Nat) : Word :=
  let x (h : Nat) : Link := getLink s (2 * p + h)
  let err (h : Nat) : Word :=
    reg [(40, 24, (x h).corrected), (24, 16, (x h).uncorrectable), (8, 16, (x h).replays), (0, 8, (x h).degrades)]
  let flow (h : Nat) : Word := reg [(32, 32, (x h).bounced), (16, 16, (x h).stale), (8, 8, (x h).timedOut), (0, 8, (x h).unmatched)]
  let peer (h : Nat) : Word :=
    reg [(32, 16, (x h).peerNode), (24, 8, (x h).peerPort), (16, 2, (x h).peerKind), (0, 16, (x h).trainings)]
  let r := portRec s (2 * p)
  match o with
  | 0x00 => reg [(32, 8, ((x 0).active ||| (x 1).active).toNat), (24, 8, ((x 0).passing ||| (x 1).passing).toNat),
                 (16, 4, linkWidth s (2 * p + 1)), (12, 4, linkWidth s (2 * p)), (7, 1, (r.map PortRec.width).getD 0),
                 (6, 1, bit ((r.map PortRec.enable).getD false)), (3, 3, linkCode (x 1).st), (0, 3, linkCode (x 0).st)]
  | 0x08 => peer 0
  | 0x10 => peer 1
  | 0x20 => err 0
  | 0x28 => flow 0
  | 0x30 => err 1
  | 0x38 => flow 1
  | _ => 0

/-- The code of a site state (Table 13.6). -/
def siteCode : SiteSt → Nat
  | .empty => 0 | .reset => 1 | .training => 2 | .active => 3 | .down => 4

/-- The registers of a site (R426 to R431). -/
def readUcie (s : State) (k o : Nat) : Word :=
  let x := getSite s k
  let r := siteRec s k
  let serves := match Tab.find s.rig.cur.parts (siteBound s k) with
    | some e => e.pageServer = k
    | none => false
  match o with
  | 0x00 => reg [(33, 1, bit serves), (32, 1, bit (siteAgent s k)), (24, 8, siteBound s k), (16, 8, x.repaired), (12, 2, x.rate),
                 (8, 3, x.modules), (6, 1, bit ((r.map SiteRec.passCheck).getD false)), (5, 1, bit ((r.map SiteRec.enable).getD false)),
                 (4, 1, bit ((populatedSites s.power.sitePop.toNat).contains k)), (0, 3, siteCode x.st)]
  | 0x10 => reg [(32, 32, x.replays), (16, 16, x.retrains), (8, 8, x.rateDrops), (0, 8, x.downs)]
  | 0x18 => reg [(32, 16, (r.map SiteRec.powerLimit).getD 0), (16, 16, x.average), (0, 8, x.overs)]
  | _ => 0

/-- The registers of a partition (R454). -/
def readPart (s : State) (p o : Nat) : Word :=
  let x := getPart s p
  match o with
  | 0x00 => reg [(40, 8, x.cause), (32, 8, x.ctl), (8, 24, satAdd 24 0 (partFlight s p)), (7, 1, bit (partQuiet s p)), (6, 1, bit x.latch),
                 (5, 1, bit x.releasing), (0, 3, partCode x.st)]
  | 0x10 => BitVec.ofNat 64 (x.evBase ||| x.evLog)
  | 0x18 => reg [(31, 1, bit x.evCntEn), (16, 11, x.evCnt), (0, 1, bit x.evEn)]
  | 0x20 => reg [(32, 32, x.evTail.toNat), (0, 32, x.evHead.toNat)]
  | 0x28 => reg [(32, 32, x.posted), (0, 32, x.dropped)]
  | _ => 0

/-- The registers of the Barker (R456). -/
def readBarker (s : State) (o : Nat) : Word :=
  let b := s.barker
  if 0x1000 ≤ o && o < 0x5000 then
    match Tab.find b.queue ((o - 0x1000) / 64) with
    | some r => BitVec.ofNat 64 (bits (recLine r).toNat (8 * (o % 64)) 64)
    | none => 0
  else match o with
  | 0x00 => reg [(48, 16, b.dropped), (16, 16, b.tail.toNat), (0, 16, b.head.toNat)]
  | 0x08 => reg [(48, 16, b.suppressed), (32, 10, s.home.fences.length)]
  | _ => 0

/-- DEVICE_STATE (R460). The device is in DARK, and a partition in CURTAIN, until it has left it (R466, R470). -/
def deviceState (s : State) : Nat :=
  if s.power.dark = .dark || s.power.dark = .leaving || s.power.dark = .resuming then 3
  else if s.parts.any fun e => e.2.pstate = .curtain || e.2.pstate = .waking then 2
  else if s.booths.any fun e => e.2.gated then 1
  else 0

/-- The code of PSTATE (Table 15.18). -/
def pstateCode : PState → Nat
  | .on => 0 | .entering => 1 | .curtain => 2 | .waking => 3

/-- The registers of power and clocks (R485). -/
def readPwrclk (s : State) (o : Nat) : Word :=
  let x := s.power
  if 0x200 ≤ o && o < 0x300 then
    let p := (o - 0x200) / 8
    reg [(32, 8, (getPart s p).pctl), (12, 10, allowance s.rig.cur p), (0, 2, pstateCode (getPart s p).pstate)]
  else match o with
  | 0x00 =>
    let budget := (beginSlot s).power.budget
    reg [(44, 10, x.admitted), (38, 6, x.queue.length), (32, 6, budget), (24, 8, x.darkResult), (9, 1, optVal s 6 0), (8, 1, bit x.pllLocked),
         (0, 2, deviceState s)]
  | 0x10 => reg [(8, 1, bit x.i3cWake), (0, 8, x.portDetect.toNat)]
  | 0x18 => reg [(56, 8, x.wakeSource), (48, 1, bit x.wakeReplayed), (0, 48, x.wakeTime)]
  | 0x20 => reg [(32, 32, x.brownouts), (24, 8, x.brownoutCause)]
  | 0x28 => reg [(0, 18, x.running.toNat)]
  | 0x30 => reg [(48, 16, x.inputMv.toNat), (32, 16, x.inputW.toNat), (16, 16, x.coreA.toNat)]
  | _ => 0

/-- The registers of the meters (R513). -/
def readMeter (s : State) (o : Nat) : Word :=
  if o = 0 then BitVec.ofNat 64 s.now
  else if 0x1000 ≤ o && o < 0x5000 then
    let b := getBank s ((o - 0x1000) / 0x200)
    let i := o % 0x200
    if 0x80 ≤ i && i < 0x100 then BitVec.ofNat 64 (Tab.get 0 b.cur ((i - 0x80) / 8))
    else if 0x100 ≤ i && i < 0x180 then BitVec.ofNat 64 (Tab.get 0 b.last ((i - 0x100) / 8))
    else match i with
    | 0x00 => reg [(16, 16, b.events), (8, 8, b.part), (0, 1, bit b.isOpen)]
    | 0x08 => BitVec.ofNat 64 b.start
    | 0x10 => b.lastIndex
    | 0x18 => BitVec.ofNat 64 b.lastEnd
    | _ => 0
  else 0

/-- The code of BOOT_STATE (Table 16.9). -/
def bootCode : Boot → Nat
  | .rom => 0 | .awaitImage => 1 | .running => 2 | .halted => 3

/-- The registers of the Ringmaster (R512). -/
def readMgmt (s : State) (o : Nat) : Word :=
  let m := s.mgmt
  if 0x1000 ≤ o && o < 0x21000 then Tab.get 0 (getMbox s ((o - 0x1000) / 0x1000)).buffer (o % 0x1000 / 8)
  else if 0x100 ≤ o && o < 0x200 then
    let x := getMbox s ((o - 0x100) / 8)
    reg [(32, 16, x.respLen), (16, 16, x.reqLen), (8, 8, x.msgType), (1, 2, x.st)]
  else if 0x10 ≤ o && o < 0x40 then digestWord m.fwDigest ((o - 0x10) / 8)
  else match o with
  | 0x00 => reg [(56, 8, bootCode m.boot), (48, 8, m.failCode), (40, 8, m.haltCause), (32, 8, m.halts), (0, 1, bit (m.update.stage ≠ .idle))]
  | 0x08 => reg [(32, 32, minSvn s), (0, 32, m.svn)]
  | _ => 0

/-- The value of a register by its address in the configuration space; reserved space reads as 0 (R9, R11, Table 0.9). -/
def regValue (s : State) (a : Nat) : Word :=
  let o (base : Nat) : Nat := a - base
  if a < 0x10000 then readGlobal s a
  else if a < 0x20000 then readRigging s (o 0x10000)
  else if a < 0x40000 then readXlat s (o 0x20000)
  else if a < 0x54000 then readMem s (o 0x40000 / 0x1000) (o 0x40000 % 0x1000)
  else if a < 0x60000 then 0
  else if a < 0x70000 then readInteg s (o 0x60000)
  else if a < 0x80000 then readHome s (o 0x70000)
  else if a < 0xA0000 then readOrder s (o 0x80000)
  else if a < 0xE0000 then readQp s (o 0xA0000 / 64) (o 0xA0000 % 64)
  else if a < 0x100000 then 0
  else if a < 0x128000 then readBooth s (o 0x100000 / 0x1000) (o 0x100000 % 0x1000)
  else if a < 0x140000 then 0
  else if a < 0x148000 then readFab s (o 0x140000 / 0x1000) (o 0x140000 % 0x1000)
  else if a < 0x160000 then 0
  else if a < 0x164000 then readUcie s (o 0x160000 / 0x1000) (o 0x160000 % 0x1000)
  else if a < 0x180000 then 0
  else if a < 0x188000 then readPart s (o 0x180000 / 0x400) (o 0x180000 % 0x400)
  else if a < 0x1A0000 then 0
  else if a < 0x1C0000 then readBarker s (o 0x1A0000)
  else if a < 0x1E0000 then readPwrclk s (o 0x1C0000)
  else if a < 0x200000 then readMeter s (o 0x1E0000)
  else if a < 0x240000 then readMgmt s (o 0x200000)
  else 0

/-! ### Authority to read (R505) -/

/-- The owner of a partition-owned register; none for a register that every partition reads. -/
def regOwner (s : State) (a : Nat) : Option (Option Nat) :=
  let m := s.rig.cur
  let live (p : Nat) : Option Nat := if (getPart s p).st = .unassigned then none else some p
  if 0x80000 ≤ a && a < 0x84000 then some (ctrOwner m ((a - 0x80000) / 8))
  else if 0xA0000 ≤ a && a < 0xE0000 then some ((qpRecOf m ((a - 0xA0000) / 64)).map QpRec.part)
  else if 0x100000 ≤ a && a < 0x128000 then some (boothOwner m ((a - 0x100000) / 0x1000))
  else if 0x180000 ≤ a && a < 0x188000 then some (live ((a - 0x180000) / 0x400))
  else if 0x1C0100 ≤ a && a < 0x1C0200 then some (live ((a - 0x1C0100) / 8))
  else if 0x1C0200 ≤ a && a < 0x1C0300 then some (live ((a - 0x1C0200) / 8))
  else if 0x1E1000 ≤ a && a < 0x1E5000 then some ((Tab.find m.meters ((a - 0x1E1000) / 0x200)).map MeterRec.part)
  else if 0x200100 ≤ a && a < 0x200200 then some (live ((a - 0x200100) / 8))
  else if 0x201000 ≤ a && a < 0x221000 then some (live ((a - 0x201000) / 0x1000))
  else none

/-- Whether a reader may read a register (R505). -/
def mayRead (s : State) (w : Writer) (a : Nat) : Bool :=
  match regOwner s a with
  | none => true
  | some none => writerPriv s w
  | some (some p) => writerMay s w p

/-- Whether an access is a naturally aligned one of the configuration space (R9). -/
def regFormed (a : Nat) : Bool := a % 8 = 0 && decide (a < 2 ^ 24)

/-- A register read: its value, or all ones with an access-violation event (R9, R505). -/
def regRead (w : Writer) (a : Nat) (s : State) : Status × Word × State :=
  if !regFormed a then (.malformed, BitVec.allOnes 64, accessViolation w (writerNo s w) a 0 s)
  else if !mayRead s w a then (.protection, BitVec.allOnes 64, accessViolation w (writerNo s w) a 0 s)
  else (.ok, regValue s a, s)

/-! ### Writes, block by block -/

/-- Whether the RWL fields of a block are locked (R50). -/
def locked (s : State) (block : Nat) : Bool := s.rig.rigged && s.rig.locks.testBit block

/-- A write to RWL fields: ignored and recorded once their block is locked (R10, R51). -/
def lockWrite (w : Writer) (block a v : Nat) (f : State → State) (s : State) : Wrote :=
  if locked s block then
    (.protection, post { recOf s 0x0002 1 (writerNo s w) (locOfWriter w) with
                         addr := BitVec.ofNat 64 a, detail := v % 2 ^ 32, node := nodeOfWriter s w } s)
  else wrote (f s)

/-- A REMOTE window's TARGET_EPOCH replaced, in the windows that a test admits (R101). -/
def setTarget (m : Maps) (e : Nat) (ok : Nat → WinRec → Bool) : Maps :=
  let put (w : WinRec) : WinRec :=
    { w with entry := BitVec.ofNat 128 (w.entry.toNat - winEpoch w.entry * 2 ^ 8 + e * 2 ^ 8) }
  { m with wins := m.wins.map fun x => if ok x.1 x.2 then (x.1, put x.2) else x }

/-- A write to XLAT_EPOCH_UPDATE, in every bank that holds a matching window (R101). -/
def epochUpdate (w : Writer) (v : Nat) (s : State) : Wrote :=
  let part := bits v 32 5
  let ok (i : Nat) (x : WinRec) : Bool :=
    x.part = part && winKind x.entry = 2 && (if v.testBit 37 then nodeOf (winBase x.entry) = bits v 48 16 else i = bits v 0 13)
  if !writerMay s w part then denyWrite w 0x20000 v .protection s
  else if !((s.rig.cur.wins ++ (s.rig.draining.map fun d => d.maps.wins).getD [] ++ (s.rig.loaded.map fun l => l.maps.wins).getD []).any fun x => ok x.1 x.2) then denyWrite w 0x20000 v .malformed s
  else
    let upd (m : Maps) : Maps := setTarget m (bits v 40 8) ok
    wrote (modRig (fun r =>
      { r with
        cur := upd r.cur
        draining := r.draining.map fun d => { d with maps := upd d.maps }
        loaded := r.loaded.map fun l => { l with maps := upd l.maps } }) s)

/-- A write to MEM_PAGE_ATTR of a page of the store: its group's owner or MGMT_PRIV, no reserved encoding, no move under way (R122,
R138). -/
def pageAttr (w : Writer) (a page v : Nat) (s : State) : Wrote :=
  let may := match groupOwner s.rig.cur (page / 64) with
    | some p => writerMay s w p
    | none => writerPriv s w
  if !may then denyWrite w a v .protection s
  else if bits v 8 3 > 5 || bits v 11 2 = 3 || s.mem.moves.any (fun m => m.page ≤ page && page < m.page + m.pages) then denyWrite w a v .malformed s
  else
    let old : PageAttr := Tab.get {} s.mem.attrs page
    let new : PageAttr := { old with publishable := v.testBit 13, hint := bits v 11 2, tier := bits v 8 3 }
    wrote (modMem (fun m => { m with attrs := Tab.put {} m.attrs page new }) s)

/-- A write to a MEM instance (R132, R137, R138). -/
def writeMem (w : Writer) (a k o v : Nat) (s : State) : Wrote :=
  if 0x800 ≤ o then pageAttr w a (256 * k + (o - 0x800) / 8) v s
  else if o = 0x20 && v.testBit 0 then
    let clear (x : MemStack) : MemStack :=
      { x with compressed := 0, plain := 0, merges := 0, coalesced := 0, mergeRetries := 0, mergeFaults := 0, reassigned := 0 }
    wrote (modStack k clear s)
  else wrote s

/-- Whether a writer may act on a line: its group's owner, or MGMT_PRIV (R177). -/
def mayLine (s : State) (w : Writer) (l : Nat) : Bool :=
  match lineOwner s l with
  | some p => writerMay s w p
  | none => writerPriv s w

/-- The Roustabout's access to the copies of a line, which takes its place in the line's order (R111, R177, R178). -/
def linePkt (s : State) (ptype l : Nat) (body : List Byte) : Req :=
  { origin := .roustabout, pkt := { ptype := BitVec.ofNat 8 ptype, addr := ownAddr s l, body := body }, part := partNo (lineOwner s l),
    epoch := s.rig.epoch, time := s.now }

/-- A write to INTEG_POISON: a metadata-only write, in the order of its line (R111, R177). -/
def integPoison (w : Writer) (v : Nat) (s : State) : Wrote :=
  let l := bits v 6 36
  if !mayLine s w l then denyWrite w 0x60028 v .protection s
  else if storeEnd ≤ l * 64 then denyWrite w 0x60028 v .malformed s
  else wrote (mirrorServe (linePkt s 0x31 l [1, 5]) s)

/-- A write to INTEG_INSPECT_CTRL: a raw read of one copy starts, in the order of its line; one beyond the store is refused. DESIGN CHOICE, log 58:
RESULT shows 0b00 while BUSY is 1 (R178). -/
def integInspect (w : Writer) (v : Nat) (s : State) : Wrote :=
  let l := bits v 6 36
  if !mayLine s w l then denyWrite w 0x60030 v .protection s
  else if s.integ.inspBusy then (.malformed, s)
  else
    let s := modInteg (fun x => { x with inspLine := l, inspPartner := v.testBit 0, inspBusy := true, inspResult := 0 }) s
    wrote (if storeEnd ≤ l * 64 then inspectEnd 2 s else mirrorServe (linePkt s 0x32 l []) s)

/-- A write to the INTEG block (R173 to R178). -/
def writeInteg (w : Writer) (o v : Nat) (s : State) : Wrote :=
  if o = 0x20 then
    wrote (whenS (v.testBit 0) (modInteg fun x =>
      { x with transient := 0, lasting := 0, repaired := 0, poisoned := 0, pathRetried := 0, pathFailed := 0 }) s)
  else if o = 0x28 then integPoison w v s
  else if o = 0x30 then integInspect w v s
  else wrote s

/-- A write to HOME_AGENT_REVIVE: ignored and recorded while the agent's scan or sweep runs (R201). -/
def agentRevive (w : Writer) (v : Nat) (s : State) : Wrote :=
  let a := bits v 0 5
  if s.home.sweeps.any fun x => x.agent = a then
    (.malformed, post { recOf s 0x0016 0 (writerNo s w) (locOfWriter w) with detail := a, node := nodeOfWriter s w } s)
  else wrote (modHome (fun h => { h with lost := setBit h.lost a false }) s)

/-- A write to the HOME block (R204). -/
def writeHome (w : Writer) (o v : Nat) (s : State) : Wrote :=
  if o = 0x00 then lockWrite w 5 0x70000 v (modHome fun h => { h with sharerSource := v.testBit 0 }) s
  else if o = 0x18 then agentRevive w v s
  else if o = 0x28 then wrote (whenS (v.testBit 0) (modHome fun h => { h with retries := 0, timeouts := 0, ownerLost := 0 }) s)
  else wrote s

/-- Whether a writer may act on a counter (R237). -/
def mayCtr (s : State) (w : Writer) (n : Nat) : Bool :=
  match ctrOwner s.rig.cur n with
  | some p => writerMay s w p
  | none => writerPriv s w

/-- A write to ORDER_CTRL: a buffer that is disabled is emptied (R213). -/
def orderCtrl (v : Nat) (s : State) : State :=
  let s := modOrder (fun x => { x with boothBuf := v.testBit 4, siteBuf := BitVec.ofNat 4 v }) s
  let s := whenS (!v.testBit 4) (eachS (List.range 40) emptyBoothBuf) s
  eachS ((List.range 4).filter fun k => !v.testBit k) emptySiteBuf s

/-- A write to the ORDER block (R217, R237). -/
def writeOrder (w : Writer) (o v : Nat) (s : State) : Wrote :=
  let a := 0x80000 + o
  if o < 0x4000 then
    if mayCtr s w (o / 8) then wrote (settleCtr (setCtr (o / 8) (BitVec.ofNat 64 v) s)) else denyWrite w a v .protection s
  else if o = 0x4000 then
    if writerPriv s w then lockWrite w 6 a v (orderCtrl v) s else denyWrite w a v .protection s
  else if o = 0x4008 then
    let n := bits v 40 11
    let amount := bits v 0 40
    if !mayCtr s w n then denyWrite w a v .protection s
    else if (getCtr s n).toNat < amount then denyWrite w a v .malformed s
    else wrote (settleCtr (setCtr n (getCtr s n - BitVec.ofNat 64 amount) s))
  else if o = 0x4020 then
    if writerPriv s w then
      wrote (whenS (v.testBit 0) (modOrder fun x => { x with replayed := 0, unknown := 0, fullRetries := 0 }) s)
    else denyWrite w a v .protection s
  else wrote s

/-- A write to a queue pair's base or configuration register: only in RESET (R258, Tables 8.9, 8.10). -/
def qpSetup (w : Writer) (q o v : Nat) (s : State) : Wrote :=
  let base := bits v 12 46 <<< 12
  let upd (x : Qp) : Qp :=
    if o = 0x00 then { x with sqBase := base, sqLog := bits v 0 5 }
    else if o = 0x08 then { x with cqBase := base, cqLog := bits v 0 5 }
    else { x with cqCntEn := v.testBit 31, cqCnt := bits v 16 11, cqPair := v.testBit 6, maxInflight := bits v 0 6 }
  qpGuard w q o v (fun s =>
    if (getQp s q).st ≠ .reset then denyWrite w (qpAddr q o) v .malformed s else wrote (modQp q upd s)) s

/-- A write to the QP block (R249, R250, R264). -/
def writeQp (w : Writer) (q o v : Nat) (s : State) : Wrote :=
  match o with
  | 0x18 => qpBell w q true v s
  | 0x20 => qpBell w q false v s
  | 0x28 => qpControl w q v s
  | 0x30 => qpGuard w q o v wrote s
  | 0x38 => qpGuard w q o v wrote s
  | _ => qpSetup w q o v s

/-- Whether a writer may act on a Booth's registers (R302). -/
def mayBooth (s : State) (w : Writer) (b : Nat) : Bool :=
  match boothOwner s.rig.cur b with
  | some p => writerMay s w p
  | none => writerPriv s w

/-- A write to a BOOTH instance (R302, R335). -/
def writeBooth (w : Writer) (b o v : Nat) (s : State) : Wrote :=
  let a := 0x100000 + 0x1000 * b + o
  let takes := o = 0x18 || (0x100 ≤ o && o < 0x200)
  if takes && !mayBooth s w b then denyWrite w a v .protection s
  else match o with
  | 0x018 => wrote (whenS (v.testBit 0) (modBooth b fun x => { x with blocksRead := 0, blocksSkipped := 0, rows := 0, saturated := 0 }) s)
  | 0x100 => lockWrite w 8 a v (modBooth b fun x => { x with window := bits v 0 16 }) s
  | 0x120 => wrote (whenS (v.testBit 0) (modBooth b fun x => { x with queries := 0, short := 0, refused := 0, scanned := 0, batches := 0, saved := 0 }) s)
  | _ => wrote s

/-- The counters of a link cleared (R409). -/
def clearLink (x : Link) : Link :=
  { x with
    corrected := 0, uncorrectable := 0, replays := 0, degrades := 0, bounced := 0, stale := 0, timedOut := 0, unmatched := 0 }

/-- A write to a FAB instance (R403, R406, R409). -/
def writeFab (w : Writer) (p o v : Nat) (s : State) : Wrote :=
  if (o = 0x18 || o = 0x40) && !writerPriv s w then denyWrite w (0x140000 + 0x1000 * p + o) v .protection s
  else if o = 0x18 then
    wrote (eachS ([2 * p, 2 * p + 1].filter fun l => v.testBit (l % 2) && linkExists s l) startTraining s)
  else if o = 0x40 then wrote (whenS (v.testBit 0) (fun s => modLink (2 * p + 1) clearLink (modLink (2 * p) clearLink s)) s)
  else wrote s

/-- A write to a UCIE instance (R426). -/
def writeUcie (w : Writer) (k o v : Nat) (s : State) : Wrote :=
  match o with
  | 0x08 => ucieCtrl w k v s
  | 0x20 => ucieCountClear w k v s
  | _ => wrote s

/-- A write to PART_CONTROL (Table 14.10, R435). -/
def partCtrl (w : Writer) (p v : Nat) (s : State) : Wrote :=
  match bits v 0 3 with
  | 1 => wrote (partStart p s)
  | 2 => wrote (partStop p s)
  | 3 => wrote (partClearFault p s)
  | _ => denyWrite w (0x180008 + 0x400 * p) v .malformed s

/-- A write to PART_EVENT_CFG: setting ENABLE needs the conditions of R455. -/
def partEventCfg (w : Writer) (p v : Nat) (s : State) : Wrote :=
  let en := v.testBit 31
  let ctr := bits v 16 11
  if v.testBit 0 && !ringReady s p en ctr then
    (.malformed, accessViolation w 0xFF (0x180018 + 0x400 * p) v s)
  else wrote (modPart p (fun x => { x with evCntEn := en, evCnt := ctr, evEn := v.testBit 0 }) s)

/-- A write to PART_EVENT_PTR: a HEAD that passes TAIL is ignored with a doorbell-refused event, as R247 has it (R455). DESIGN CHOICE, log 40: no
queue-pair slice is concerned, and the record names where the write entered. -/
def partEventPtr (w : Writer) (p v : Nat) (s : State) : Wrote :=
  let x := getPart s p
  let h : BitVec 32 := BitVec.ofNat 32 v
  if (h - x.evHead).toNat ≤ (x.evTail - x.evHead).toNat then wrote (modPart p (fun x => { x with evHead := h }) s)
  else (.malformed, post { recOf s 0x0003 1 (existing s p) (locOfWriter w) with
                           addr := BitVec.ofNat 64 (0x180020 + 0x400 * p), detail := h.toNat, node := nodeOfWriter s w } s)

/-- A write to a PART instance (R454, R455). -/
def writePart (w : Writer) (p o v : Nat) (s : State) : Wrote :=
  if !writerMay s w p then denyWrite w (0x180000 + 0x400 * p + o) v .protection s
  else match o with
  | 0x08 => partCtrl w p v s
  | 0x10 =>
    if (getPart s p).evEn then (.malformed, s)
    else wrote (modPart p (fun x => { x with evBase := bits v 12 46 <<< 12, evLog := bits v 0 4 }) s)
  | 0x18 => partEventCfg w p v s
  | 0x20 => partEventPtr w p v s
  | _ => wrote s

/-- A write to the BARKER block: the HEAD of the management queue, unless it passes TAIL (R456). -/
def writeBarker (w : Writer) (o v : Nat) (s : State) : Wrote :=
  if !writerPriv s w then (.protection, s)
  else if o ≠ 0 then wrote s
  else
    let b := s.barker
    let h : BitVec 16 := BitVec.ofNat 16 v
    if (h - b.head).toNat ≤ (b.tail - b.head).toNat then wrote (forwardHead (modBarker (fun b => { b with head := h }) s)) else (.malformed, s)

/-- A write to the PWRCLK block (R485). -/
def writePwrclk (w : Writer) (o v : Nat) (s : State) : Wrote :=
  if 0x100 ≤ o && o < 0x200 then powerPartCtrl w ((o - 0x100) / 8) v s
  else if !writerPriv s w then denyWrite w (0x1C0000 + o) v .protection s
  else if o = 0x08 then powerDeviceCtrl w v s
  else if o = 0x10 then
    lockWrite w 13 0x1C0010 v (modPower fun x => { x with i3cWake := v.testBit 8, portDetect := BitVec.ofNat 8 v }) s
  else wrote s

/-- A write to the MGMT block (R512). -/
def writeMgmt (w : Writer) (o v : Nat) (s : State) : Wrote :=
  if 0x100 ≤ o && o < 0x200 then mboxCtrl w ((o - 0x100) / 8) v s
  else if 0x1000 ≤ o && o < 0x21000 then mboxBuffer w ((o - 0x1000) / 0x1000) (o % 0x1000 / 8) v s
  else wrote s

/-- The write at its block: what each field does with it by its access type and the block's rules (R9 to R11, R51, R68, R505). -/
def writeBlock (w : Writer) (a v : Nat) (s : State) : Wrote :=
  let o (base : Nat) : Nat := a - base
  if !regFormed a then denyWrite w a v .malformed s
  else if a < 0x10000 then wrote s
  else if a < 0x20000 then
    if o 0x10000 < 0x80 then denyWrite w a v .protection s else wrote s
  else if a < 0x40000 then (if a = 0x20000 then epochUpdate w v s else wrote s)
  else if a < 0x54000 then writeMem w a (o 0x40000 / 0x1000) (o 0x40000 % 0x1000) v s
  else if a < 0x60000 then wrote s
  else if a < 0x70000 then writeInteg w (o 0x60000) v s
  else if a < 0x80000 then writeHome w (o 0x70000) v s
  else if a < 0xA0000 then writeOrder w (o 0x80000) v s
  else if a < 0xE0000 then writeQp w (o 0xA0000 / 64) (o 0xA0000 % 64) v s
  else if a < 0x100000 then wrote s
  else if a < 0x128000 then writeBooth w (o 0x100000 / 0x1000) (o 0x100000 % 0x1000) v s
  else if a < 0x140000 then wrote s
  else if a < 0x148000 then writeFab w (o 0x140000 / 0x1000) (o 0x140000 % 0x1000) v s
  else if a < 0x160000 then wrote s
  else if a < 0x164000 then writeUcie w (o 0x160000 / 0x1000) (o 0x160000 % 0x1000) v s
  else if a < 0x180000 then wrote s
  else if a < 0x188000 then writePart w (o 0x180000 / 0x400) (o 0x180000 % 0x400) v s
  else if a < 0x1A0000 then wrote s
  else if a < 0x1C0000 then writeBarker w (o 0x1A0000) v s
  else if a < 0x1E0000 then writePwrclk w (o 0x1C0000) v s
  else if a < 0x200000 then wrote s
  else if a < 0x240000 then writeMgmt w (o 0x200000) v s
  else wrote s

/-! ### Writes that wait (Table 15.4) -/

/-- The partition whose leaving CURTAIN a write waits for: the owner of the queue pair, counter or event ring it names, or the
partition it stops. -/
def waitsFor (s : State) (a v : Nat) : Option Nat :=
  let m := s.rig.cur
  let p :=
    if 0x80000 ≤ a && a < 0x84000 then ctrOwner m ((a - 0x80000) / 8)
    else if a = 0x84008 then ctrOwner m (bits v 40 11)
    else if 0xA0000 ≤ a && a < 0xE0000 then (qpRecOf m ((a - 0xA0000) / 64)).map QpRec.part
    else if 0x180000 ≤ a && a < 0x188000 then
      let o := (a - 0x180000) % 0x400
      if (o = 0x08 && bits v 0 3 = 2) || (0x10 ≤ o && o ≤ 0x20) then some ((a - 0x180000) / 0x400) else none
    else none
  match p with
  | some p => if sleeping s p then some p else none
  | none => none

/-- The answer to a register write that came as a packet: a fabric writer's status, and OK for a site, to whose writer a refused write returns
nothing (R249, R505). -/
def answerWrite (req : Option Req) (st : Status) (s : State) : State :=
  match req with
  | some r =>
    match r.origin with
    | .site _ => whenS (decide (st = .ok)) (finish r { status := .ok }) s
    | _ => finish r { status := st } s
  | none => s

/-- A register write: at its block; one that names what belongs to a partition that sleeps wakes it and waits, unless the writer has
no authority (Table 15.4, R505). -/
def regWrite (w : Writer) (a : Nat) (v : Word) (req : Option Req) (s : State) : State :=
  let r := writeBlock w a v.toNat s
  match waitsFor s a v.toNat with
  | some p =>
    if r.1 = .protection || !regFormed a then answerWrite req r.1 r.2
    else inOrder (fun n s => wakePart p s.now (modPower (fun x =>
      { x with regWaits := x.regWaits ++ [{ order := n, writer := w, addr := a, value := v, part := p, req := req }] }) s)) s
  | none => answerWrite req r.1 r.2

/-- The meaning of a register command: the write at its block, when the writer's access reaches it. -/
def regCmd (w : Writer) (a : Nat) (v : Word) (s : State) : Host.Outcome State Fault Refusal :=
  if writerLive s w then .next (settle (regWrite w a v none s)) else .next s

/-! ### Leaving CURTAIN (R465, R466, Table 15.4) -/

/-- Who accesses registers through a packet's port (R505). -/
def accessor (port : Port) (p : Packet) : Writer :=
  match port with
  | .site k => .site k
  | .link l => .fabric l p.srcNode (Fin.ofNat 32 p.part.toNat)

/-- A register read that came as a packet: answered with its value, or with all ones (R9, R505). -/
def packetRead (w : Writer) (r : Req) (s : State) : State :=
  let x := regRead w r.pkt.addr.toNat s
  let st := match w with
    | .fabric _ _ _ => x.1
    | _ => Status.ok
  finish r { status := st, old := x.2.1.setWidth 128 } x.2.2

/-- What waited for a partition in one place of the order: a register access, a segment, or a request. -/
def takeWait (n : Nat) (s : State) : State :=
  match s.power.regWaits.find? fun x => x.order = n with
  | some x =>
    let s := modPower (fun y => { y with regWaits := y.regWaits.erase x }) s
    match x.req with
    | some r => if r.pkt.ptype = 0x0A then packetRead x.writer r s else regWrite x.writer x.addr x.value x.req s
    | none => regWrite x.writer x.addr x.value none s
  | none =>
    match s.power.segWaits.find? fun x => x.order = n with
    | some x =>
      let s := takeImage x.from_ true x.raw (modPower (fun y => { y with segWaits := y.segWaits.erase x }) s)
      match x.from_ with
      | some t => activateWaited t s
      | none => s
    | none => releaseOne n s

/-- The register accesses, the segments and the requests that waited for a partition are taken, in the order in which they came to their heads
(R466). -/
def takeWaits (p : Nat) (s : State) : State :=
  let regs := (s.power.regWaits.filter fun x => x.part = p).map RegWait.order
  let segs := (s.power.segWaits.filter fun x => x.part = p).map SegWait.order
  let reqs := (s.mem.parked.filter fun x => x.why = .curtain p).map fun x => x.req.order
  eachS (sortBy (fun a b => a < b) (regs ++ segs ++ reqs)) takeWait s

/-- CURTAIN_EXIT: 20 µs, 10,000 METER cycles, after full admission (R466). -/
def execCurtainExit (p : Fin 32) (s : State) : Host.Outcome State Fault Refusal :=
  let x := getPart s p.val
  match x.pstate, x.exitAt with
  | .waking, some t => if t ≤ s.now then .next (settle (takeWaits p.val (leaveCurtain p.val s))) else .next s
  | _, _ => .next s

/-! ### The commands that are register accesses -/

/-- REGISTER_WRITE (R10). -/
def execRegisterWrite (w : Writer) (addr : BitVec 24) (v : Word) (s : State) : Host.Outcome State Fault Refusal := regCmd w addr.toNat v s

/-- A register access of a site for its bound partition, after checks 1, 3 and 5 of Table 3.5; one for a sleeping partition wakes it and waits
(R415, R433, R465, R505). -/
def siteAccess (k : Fin 4) (p : Packet) (go : Req → State → State) (s : State) : State :=
  sitePacket k.val p.ptype.toNat p.len.toNat (fun s =>
    let r := siteReq s k.val p (siteBound s k.val)
    if !siteFormOk p then refuse r .malformed (checkFailed r 1 .malformed s)
    else match sitePart s.rig.cur k.val with
    | none => refuse r .protection (checkFailed r 3 .protection s)
    | some part =>
      if (getPart s part).st ≠ .running then refuse r .targetDead (checkFailed r 5 .targetDead s)
      else if sleeping s part then
        inOrder (fun n s => wakePart part s.now (modPower (fun x =>
          { x with regWaits := x.regWaits ++ [{ order := n, writer := .site k, addr := p.addr.toNat, value := p.value, part := part, req := some r }] }) s)) s
      else go r s) s

/-- A register access at its ingress (R505). -/
def regAccess (port : Port) (p : Packet) (go : Req → State → State) (s : State) : State :=
  match port with
  | .site k => siteAccess k (sized p) go s
  | .link l => linkIngress l.val p go s

/-- REG_RD (R505). -/
def execRegRd (port : Port) (p : Packet) (s : State) : Host.Outcome State Fault Refusal :=
  .next (settle (regAccess port { p with ptype := 0x0A } (fun r s => packetRead (accessor port r.pkt) r s) s))

/-- REG_WR (R505). -/
def execRegWr (port : Port) (p : Packet) (s : State) : Host.Outcome State Fault Refusal :=
  .next (settle (regAccess port { p with ptype := 0x0B } (fun r s => regWrite (accessor port r.pkt) r.pkt.addr.toNat r.pkt.value (some r) s) s))

/-- XLAT_EPOCH_UPDATE (R101). -/
def execXlatEpochUpdate (w : Writer) (v : Word) (s : State) : Host.Outcome State Fault Refusal := regCmd w 0x20000 v s

/-- MEM_PAGE_ATTR (R138). -/
def execMemPageAttr (w : Writer) (k : Fin 20) (page : Fin 256) (v : Word) (s : State) : Host.Outcome State Fault Refusal :=
  regCmd w (0x40800 + 0x1000 * k.val + 8 * page.val) v s

/-- MEM_COUNT_CLEAR (R137). -/
def execMemCountClear (w : Writer) (k : Fin 20) (v : Word) (s : State) : Host.Outcome State Fault Refusal := regCmd w (0x40020 + 0x1000 * k.val) v s

/-- INTEG_COUNT_CLEAR (R176). -/
def execIntegCountClear (w : Writer) (v : Word) (s : State) : Host.Outcome State Fault Refusal := regCmd w 0x60020 v s

/-- INTEG_POISON (R177). -/
def execIntegPoison (w : Writer) (v : Word) (s : State) : Host.Outcome State Fault Refusal := regCmd w 0x60028 v s

/-- INTEG_INSPECT_CTRL (R178). -/
def execIntegInspectCtrl (w : Writer) (v : Word) (s : State) : Host.Outcome State Fault Refusal := regCmd w 0x60030 v s

/-- HOME_AGENT_REVIVE (R201). -/
def execHomeAgentRevive (w : Writer) (v : Word) (s : State) : Host.Outcome State Fault Refusal := regCmd w 0x70018 v s

/-- HOME_COUNT_CLEAR (R204). -/
def execHomeCountClear (w : Writer) (v : Word) (s : State) : Host.Outcome State Fault Refusal := regCmd w 0x70028 v s

/-- ORDER_COUNT_WRITE (R217). -/
def execOrderCountWrite (w : Writer) (n : Fin 2048) (v : Word) (s : State) : Host.Outcome State Fault Refusal := regCmd w (0x80000 + 8 * n.val) v s

/-- ORDER_CONSUME (R217). -/
def execOrderConsume (w : Writer) (v : Word) (s : State) : Host.Outcome State Fault Refusal := regCmd w 0x84008 v s

/-- ORDER_COUNT_CLEAR (R237). -/
def execOrderCountClear (w : Writer) (v : Word) (s : State) : Host.Outcome State Fault Refusal := regCmd w 0x84020 v s

/-- ORDER_CTRL (R213). -/
def execOrderCtrl (w : Writer) (v : Word) (s : State) : Host.Outcome State Fault Refusal := regCmd w 0x84000 v s

/-- QP_SQ_DOORBELL (R246). -/
def execQpSqDoorbell (w : Writer) (q : Fin 4096) (v : Word) (s : State) : Host.Outcome State Fault Refusal := regCmd w (qpAddr q.val 0x18) v s

/-- QP_CQ_DOORBELL (R247). -/
def execQpCqDoorbell (w : Writer) (q : Fin 4096) (v : Word) (s : State) : Host.Outcome State Fault Refusal := regCmd w (qpAddr q.val 0x20) v s

/-- QP_ENABLE: ACTION 1 of QP_CONTROL (R258). -/
def execQpEnable (w : Writer) (q : Fin 4096) (s : State) : Host.Outcome State Fault Refusal := regCmd w (qpAddr q.val 0x28) 1 s

/-- QP_DISABLE: ACTION 2 of QP_CONTROL (R258). -/
def execQpDisable (w : Writer) (q : Fin 4096) (s : State) : Host.Outcome State Fault Refusal := regCmd w (qpAddr q.val 0x28) 2 s

/-- QP_ABORT: ACTION 3 of QP_CONTROL (R258). -/
def execQpAbort (w : Writer) (q : Fin 4096) (s : State) : Host.Outcome State Fault Refusal := regCmd w (qpAddr q.val 0x28) 3 s

/-- QP_RESET: ACTION 4 of QP_CONTROL (R259). -/
def execQpReset (w : Writer) (q : Fin 4096) (s : State) : Host.Outcome State Fault Refusal := regCmd w (qpAddr q.val 0x28) 4 s

/-- BOOTH_COUNT_CLEAR (R302). -/
def execBoothCountClear (w : Writer) (b : Fin 40) (v : Word) (s : State) : Host.Outcome State Fault Refusal :=
  regCmd w (0x100018 + 0x1000 * b.val) v s

/-- BOOTH_SEARCH_COUNT_CLEAR (R335). -/
def execBoothSearchCountClear (w : Writer) (b : Fin 40) (v : Word) (s : State) : Host.Outcome State Fault Refusal :=
  regCmd w (0x100120 + 0x1000 * b.val) v s

/-- FAB_TRAIN (R406). -/
def execFabTrain (w : Writer) (pt : Fin 8) (v : Word) (s : State) : Host.Outcome State Fault Refusal := regCmd w (0x140018 + 0x1000 * pt.val) v s

/-- FAB_COUNT_CLEAR (R409). -/
def execFabCountClear (w : Writer) (pt : Fin 8) (v : Word) (s : State) : Host.Outcome State Fault Refusal := regCmd w (0x140040 + 0x1000 * pt.val) v s

/-- PART_START (R435). -/
def execPartStart (w : Writer) (p : Fin 32) (s : State) : Host.Outcome State Fault Refusal := regCmd w (0x180008 + 0x400 * p.val) 1 s

/-- PART_STOP (R438). -/
def execPartStop (w : Writer) (p : Fin 32) (s : State) : Host.Outcome State Fault Refusal := regCmd w (0x180008 + 0x400 * p.val) 2 s

/-- PART_CLEAR_FAULT (R435). -/
def execPartClearFault (w : Writer) (p : Fin 32) (s : State) : Host.Outcome State Fault Refusal := regCmd w (0x180008 + 0x400 * p.val) 3 s

/-- PART_EVENT_CFG (R455). -/
def execPartEventCfg (w : Writer) (p : Fin 32) (v : Word) (s : State) : Host.Outcome State Fault Refusal := regCmd w (0x180018 + 0x400 * p.val) v s

/-- PART_EVENT_PTR (R455). -/
def execPartEventPtr (w : Writer) (p : Fin 32) (v : Word) (s : State) : Host.Outcome State Fault Refusal := regCmd w (0x180020 + 0x400 * p.val) v s

/-- BARKER_MGMT_PTR (R456). -/
def execBarkerMgmtPtr (w : Writer) (v : Word) (s : State) : Host.Outcome State Fault Refusal := regCmd w 0x1A0000 v s

end Sys2Proof.Machine
end

