-- ==== Sys2Proof/Machine/Dispatch.lean ====
section
/-! DEFINITION. One arm per command: the direct call of its meaning, or its rejection by name. -/

namespace Sys2Proof.Machine

/-- The effect of a command on everything but the queue. -/
def exec (i : Instr) (s : State) : Host.Outcome State Fault Refusal :=
  match i with
  | .registerWrite w addr v => Sys2Proof.Machine.execRegisterWrite w addr v s
  | .rd port p later ups => Sys2Proof.Machine.execRd port p later ups s
  | .rdBurst port p => Sys2Proof.Machine.execRdBurst port p s
  | .rdStream port p => Sys2Proof.Machine.execRdStream port p s
  | .wr port p ups => Sys2Proof.Machine.execWr port p ups s
  | .wrMasked port p on => Sys2Proof.Machine.execWrMasked port p on s
  | .wrBurst port p => Sys2Proof.Machine.execWrBurst port p s
  | .wrStream port p => Sys2Proof.Machine.execWrStream port p s
  | .atomicFar port p => Sys2Proof.Machine.execAtomicFar port p s
  | .publishCommit l p => Sys2Proof.Machine.execPublishCommit l p s
  | .regRd port p => Sys2Proof.Machine.execRegRd port p s
  | .regWr port p => Sys2Proof.Machine.execRegWr port p s
  | .rdShared port p => Sys2Proof.Machine.execRdShared port p s
  | .rdOwn port p => Sys2Proof.Machine.execRdOwn port p s
  | .upgrade port p => Sys2Proof.Machine.execUpgrade port p s
  | .writeback port p => Sys2Proof.Machine.execWriteback port p s
  | .rdNc st p => Sys2Proof.Machine.execRdNc st p s
  | .wrNc st p => Sys2Proof.Machine.execWrNc st p s
  | .complete port p lost => Sys2Proof.Machine.execComplete port p lost s
  | .snpInv l p => Sys2Proof.Machine.execSnpInv l p s
  | .snpFwdS l p => Sys2Proof.Machine.execSnpFwdS l p s
  | .snpFwdO l p => Sys2Proof.Machine.execSnpFwdO l p s
  | .snpRecall l p => Sys2Proof.Machine.execSnpRecall l p s
  | .agentLost l p => Sys2Proof.Machine.execAgentLost l p s
  | .ringHello l p => Sys2Proof.Machine.execRingHello l p s
  | .dataS port p => Sys2Proof.Machine.execDataS port p s
  | .dataO port p => Sys2Proof.Machine.execDataO port p s
  | .grant l p => Sys2Proof.Machine.execGrant l p s
  | .ack port p => Sys2Proof.Machine.execAck port p s
  | .ackData port p => Sys2Proof.Machine.execAckData port p s
  | .wbAck l p => Sys2Proof.Machine.execWbAck l p s
  | .coherenceRetry l p => Sys2Proof.Machine.execCoherenceRetry l p s
  | .error l p => Sys2Proof.Machine.execError l p s
  | .mirrorWr l p => Sys2Proof.Machine.execMirrorWr l p s
  | .mirrorMeta l p => Sys2Proof.Machine.execMirrorMeta l p s
  | .mirrorRd l p => Sys2Proof.Machine.execMirrorRd l p s
  | .pairOpen l p => Sys2Proof.Machine.execPairOpen l p s
  | .pairClose l p => Sys2Proof.Machine.execPairClose l p s
  | .mirrorAccept l p => Sys2Proof.Machine.execMirrorAccept l p s
  | .mirrorData l p => Sys2Proof.Machine.execMirrorData l p s
  | .fabricAck l p => Sys2Proof.Machine.execFabricAck l p s
  | .data l p => Sys2Proof.Machine.execData l p s
  | .atomicResult l p => Sys2Proof.Machine.execAtomicResult l p s
  | .publishResult l p => Sys2Proof.Machine.execPublishResult l p s
  | .status l p => Sys2Proof.Machine.execStatus l p s
  | .retry l p => Sys2Proof.Machine.execRetry l p s
  | .resendGrant l p => Sys2Proof.Machine.execResendGrant l p s
  | .checkResend l p => Sys2Proof.Machine.execCheckResend l p s
  | .regResult l p => Sys2Proof.Machine.execRegResult l p s
  | .credit port p => Sys2Proof.Machine.execCredit port p s
  | .null l => Sys2Proof.Machine.execNull l s
  | .nodeUnreachable l node => Sys2Proof.Machine.execNodeUnreachable l node s
  | .nodeReachable l node => Sys2Proof.Machine.execNodeReachable l node s
  | .siteFence st p => Sys2Proof.Machine.execSiteFence st p s
  | .siteCounterWait st p => Sys2Proof.Machine.execSiteCounterWait st p s
  | .xlatReply st p => Sys2Proof.Machine.execXlatReply st p s
  | .xlatInvalidate st p => Sys2Proof.Machine.execXlatInvalidate st p s
  | .xlatAcknowledge st invalId => Sys2Proof.Machine.execXlatAcknowledge st invalId s
  | .xlatMissTimeout b slot => Sys2Proof.Machine.execXlatMissTimeout b slot s
  | .linkFlit l lanes => Sys2Proof.Machine.execLinkFlit l lanes s
  | .linkAckTimeout l => Sys2Proof.Machine.execLinkAckTimeout l s
  | .linkFastRetrain l x => Sys2Proof.Machine.execLinkFastRetrain l x s
  | .laneLockLost l lane x => Sys2Proof.Machine.execLaneLockLost l lane x s
  | .linkTrainingPhaseDone l x => Sys2Proof.Machine.execLinkTrainingPhaseDone l x s
  | .trainingPhaseTimeout l => Sys2Proof.Machine.execTrainingPhaseTimeout l s
  | .linkDownRetry l => Sys2Proof.Machine.execLinkDownRetry l s
  | .creditReturnTimer port => Sys2Proof.Machine.execCreditReturnTimer port s
  | .bounceGrant pt slice => Sys2Proof.Machine.execBounceGrant pt slice s
  | .grantHoldExpiry pt grantId => Sys2Proof.Machine.execGrantHoldExpiry pt grantId s
  | .fabricTimeout tag => Sys2Proof.Machine.execFabricTimeout tag s
  | .mirrorTimeout tag => Sys2Proof.Machine.execMirrorTimeout tag s
  | .atomicResendTimer tag => Sys2Proof.Machine.execAtomicResendTimer tag s
  | .atomicRetentionExpiry tag => Sys2Proof.Machine.execAtomicRetentionExpiry tag s
  | .replayEntryExpiry node tag => Sys2Proof.Machine.execReplayEntryExpiry node tag s
  | .nop c => Sys2Proof.Machine.execNop c s
  | .fill c => Sys2Proof.Machine.execFill c s
  | .copy c => Sys2Proof.Machine.execCopy c s
  | .compare c => Sys2Proof.Machine.execCompare c s
  | .reduceLocal c => Sys2Proof.Machine.execReduceLocal c s
  | .reduceRemote c => Sys2Proof.Machine.execReduceRemote c s
  | .attnDecode c => Sys2Proof.Machine.execAttnDecode c s
  | .attnMerge c => Sys2Proof.Machine.execAttnMerge c s
  | .kvAppend c => Sys2Proof.Machine.execKvAppend c s
  | .search c => Sys2Proof.Machine.execSearch c s
  | .searchInsert c => Sys2Proof.Machine.execSearchInsert c s
  | .searchDelete c => Sys2Proof.Machine.execSearchDelete c s
  | .searchEpochAdvance c => Sys2Proof.Machine.execSearchEpochAdvance c s
  | .prefetchRun c => Sys2Proof.Machine.execPrefetchRun c s
  | .tierMove c => Sys2Proof.Machine.execTierMove c s
  | .hint c => Sys2Proof.Machine.execHint c s
  | .publish c => Sys2Proof.Machine.execPublish c s
  | .scrub c => Sys2Proof.Machine.execScrub c s
  | .mirrorResync c => Sys2Proof.Machine.execMirrorResync c s
  | .mirrorPromote c => Sys2Proof.Machine.execMirrorPromote c s
  | .counterWait c => Sys2Proof.Machine.execCounterWait c s
  | .fence c => Sys2Proof.Machine.execFence c s
  | .atomic c => Sys2Proof.Machine.execAtomic c s
  | .counterWaitTimeout r => Sys2Proof.Machine.execCounterWaitTimeout r s
  | .prefetchStepTimeout c => Sys2Proof.Machine.execPrefetchStepTimeout c s
  | .batchWindowExpiry b => Sys2Proof.Machine.execBatchWindowExpiry b s
  | .qpSqDoorbell w q v => Sys2Proof.Machine.execQpSqDoorbell w q v s
  | .qpCqDoorbell w q v => Sys2Proof.Machine.execQpCqDoorbell w q v s
  | .qpEnable w q => Sys2Proof.Machine.execQpEnable w q s
  | .qpDisable w q => Sys2Proof.Machine.execQpDisable w q s
  | .qpAbort w q => Sys2Proof.Machine.execQpAbort w q s
  | .qpReset w q => Sys2Proof.Machine.execQpReset w q s
  | .qpQuiescent q => Sys2Proof.Machine.execQpQuiescent q s
  | .qpNotify q => Sys2Proof.Machine.execQpNotify q s
  | .sqEntryArrival q => Sys2Proof.Machine.execSqEntryArrival q s
  | .commandAccessComplete c => Sys2Proof.Machine.execCommandAccessComplete c s
  | .cqPairHoldExpiry q => Sys2Proof.Machine.execCqPairHoldExpiry q s
  | .cqWriteDone q => Sys2Proof.Machine.execCqWriteDone q s
  | .fullImageApply image => Sys2Proof.Machine.execFullImageApply image s
  | .segmentPresent image => Sys2Proof.Machine.execSegmentPresent image s
  | .segmentSwitch => Sys2Proof.Machine.execSegmentSwitch s
  | .epochRetire => Sys2Proof.Machine.execEpochRetire s
  | .drainLimitExpiry => Sys2Proof.Machine.execDrainLimitExpiry s
  | .groupClearDone g => Sys2Proof.Machine.execGroupClearDone g s
  | .xlatEpochUpdate w v => Sys2Proof.Machine.execXlatEpochUpdate w v s
  | .memPageAttr w k page v => Sys2Proof.Machine.execMemPageAttr w k page v s
  | .memCountClear w k v => Sys2Proof.Machine.execMemCountClear w k v s
  | .integCountClear w v => Sys2Proof.Machine.execIntegCountClear w v s
  | .integPoison w v => Sys2Proof.Machine.execIntegPoison w v s
  | .integInspectCtrl w v => Sys2Proof.Machine.execIntegInspectCtrl w v s
  | .inspectReadDone raw => Sys2Proof.Machine.execInspectReadDone raw s
  | .carouselReadReturn line raw => Sys2Proof.Machine.execCarouselReadReturn line raw s
  | .lineRetryReadReturn line raw => Sys2Proof.Machine.execLineRetryReadReturn line raw s
  | .channelTrainingDone k up => Sys2Proof.Machine.execChannelTrainingDone k up s
  | .homeTimeout slice idx => Sys2Proof.Machine.execHomeTimeout slice idx s
  | .agentSweepDone a => Sys2Proof.Machine.execAgentSweepDone a s
  | .waiterReservationExpiry line => Sys2Proof.Machine.execWaiterReservationExpiry line s
  | .hotLineFlush line => Sys2Proof.Machine.execHotLineFlush line s
  | .hotLineClose line => Sys2Proof.Machine.execHotLineClose line s
  | .homeAgentRevive w v => Sys2Proof.Machine.execHomeAgentRevive w v s
  | .homeCountClear w v => Sys2Proof.Machine.execHomeCountClear w v s
  | .orderCountWrite w n v => Sys2Proof.Machine.execOrderCountWrite w n v s
  | .orderConsume w v => Sys2Proof.Machine.execOrderConsume w v s
  | .orderCountClear w v => Sys2Proof.Machine.execOrderCountClear w v s
  | .orderCtrl w v => Sys2Proof.Machine.execOrderCtrl w v s
  | .boothCountClear w b v => Sys2Proof.Machine.execBoothCountClear w b v s
  | .boothSearchCountClear w b v => Sys2Proof.Machine.execBoothSearchCountClear w b v s
  | .fabTrain w pt v => Sys2Proof.Machine.execFabTrain w pt v s
  | .fabCountClear w pt v => Sys2Proof.Machine.execFabCountClear w pt v s
  | .ucieResetSite w st => Sys2Proof.Machine.execUcieResetSite w st s
  | .ucieTrain w st => Sys2Proof.Machine.execUcieTrain w st s
  | .ucieCountClear w st v => Sys2Proof.Machine.execUcieCountClear w st v s
  | .siteTrainingDone st modules rate repaired => Sys2Proof.Machine.execSiteTrainingDone st modules rate repaired s
  | .siteRateDrop st => Sys2Proof.Machine.execSiteRateDrop st s
  | .siteLinkError st => Sys2Proof.Machine.execSiteLinkError st s
  | .siteSelfReset st => Sys2Proof.Machine.execSiteSelfReset st s
  | .resetRequest st => Sys2Proof.Machine.execResetRequest st s
  | .siteResetAfterNotice st => Sys2Proof.Machine.execSiteResetAfterNotice st s
  | .siteDownRetry st => Sys2Proof.Machine.execSiteDownRetry st s
  | .sitePowerWindow st average => Sys2Proof.Machine.execSitePowerWindow st average s
  | .partStart w p => Sys2Proof.Machine.execPartStart w p s
  | .partStop w p => Sys2Proof.Machine.execPartStop w p s
  | .partClearFault w p => Sys2Proof.Machine.execPartClearFault w p s
  | .partStartingDone p => Sys2Proof.Machine.execPartStartingDone p s
  | .partQuiescent p => Sys2Proof.Machine.execPartQuiescent p s
  | .partitionFault p cause place => Sys2Proof.Machine.execPartitionFault p cause place s
  | .partEventCfg w p v => Sys2Proof.Machine.execPartEventCfg w p v s
  | .partEventPtr w p v => Sys2Proof.Machine.execPartEventPtr w p v s
  | .barkerMgmtPtr w v => Sys2Proof.Machine.execBarkerMgmtPtr w v s
  | .barkerTicketReturn block => Sys2Proof.Machine.execBarkerTicketReturn block s
  | .meterWindowEnd n => Sys2Proof.Machine.execMeterWindowEnd n s
  | .pwrclkCurtain w p => Sys2Proof.Machine.execPwrclkCurtain w p s
  | .pwrclkWake w p => Sys2Proof.Machine.execPwrclkWake w p s
  | .pwrclkDark w => Sys2Proof.Machine.execPwrclkDark w s
  | .curtainEntryDone p => Sys2Proof.Machine.execCurtainEntryDone p s
  | .curtainExit p => Sys2Proof.Machine.execCurtainExit p s
  | .darkEntryDone => Sys2Proof.Machine.execDarkEntryDone s
  | .darkExit => Sys2Proof.Machine.execDarkExit s
  | .turnstileSlot => Sys2Proof.Machine.execTurnstileSlot s
  | .wakeN edge inWindow => Sys2Proof.Machine.execWakeN edge inWindow s
  | .i3cWake => Sys2Proof.Machine.execI3cWake s
  | .laneSignalDetect pt => Sys2Proof.Machine.execLaneSignalDetect pt s
  | .boothIntervalEntry b => Sys2Proof.Machine.execBoothIntervalEntry b s
  | .clockGateIdle d => Sys2Proof.Machine.execClockGateIdle d s
  | .brownout => Sys2Proof.Machine.execBrownout s
  | .brownoutKeepAlive => Sys2Proof.Machine.execBrownoutKeepAlive s
  | .powerLoss => Sys2Proof.Machine.execPowerLoss s
  | .refclkLost => Sys2Proof.Machine.execRefclkLost s
  | .tripLatchClear => Sys2Proof.Machine.execTripLatchClear s
  | .coldPowerUp => Sys2Proof.Machine.execColdPowerUp s
  | .warmReset => Sys2Proof.Machine.execWarmReset s
  | .resetNRise straps scan => Sys2Proof.Machine.execResetNRise straps scan s
  | .pllLock => Sys2Proof.Machine.execPllLock s
  | .pllLockRetry => Sys2Proof.Machine.execPllLockRetry s
  | .telemetrySample t => Sys2Proof.Machine.execTelemetrySample t s
  | .bootChain selfTest flashAnswers => Sys2Proof.Machine.execBootChain selfTest flashAnswers s
  | .watchdogExpiry => Sys2Proof.Machine.execWatchdogExpiry s
  | .ringmasterHalt cause => Sys2Proof.Machine.execRingmasterHalt cause s
  | .requestUpdate t => Sys2Proof.Machine.execRequestUpdate t s
  | .passComponentTable t component => Sys2Proof.Machine.execPassComponentTable t component s
  | .verifyComplete t image => Sys2Proof.Machine.execVerifyComplete t image s
  | .applyComplete t readBack => Sys2Proof.Machine.execApplyComplete t readBack s
  | .activateFirmware t => Sys2Proof.Machine.execActivateFirmware t s
  | .mctpControl t command eid => Sys2Proof.Machine.execMctpControl t command eid s
  | .setSensorThresholds t sensor low high => Sys2Proof.Machine.execSetSensorThresholds t sensor low high s
  | .platformEventAck => Sys2Proof.Machine.execPlatformEventAck s
  | .mailboxGo w p v => Sys2Proof.Machine.execMailboxGo w p v s
  | .getVersion t => Sys2Proof.Machine.execGetVersion t s
  | .getCapabilities t => Sys2Proof.Machine.execGetCapabilities t s
  | .negotiateAlgorithms t offer => Sys2Proof.Machine.execNegotiateAlgorithms t offer s
  | .getDigests t => Sys2Proof.Machine.execGetDigests t s
  | .getCertificate t slot offset length => Sys2Proof.Machine.execGetCertificate t slot offset length s
  | .challenge t slot nonce => Sys2Proof.Machine.execChallenge t slot nonce s
  | .getMeasurements t index signed nonce => Sys2Proof.Machine.execGetMeasurements t index signed nonce s
  | .keyExchange t slot sessionId exchange => Sys2Proof.Machine.execKeyExchange t slot sessionId exchange s
  | .finish t verified => Sys2Proof.Machine.execFinish t verified s
  | .heartbeat t => Sys2Proof.Machine.execHeartbeat t s
  | .keyUpdate t => Sys2Proof.Machine.execKeyUpdate t s
  | .endSession t => Sys2Proof.Machine.execEndSession t s
  | .chunkSend t seqNo last bytes => Sys2Proof.Machine.execChunkSend t seqNo last bytes s
  | .chunkGet t seqNo => Sys2Proof.Machine.execChunkGet t seqNo s
  | .pqSignature t => Sys2Proof.Machine.execPqSignature t s
  | .setKey t slot key => Sys2Proof.Machine.execSetKey t slot key s
  | .clearKey t slot => Sys2Proof.Machine.execClearKey t slot s
  | .tagReuseHoldExpiry tag => Sys2Proof.Machine.execTagReuseHoldExpiry tag s
  | .eventReceiverRegistration t => Sys2Proof.Machine.execEventReceiverRegistration t s

end Sys2Proof.Machine
end

