-- ==== Sys2Proof/Safety.lean ====
section
/-! DEFINITION. What a step comes to, and the conditions on a state and a command's operands that the statements name. -/

namespace Sys2Proof.Safety

open Sys2Proof.Machine

/-- The command ends in a next state: `u` is the command's own effect, and `settle` then serves the requests that waited, answers the
fences whose requests have ended and restarts gated clocks. -/
def Settles (c : Instr) (s u : State) : Prop := exec c s = .next (settle u)

/-- The command ends in a next state with nothing further served. -/
def Gives (c : Instr) (s u : State) : Prop := exec c s = .next u

/-- The command changes nothing. -/
def Idles (c : Instr) (s : State) : Prop := exec c s = .next s

/-- The store's list of lines is in its canonical form: numbers rising, no line at its default listed (log 2). -/
def StoreCanonical (s : State) : Prop := Memory.wf s.mem = true

/-- The state in which a request of an epoch is served: what it looks up stands in the maps of that epoch (R54). -/
def lookUnder (epoch : Nat) (s : State) : State := modRig (fun x => { x with view := some epoch }) s

/-- The command ends in a next state once its request has been served under the maps of its epoch: `u` is what serving it left. -/
def Ends (c : Instr) (s u : State) : Prop := Settles c s (modRig (fun x => { x with view := s.rig.view }) u)

/-- Nothing waits that a settling could serve: no parked request, no packet behind a site's fence, no unanswered site fence, no transaction that
owes nothing. -/
def NothingWaits (s : State) : Prop :=
  s.mem.parked = [] ∧ (∀ k < 4, (getSite s k).held = []) ∧ s.ucie.fences = [] ∧ ∀ t ∈ s.home.txns, t.probes ≠ [] ∨ t.gone = true

/-- Every line of the store but those listed reads as before: data, check, sequence number, directory bits and poison. -/
def StoreSameBut (ls : List Nat) (s t : State) : Prop := ∀ l, l ∉ ls → getLine t l = getLine s l

/-- The packet of a type as it stands at the head of a port's ingress, its length filled in. -/
def atPort (t : BitVec 8) (port : Port) (p : Packet) : Packet :=
  match port with
  | .site _ => sized { p with ptype := t }
  | .link _ => linkSized { p with ptype := t }

/-- The state after the next place in the order of service or of acceptance has been given out (R111, R206). -/
def counted (s : State) : State := modMem (fun m => { m with stamp := m.stamp + 1 }) s

/-- A request as its Carousel accepts it: with its Ticket there and the next place in the order of acceptance (R20, R111). -/
def accepted (s : State) (r : Req) : Req := { reach s .line r with taken := s.mem.stamp + 1 }

/-- Nothing on the way keeps a request from its Carousel: no fault on the die is awaited, no earlier request of its source to its lines waits, its
agent is not lost, it has no transaction open, and the Tickets of its home slice and of its Carousel can be drawn. -/
structure Unhindered (s : State) (r : Req) : Prop where
  upsets : s.upsets = []
  first : earlier s r = none
  alive : fromLost s r = false
  fresh : (s.home.txns.any fun t => sameReq t.req r) = false
  slice : (reach s .slice r).place = .slice
  carousel : (reach s .line r).place = .line
  turn : behind s (reach s .slice r) = false

/-- A site packet passes the checks of Table 3.5 and goes to its home on this device: its request is `r`, which is served in the state `s'`, in
which its slots are owed to the die, the lines it writes have left the site's own buffer, and it has its place in the order of service. -/
structure SiteAdmits (s : State) (k : Nat) (q : Packet) (r : Req) (s' : State) : Prop extends Unhindered s' r where
  active : (getSite s k).st = .active
  enabled : sitePart s.rig.cur k = some r.part
  req : r = { siteReq s k q r.part with order := s.mem.stamp + 1 }
  after : s' = lookUnder r.epoch (counted (siteBufWrite k q (oweSite k q.ptype.toNat q.len.toNat s)))
  form : siteFormOk q = true
  fence : behindFence s k q = false
  runs : (getPart s r.part).st = .running
  home : nodeOf q.addr.toNat = thisNode s
  window : ∃ i e, findWin (mapsAt s r.epoch) r.part 1 q.addr.toNat (pktBytes q) = some (i, e) ∧
    winSite e = true ∧ winPermits e (pktPerms q).1 (pktPerms q).2.1 (pktPerms q).2.2 = true
  ring : outsideRing s r = false
  buffer : bufferServes s r = none
  counter : counterOk s r = true
  awake : actor s r = none
  retry : s.home.resends.find? (resendFits s r) = none

/-- The state in which a fabric request has left its link's ingress and is charged. -/
def leftIngress (s : State) (l : Nat) (q : Packet) (r : Req) : State := chargeReq r 3 (16 * q.len.toNat) (takeIngress l q s)

/-- A fabric request is in its link's ingress, passes the checks of Table 3.5 and the carried check, and is not bounced: its request is `r`, which
is served in the state `s'`, in which it has left the ingress, is charged, and has its place in the order of service. -/
structure LinkAdmits (s : State) (l : Nat) (q : Packet) (r : Req) (s0 s' : State) : Prop extends Unhindered s' r where
  arrives : arrives s l q = true
  len : q.len.toNat = pktLen false q
  req : r = { origin := .link l, pkt := q, part := bits q.part.toNat 0 5, epoch := q.epoch.toNat, time := headTime s l q, order := s0.mem.stamp + 1 }
  left : s0 = leftIngress s l q r
  after : s' = lookUnder r.epoch (counted s0)
  form : formOk q = true
  memory : q.ptype ≠ 0x0A ∧ q.ptype ≠ 0x0B
  runs : (getPart s0 r.part).st = .running
  awake : sleeping s0 r.part = false
  wakeList : ((getPort s0 (l / 2)).bounce.any fun b => b.wake = some r.part) = false
  maps : ∃ m i e, mapsOf s0 q.epoch.toNat = some m ∧ jobKeyOf m r.part = q.jobKey.toNat ∧
    findWin m r.part 3 q.addr.toNat (pktBytes q) = some (i, e) ∧
    winPermits e (pktPerms q).1 (pktPerms q).2.1 (pktPerms q).2.2 = true
  counter : counterOk s0 r = true
  granted : grantedEntry s0 l q = none
  room : mustBounce s0 l q = false
  resent : resendEntry s0 l q = none
  carried : carriedBad s0 q = none
  retry : s0.home.resends.find? (resendFits s0 r) = none

/-- A packet of a type passes its port's checks and reaches its home on this device as the request `r`, to be served in the state `s'`. -/
def Admits (t : BitVec 8) (port : Port) (p : Packet) (s : State) (r : Req) (s' : State) : Prop :=
  match port with
  | .site k => SiteAdmits s k.val (atPort t port p) r s'
  | .link l => ∃ s0, LinkAdmits s l.val (atPort t port p) r s0 s'

/-- A packet comes on a link with a LEN that agrees with its body, and has left the ingress in the state `s1` (R379, R383). -/
structure Comes (s : State) (l : Nat) (q : Packet) (s1 : State) : Prop where
  arrives : arrives s l q = true
  len : q.len.toNat = pktLen false q
  after : s1 = takeIngress l q s

/-- A request for one line that passes no home slice comes to the line's Carousel and has its turn there: its Ticket can be drawn, and no hold and no
waiting request stands before it (R20, R111). -/
structure LineOpen (s : State) (r : Req) (l : Nat) : Prop where
  held : lineHeld s l = false
  alone : ∀ y ∈ s.mem.parked, l ∉ reqLines y.req
  line : lineNo (offOf r.pkt.addr.toNat) = l
  ticket : (reach (counted s) .line { r with order := s.mem.stamp + 1 }).place = .line

/-- A line that no hold, fence, transaction, reservation or hot-line entry stands on, in a stack that can use its channel, of an awake
partition whose key, if one is asked for, is loaded. -/
structure FreeLine (s : State) (l : Nat) : Prop where
  fence : fenced s l = false
  held : lineHeld s l = false
  awake : sleeperOf s [l] = none
  txn : findTxn s l = none
  reserved : (s.home.reserves.any fun x => x.line = l) = false
  hot : findHot s l = none
  channel : channelUp s l = true
  key : keyMissing s l = false

/-- A free line of which no agent holds a copy; no line of its block, where that stands compressed, fails its check. -/
structure IdleLine (s : State) (l : Nat) : Prop extends FreeLine s l where
  dir : dirState s l = .i
  block : (blockCompressed s l && (blockLines l).any (badCheck s)) = false

/-- An idle line whose check passes and that is not poisoned. -/
structure GoodLine (s : State) (l : Nat) : Prop extends IdleLine s l where
  clean : (getLine s l).poison = false
  check : checkOk s l (getLine s l) = true

/-- A packet to a site die, its length set, leaves at once: the site is ACTIVE, nothing of the packet's class waits for the site's credits, and the
credits suffice (R20, R419). -/
def SiteTakes (s : State) (k : Nat) (q : Packet) : Prop :=
  (getSite s k).st = .active ∧ ((getSite s k).waiting.any fun p => (outClass q).isSome && outClass p = outClass q) = false ∧
  (spendSite (getSite s k) q).isSome = true

/-- The Carousel of a narrow write's line has a merge entry free for it, and no write has joined one there (R120, Table 4.4). -/
def MergeFree (s : State) (r : Req) : Prop := ∀ l ∈ reqLines r, mergesUsed s l < mergeEntries ∧ joinedTo s l = []

/-- What a read of the lines of a request returns. -/
def stored (s : State) (r : Req) : List LineData := (reqLines r).map fun l => viewData s l (getLine s l)

/-- The commands of the Booths with their opcodes (Table 8.3). -/
def boothCommands : List (Nat × (CmdRef → Instr)) :=
  [(0x00, .nop), (0x01, .fill), (0x02, .copy), (0x03, .compare), (0x04, .reduceLocal), (0x05, .reduceRemote), (0x08, .attnDecode),
   (0x09, .attnMerge), (0x0A, .kvAppend), (0x10, .search), (0x11, .searchInsert), (0x12, .searchDelete), (0x13, .searchEpochAdvance),
   (0x18, .prefetchRun), (0x19, .tierMove), (0x1A, .hint), (0x1C, .publish), (0x20, .scrub), (0x21, .mirrorResync),
   (0x22, .mirrorPromote), (0x28, .counterWait), (0x29, .fence), (0x30, .atomic)]

/-- A begun command of a queue pair that nothing has stopped or holds back, with its entry. -/
structure Running (s : State) (r : CmdRef) (c : Cmd) (op : Nat) : Prop where
  inFlight : findCmd s r.qp.val r.count.toNat = some c
  entry : c.entry.isSome = true
  opcode : cmdOp c = op
  begun : c.begun = true
  free : c.stop = false ∧ c.aborted = false ∧ c.fault = none
  passed : barred s c = false

/-- A command in the state its program left: nothing of it is under way, and nothing keeps it from completing. -/
structure Ended (c d : Cmd) : Prop where
  access : d.access = []
  entry : d.entry = c.entry
  free : d.aborted = false ∧ d.fault = none ∧ d.owes = []

/-- A writer may act on a queue pair's registers: the Ringmaster; a site that acts for its partition or has MGMT_PRIV; a fabric writer that its
record names as the remote owner (R249, R505). -/
def QpAuthority (s : State) (w : Writer) (q : Nat) : Prop :=
  match w with
  | .ringmaster => True
  | .site k => mgmtPrivOf s.rig.cur ((sitePart s.rig.cur k.val).getD 0xFF) = true ∨ sitePart s.rig.cur k.val = some (qpPart s q)
  | .fabric _ node part => ∃ r, qpRec s q = some r ∧ r.part = part.val ∧ r.remote = true ∧ r.owner = node.toNat

/-- A write to a queue pair's register reaches it: the writer is live and has authority, a record assigns the queue pair, and its partition is
awake. -/
structure QpWrites (s : State) (w : Writer) (q : Nat) : Prop where
  live : writerLive s w = true
  assigned : (qpRec s q).isSome = true
  awake : sleeping s (qpPart s q) = false
  authority : QpAuthority s w q

/-- A site's register access passes checks 1, 3 and 5 of Table 3.5: its request is `r`, in the state `s'` in which its slots are owed to the
die. -/
structure SiteAccesses (s : State) (k : Nat) (q : Packet) (r : Req) (s' : State) : Prop where
  active : (getSite s k).st = .active
  enabled : sitePart s.rig.cur k = some r.part
  req : r = siteReq s k q r.part
  after : s' = oweSite k q.ptype.toNat q.len.toNat s
  form : siteFormOk q = true
  runs : (getPart s r.part).st = .running
  awake : sleeping s r.part = false

/-- A fabric node's register access is in its link's ingress and passes checks 1 to 5 of Table 3.5: its request is `r`, in the state `s'` in
which it has left the ingress and is charged. -/
structure LinkAccesses (s : State) (l : Nat) (q : Packet) (r : Req) (s' : State) : Prop where
  arrives : arrives s l q = true
  len : q.len.toNat = pktLen false q
  req : r = { origin := .link l, pkt := q, part := bits q.part.toNat 0 5, epoch := q.epoch.toNat, time := headTime s l q }
  after : s' = leftIngress s l q r
  form : formOk q = true
  maps : ∃ m, mapsOf s' q.epoch.toNat = some m ∧ jobKeyOf m r.part = q.jobKey.toNat
  runs : (getPart s' r.part).st = .running

/-- The completions a queue pair owes, in order: those handed to be written, then the one held for its pair. -/
def owedCompls (x : Qp) : List Compl := x.writes.flatten ++ x.held.toList

/-- The Ringmaster runs its firmware and takes a message on this transport. -/
def Serves (t : Transport) (s : State) : Prop := carries s t = true ∧ s.mgmt.boot = .running

/-- The command is answered on its transport with this message, code and data, and nothing else leaves the device; a mailbox then holds its response. -/
def Replies (c : Instr) (s : State) (t : Transport) (name : String) (code : Nat) (data : List Byte) (after : State → Prop) : Prop :=
  ∃ u, Settles c s u ∧ u.outbox = s.outbox ++ [.mgmt t name code data] ∧ (∀ p, t = .mailbox p → (getMbox u p.val).st = 2) ∧ after u

/-- The lines that a packet of a type carries in its body (Table 12.5). -/
def wireLines (p : Packet) : Nat :=
  match p.ptype.toNat with
  | 0x04 => 1 | 0x05 => 1 | 0x06 => 4 | 0x07 => 4 * (p.aux.toNat + 1) | 0x13 => bit (p.aux.getLsbD 0) | 0x28 => 1 | 0x29 => 1 | 0x2C => 1
  | 0x30 => 1 | 0x39 => 1
  | 0x41 => dataLines (p.len.toNat - 2 - (if pktCombined p then ceilDiv (p.aux.toNat + 1) 2 else 0))
  | _ => 0

/-- The other bytes that a packet of a type carries in its body (Table 12.5). -/
def wireBody (p : Packet) : Nat :=
  match p.ptype.toNat with
  | 0x09 => 48 | 0x25 => 32 | 0x30 => 16 | 0x31 => 16 | 0x39 => 16 | 0x43 => 16 | _ => 0

/-- A packet with a header: its TYPE is one of the fabric's, its LEN agrees with its body, and it carries what its TYPE and its flags say and nothing else
(Tables 12.4 to 12.6). -/
structure WireForm (p : Packet) : Prop where
  kind : fabricType p.ptype.toNat = true
  header : linkLocal p.ptype.toNat = false
  len : lenAgrees p = true
  data : p.data.length = wireLines p
  checks : if p.ptype = 0x30 ∨ p.ptype = 0x39 then p.checks = [BitVec.ofNat 32 (leAt p.body 0 4)] else p.checks.length = wireLines p
  body : p.body.length = wireBody p
  list : p.list.length = if pktCombined p && [0x01, 0x02, 0x08, 0x41, 0x42, 0x44].contains p.ptype.toNat then p.aux.toNat + 1 else 0
  mask : p.ptype ≠ 0x05 → p.mask = 0
  opA : p.ptype ≠ 0x08 → p.ptype ≠ 0x42 → p.opA = 0
  opB : ¬ (p.ptype = 0x08 ∧ bits p.code.toNat 0 4 = 9) → p.opB = 0
  value : p.ptype ≠ 0x0B → p.ptype ≠ 0x48 → p.value = 0

end Sys2Proof.Safety
end

