-- ==== Sys2Proof/Certificates/Slice0/Obligations.lean ====
section
/-! DEFINITION. The statements for the provers. Each docstring names the rules of the manual it formalises; where a clause rests on a
choice of the model it names the log entry. `Settles c s u` says that the command `c` ends in the next state `settle u`. -/

open Sys2Proof Sys2Proof.Machine Sys2Proof.Safety

/-! ### The machine -/

/-- A step runs the command at the front of the queue on the state with the queue's rest. -/
def Obligations.StepRunsFrontCommand : Prop :=
  ∀ (s : State) (c : Instr) (rest : List Instr), s.pending = c :: rest → step s = exec c { s with pending := rest }

/-- With no command waiting, a step is one METER cycle (log 1): while METER counts, the clock advances by 1, and by 20, one AON cycle, while the root
PLL is stopped (R471); the queue, the rigging, the partitions, the queue pairs and the lines of the store stay as they were. While the clocks run,
each ACTIVE link whose retry buffer has room sends one flit of NULL slots, and nothing else leaves the device (R377; one flit a cycle is the model's
choice, log 54). Settling where nothing waits only restarts gated clocks (R462). -/
def Obligations.IdleStepIsOneCycle : Prop :=
  (∀ s : State, s.pending = [] → ∃ t, step s = .next t ∧
     t.now = s.now + (if metering s.power then (if s.power.pllLocked then 1 else 20) else 0) ∧
     t.pending = s.pending ∧ t.rig = s.rig ∧ t.mem.lines = s.mem.lines ∧ t.mem.moves = s.mem.moves ∧ t.parts = s.parts ∧ t.qps = s.qps ∧
     (∃ more, t.outbox = s.outbox ++ more ∧
       more.length = (if metering s.power ∧ s.power.pllLocked = true then
         ((List.range 16).filter fun l => linkUp s l && decide ((getLink s l).unacked.length < retryFlits)).length else 0) ∧
       ∀ o ∈ more, ∃ l seq ack nak lanes, o = .flit l seq ack nak lanes)) ∧
  (∀ s : State, NothingWaits s → settle s = restartClocks s)

/-- Every command ends in a next state: the manual lets none of them stop the device. No command takes another command from the queue or puts one
there. What has left the device is not taken back: every command only appends to it (log 4). -/
def Obligations.EveryCommandCompletes : Prop :=
  (∀ (c : Instr) (s : State), ∃ t, exec c s = .next t) ∧
  (∀ (c : Instr) (s t : State), exec c s = .next t → t.pending = s.pending) ∧
  (∀ (c : Instr) (s t : State), exec c s = .next t → ∃ more, t.outbox = s.outbox ++ more)

/-- The invariant: every step keeps the store's list of lines in its canonical form, numbers rising and no line listed that reads as one
that nothing has written. -/
def Obligations.StepKeepsStoreCanonical : Prop :=
  ∀ s t : State, StoreCanonical s → step s = .next t → StoreCanonical t

/-- The store is canonical right after reset. -/
def Obligations.ResetStoreCanonical : Prop := StoreCanonical State.reset

/-- What reset leaves (Tables 2.1, 4.8, 6.10, 7.8, 8.5, 12.8, 14.10, 14.15, 15.9, 16.9): no rigging, no error code, every queue pair and partition in
its first state, the read buffers on, the rings empty with sequence numbers from 1, the boot ROM at its start. Each value here is one the manual states; the values the model chose (log 3) are not claimed. -/
def Obligations.ResetState : Prop :=
  State.reset.rig.rigged = false ∧ State.reset.rig.lastResult = 0xFF ∧ State.reset.rig.failSection = 0xFFFF ∧
  State.reset.rig.epoch = 0 ∧ State.reset.rig.draining = none ∧ State.reset.rig.locks = 0 ∧
  (∀ q, (getQp State.reset q).st = .reset ∧ (getQp State.reset q).ctl = 0xFF ∧ (getQp State.reset q).ringer = 0xFF) ∧
  (∀ p, (getPart State.reset p).st = .unassigned ∧ (getPart State.reset p).ctl = 0xFF ∧ (getPart State.reset p).evEn = false ∧
    (getPart State.reset p).evSeq = 1) ∧
  (∀ k, (getSite State.reset k).st = .empty) ∧ (∀ l, (getLink State.reset l).st = .off) ∧
  (∀ n, getCtr State.reset n = 0) ∧ State.reset.order.boothBuf = true ∧ State.reset.order.siteBuf = 0xF ∧
  State.reset.home.sharerSource = false ∧ State.reset.home.lost = 0 ∧ (∀ g, (getMirror State.reset g).state = .none) ∧
  State.reset.barker.head = 0 ∧ State.reset.barker.tail = 0 ∧ State.reset.barker.seq = 1 ∧
  State.reset.power.pllLocked = false ∧ State.reset.power.pwrgd = false ∧ State.reset.mgmt.boot = .rom ∧
  (∀ b, (getBooth State.reset b).window = 2000) ∧ (∀ n, (getBank State.reset n).lastIndex = 0xFFFFFFFFFFFFFFFF)

/-! ### Requests at their home (03, 04, 06, 07) -/

/-- Reads of good lines return what the store holds, with status OK: RD, RD_BURST, RD_STREAM from a site or the fabric, RD_NC from a site whose buffer
misses (R28, R86, R192, R210, R382). That such a read is served in one step is the model's choice (log 9). A read that the stack returns later, for a
load or for a narrow write, holds its line, a narrow write's into a compressed block every line of that block, and keeps its request until then (R111,
R116, R129, R147; log 9). What a site's answered read receives: DATA with its tag, the lines and the status, which leaves, and nothing else, where the
site has given credits for it and no response waits before it; else it waits for credits (R20, R419, Table 13.3). That a site's response credits are
those of class RSP is the model's reading (log 21). -/
def Obligations.ReadsReturnTheStoredLines : Prop :=
  (∀ (port : Port) (k : Fin 4) (p : Packet) (s s' : State) (r : Req), (∀ l ∈ reqLines r, GoodLine s' l) →
     (Admits 0x01 port p s r s' → Ends (.rd port p false []) s (finish (accepted s' r) { status := .ok, data := stored s' r } (counted s'))) ∧
     (Admits 0x02 port p s r s' → Ends (.rdBurst port p) s (finish (accepted s' r) { status := .ok, data := stored s' r } (counted s'))) ∧
     (Admits 0x03 port p s r s' → Ends (.rdStream port p) s (finish (accepted s' r) { status := .ok, data := stored s' r } (counted s'))) ∧
     (Admits 0x14 (.site k) p s r s' → Ends (.rdNc k p) s (finish (accepted s' r) { status := .ok, data := stored s' r } (counted s')))) ∧
  (∀ (port : Port) (p : Packet) (s s' : State) (r : Req) (l : Nat), reqLines r = [l] → GoodLine s' l →
     let waits (c : Instr) (ls : List Nat) : Prop := ∃ u, Settles c s u ∧ (∀ n ∈ ls, lineHeld u n = true) ∧
       u.mem.reads = s'.mem.reads ++ [{ line := l, req := some (accepted s' r), found := none }] ∧ StoreSameBut [] s' u ∧ u.outbox = s'.outbox
     (Admits 0x01 port p s r s' → waits (.rd port p true []) [l]) ∧
     (Admits 0x05 port p s r s' → MergeFree s' r → ((readTogether s' l).any (lineHeld s')) = false →
       waits (.wrMasked port p ⟨true, []⟩) (readTogether s' l))) ∧
  (∀ (s : State) (k : Nat) (r : Req) (ds : List LineData), r.origin = .site k → (getSite s k).st = .active → r.life = (getSite s k).life → ds ≠ [] →
     (r.pkt.ptype = 0x01 ∨ r.pkt.ptype = 0x02 ∨ r.pkt.ptype = 0x03) →
     let u := finish r { status := .ok, data := ds } s
     ∃ q, (SiteTakes s k q → u.outbox = s.outbox ++ [.site k q] ∧ (getSite u k).waiting = (getSite s k).waiting) ∧
       (¬ SiteTakes s k q → u.outbox = s.outbox ∧ (getSite u k).waiting = (getSite s k).waiting ++ [q]) ∧
       q.ptype = 0x41 ∧ q.tag = r.pkt.tag ∧ q.addr = r.pkt.addr ∧ q.code = 0 ∧ q.data = ds ∧
       (passCheck s k = true → q.checks = answerChecks r.pkt.addr ds) ∧ (passCheck s k = false → q.checks = []))

/-- The store of a line: its data is the new data, its SEQ advances by 1, its poison clears and its check is right; every other line reads as before,
with its SEQ, its directory bits and its poison (R107, R113, R118). A write's completion touches no line of the store: after the store of its lines
every line stays as the store left it (R28, R215). -/
def Obligations.StoreLineStoresOneLine : Prop :=
  (∀ (s : State) (l : Nat) (d : LineData),
     let t := storeLine l d s
     viewData t l (getLine t l) = d ∧ (getLine t l).seq = (getLine s l).seq + 1 ∧ (getLine t l).poison = false ∧
     (getLine t l).reason = 0 ∧ lineCheckOf t l (getLine t l) = lineCheck (checkAddr t l) d ∧
     (∀ n, n ≠ l → viewData t n (getLine t n) = viewData s n (getLine s n) ∧ (getLine t n).seq = (getLine s n).seq ∧
       (getLine t n).dir = (getLine s n).dir ∧ (getLine t n).poison = (getLine s n).poison ∧
       lineCheckOf t n (getLine t n) = lineCheckOf s n (getLine s n))) ∧
  (∀ (s : State) (r : Req) (c : Status), StoreCanonical s → (writeDone r c s).mem.lines = s.mem.lines)

/-- Writes of idle lines that are not mirrored are accepted and complete: WR and WR_NC store their line, WR_BURST and WR_STREAM their bursts,
WR_MASKED, with a merge entry free, the merge of its bytes with the line (R28, R104, R116, R210, R211). -/
def Obligations.WritesAreAccepted : Prop :=
  ∀ (port : Port) (k : Fin 4) (p : Packet) (s s' : State) (r : Req), (∀ l ∈ reqLines r, IdleLine s' l ∧ mirrored s' l = false) →
    (Admits 0x04 port p s r s' →
      Ends (.wr port p []) s (writeDone (accepted s' r) .ok (storeLine ((reqLines r).headD 0) (p.data.headD 0) (counted s')))) ∧
    (Admits 0x15 (.site k) p s r s' →
      Ends (.wrNc k p) s (writeDone (accepted s' r) .ok (storeLine ((reqLines r).headD 0) (p.data.headD 0) (counted s')))) ∧
    (Admits 0x06 port p s r s' →
      Ends (.wrBurst port p) s (writeDone (accepted s' r) .ok (storeBurst ((reqLines r).headD 0) (p.data.take 4) (counted s')))) ∧
    (Admits 0x07 port p s r s' →
      Ends (.wrStream port p) s (writeDone (accepted s' r) .ok (eachS (List.range (p.aux.toNat + 1)) (fun b s =>
        storeBurst ((reqLines r).getD (4 * b) 0) ((p.data.drop (4 * b)).take 4) s) (counted s')))) ∧
    (Admits 0x05 port p s r s' → (∀ l ∈ reqLines r, GoodLine s' l) → MergeFree s' r →
      ∃ u, Ends (.wrMasked port p ⟨false, []⟩) s (writeDone (accepted s' r) .ok u) ∧ u.mem.lines =
        (storeLine ((reqLines r).headD 0) (mergeLine ((stored s' r).headD 0) (p.data.headD 0) p.mask) s').mem.lines)

/-- A far atomic on a good line that is not mirrored: its old value is the field it names, and the new value of Table 7.3 is written there as a narrow
write, except by a CSWAP whose comparison fails, which writes nothing (R226, R231). One of the fabric is recorded as pending first. The operations of
Table 7.3 over values of w bits: ADD wraps, the minima and maxima compare signed or unsigned, SWAP and CSWAP store their operand, and only a CSWAP
whose comparison fails writes nothing (R226). -/
def Obligations.FarAtomicsApply : Prop :=
  (∀ (port : Port) (p : Packet) (s s' : State) (r : Req) (l : Nat), Admits 0x08 port p s r s' → reqLines r = [l] → GoodLine s' l →
     MergeFree s' r → mirrored s' l = false → pktCombined p = false → pktResend p = false →
     (∀ key ∈ constituents r.pkt, findReplay s' r key = none) →
     ((s'.order.replay.filter fun e => e.slice = sliceOfLine l && replayLive s' s'.now e).length < 1024) →
     let n := pktBytes r.pkt
     let o := bits p.addr.toNat 0 6
     let d := (stored s' r).headD 0
     let old := lineField d o n
     let a := p.opA.toNat % 2 ^ (8 * n)
     let op := bits p.code.toNat 0 4
     let new := if op = 0 then (old + a) % 2 ^ (8 * n) else atomicNew op (8 * n) old a (p.opB.toNat % 2 ^ (8 * n))
     let q : Req := { accepted s' r with old := BitVec.ofNat 128 old }
     ∃ s1, s1.mem = (counted s').mem ∧
       (atomicWrites op old a = false → Ends (.atomicFar port p) s (finish q { status := .ok, old := BitVec.ofNat 128 old } s1)) ∧
       (atomicWrites op old a = true → ∃ u, Ends (.atomicFar port p) s (writeDone q .ok u) ∧
         u.mem.lines = (storeLine l (lineSet d o n new) s').mem.lines)) ∧
  (∀ w old a b : Nat, 0 < w → old < 2 ^ w → a < 2 ^ w → b < 2 ^ w →
     atomicNew 0 w old a b = (old + a) % 2 ^ w ∧ atomicNew 1 w old a b = old &&& a ∧ atomicNew 2 w old a b = old ||| a ∧
     atomicNew 3 w old a b = old ^^^ a ∧
     (signedOf w (atomicNew 4 w old a b) = min (signedOf w old) (signedOf w a)) ∧
     (signedOf w (atomicNew 5 w old a b) = max (signedOf w old) (signedOf w a)) ∧
     atomicNew 6 w old a b = min old a ∧ atomicNew 7 w old a b = max old a ∧ atomicNew 8 w old a b = a ∧
     atomicNew 9 w old a b = (if old = a then b else old) ∧
     (∀ op, op ≤ 9 → atomicNew op w old a b < 2 ^ w) ∧
     (∀ op, op ≤ 9 → (atomicWrites op old a = false ↔ op = 9 ∧ old ≠ a)))

/-- A publication's commit at its header's home, on a good line that is not mirrored, with header and data in PUBLISHABLE pages: a higher version replaces the header, an equal one with the
same digest is already there, one with another digest conflicts, a lower one is stale (R364, R365, Table 11.11). -/
def Obligations.PublicationsAreDecided : Prop :=
  ∀ (k : Fin 16) (p : Packet) (s s' : State) (r : Req) (l : Nat), Admits 0x09 (.link k) p s r s' → reqLines r = [l] → GoodLine s' l →
    mirrored s' l = false → commitOk s' p = true →
    let h := (stored s' r).headD 0
    let v := leAt p.body 0 8
    let g := leAt p.body 8 16
    let d := newRegion h v g (leAt p.body 24 8) (leAt p.body 32 8) p.srcNode.toNat (leAt p.body 40 2)
    let q := accepted s' r
    (lineField h 0 8 < v → Ends (.publishCommit k p) s (writeDone { q with old := commitResult d false } .ok (storeLine l d (counted s')))) ∧
    (lineField h 0 8 = v → lineField h 8 16 = g →
      Ends (.publishCommit k p) s (finish q { status := .ok, old := commitResult h true } (counted s'))) ∧
    (lineField h 0 8 = v → lineField h 8 16 ≠ g →
      Ends (.publishCommit k p) s (finish q { status := .conflict, old := commitResult h false } (counted s'))) ∧
    (v < lineField h 0 8 → Ends (.publishCommit k p) s (finish q { status := .staleVersion, old := commitResult h false } (counted s')))

/-- Coherent requests of an agent that nothing stands against: a good line held by no agent is granted shared or owned with its data, a line its
requester alone shares is granted by GRANT; the transaction stays open, granted, until COMPLETE (R192, R193, Table 6.3). -/
def Obligations.CoherentGrants : Prop :=
  ∀ (port : Port) (p : Packet) (s s' : State) (r : Req) (l y : Nat), l = lineNo (offOf p.addr.toNat) → reqAgent s' r = some y → y < 32 →
    agentLostBit s' y = false → FreeLine s' l → (freeTxn s' (sliceOfLine l)).isSome = true →
    let same (q : Req) : Prop := q.origin = r.origin ∧ q.pkt = r.pkt ∧ q.life = r.life
    (Admits 0x10 port p s r s' → GoodLine s' l → ∃ q s1 t, same q ∧ findTxn s1 l = some t ∧ t.agent = some y ∧ t.granted = some s'.now ∧ t.probes = [] ∧
      Ends (.rdShared port p) s (toRequester q { dataMsg 0x28 (lineAddr s' l) (viewData s' l (getLine s' l)) with code := 0 } s1)) ∧
    (Admits 0x11 port p s r s' → GoodLine s' l → ∃ q s1 t, same q ∧ findTxn s1 l = some t ∧ t.agent = some y ∧ t.granted = some s'.now ∧ t.probes = [] ∧
      t.after = .o y ∧
      Ends (.rdOwn port p) s (toRequester q { dataMsg 0x29 (lineAddr s' l) (viewData s' l (getLine s' l)) with code := 0 } s1)) ∧
    (Admits 0x12 port p s r s' → dirState s' l = .s (1 <<< y) → ∃ q s1 t, same q ∧ findTxn s1 l = some t ∧ t.agent = some y ∧ t.granted = some s'.now ∧
      t.after = .o y ∧ Ends (.upgrade port p) s (toRequester q (cohMsg 0x2A p.addr) s1))

/-- A line that the recorded owner gives up is stored where it is dirty, its block holding no line whose check fails, and is acknowledged; its state
is I (R191, R196). COMPLETE closes the granted transaction of its agent, from a site or over the fabric: the line's pool entry is free and the line is
reserved for the first agent that met RETRY, if any, for 1,024 HOME cycles (R193, R195). -/
def Obligations.LinesAreGivenUpAndTransactionsClose : Prop :=
  (∀ (port : Port) (p : Packet) (s s' : State) (r : Req) (l y : Nat), l = lineNo (offOf p.addr.toNat) → Admits 0x13 port p s r s' →
     reqAgent s' r = some y → agentLostBit s' y = false → FreeLine s' l → mirrored s' l = false → dirState s' l = .o y →
     (blockCompressed s' l && (blockLines l).any (badCheck s')) = false →
     ∃ q s1, q.origin = r.origin ∧ q.pkt = r.pkt ∧ q.life = r.life ∧ dirState s1 l = .i ∧ (getLine s1 l).data = (getLine s' l).data ∧
       (p.aux.getLsbD 0 = false → Ends (.writeback port p) s (finish q { status := .ok } s1)) ∧
       (p.aux.getLsbD 0 = true → Ends (.writeback port p) s (writeDone q .ok (storeLine l (p.data.headD 0) s1)))) ∧
  (∀ (k : Fin 4) (i : Fin 16) (p : Packet) (s s1 : State) (t : Txn) (l : Nat), l = lineNo (offOf p.addr.toNat) →
     findTxn s l = some t → t.granted.isSome = true → t.probes = [] → t.gone = false → t.coh ≠ .ncRead → t.coh ≠ .ncWrite →
     lineHeld s l = false → (s.integ.ops.any fun o => o.lines.contains l) = false →
     let after (u : State) : Prop := findTxn u l = none ∧ u.home.reserves = s.home.reserves ++ (match t.waiters with
       | [] => []
       | w :: ws => [{ line := l, waiter := w, until_ := s.now + 256, rest := ws }])
     ((getSite s k.val).st = .active → siteMessageOk (sized { p with ptype := 0x18 }) = true → nodeOf p.addr.toNat = thisNode s →
       t.agent = some (4 * thisIndex s + k.val) → ∃ u, Settles (.complete (.site k) p none) s u ∧ after u) ∧
     (∀ q m, q = linkSized { p with ptype := 0x18 } → Comes s i.val q s1 →
       memberOf s1 p.srcNode.toNat = some m → memberLive s1 m = true → t.agent = some (pktAgent m q) → ∃ u, Settles (.complete (.link i) p none) s u ∧ after u))

/-- The checks of Table 3.5 on a site's request come in their order, the first that fails decides the status, and a CHECK_FAILED record names
it (R86, R87). -/
def Obligations.SiteChecksInOrder : Prop :=
  ∀ (k : Fin 4) (p : Packet) (s : State), (getSite s k.val).st = .active → s.ucie.fences = [] → (getSite s k.val).held = [] →
    let q := atPort 0x04 (.site k) p
    let part := (sitePart s.rig.cur k.val).getD 0xFF
    let r := siteReq s k.val q part
    let s0 := oweSite k.val 0x04 q.len.toNat s
    let kind := if nodeOf p.addr.toNat = thisNode s then 1 else 2
    (siteFormOk q = false → Settles (.wr (.site k) p []) s (refuse r .malformed (checkFailed r 1 .malformed s0))) ∧
    (siteFormOk q = true → sitePart s.rig.cur k.val = none →
      Settles (.wr (.site k) p []) s (refuse r .protection (checkFailed r 3 .protection s0))) ∧
    (siteFormOk q = true → sitePart s.rig.cur k.val = some part → (getPart s part).st ≠ .running →
      Settles (.wr (.site k) p []) s (refuse r .targetDead (checkFailed r 5 .targetDead s0))) ∧
    (siteFormOk q = true → sitePart s.rig.cur k.val = some part → (getPart s part).st = .running →
      findWin (mapsAt s s.rig.epoch) part kind p.addr.toNat 64 = none →
      Settles (.wr (.site k) p []) s (refuse r .xlatFault (checkFailed r 6 .xlatFault s0))) ∧
    (∀ i e, siteFormOk q = true → sitePart s.rig.cur k.val = some part → (getPart s part).st = .running →
      findWin (mapsAt s s.rig.epoch) part kind p.addr.toNat 64 = some (i, e) → (winSite e && winWrite e) = false →
      Settles (.wr (.site k) p []) s (refuse r .protection (checkFailed r 7 .protection s0)))

/-- What goes wrong on the die with a request (R117, R145, R146; log 45). A narrow write whose two merge checks disagree once is merged all the same
and counted in MERGE_RETRIES; when they disagree twice it ends with STATE_LOST, counted in MERGE_FAULTS, posted from its Carousel, and with no event
ring enabled no line of the store changes. A hand-off that fails once lets the request go on, counted and logged as PATH_RETRIED; one that fails twice
ends it with POISONED, counted and logged as PATH_FAILED and posted with both ends, and it stores nothing. -/
def Obligations.UpsetsOnTheDie : Prop :=
  (∀ (port : Port) (p : Packet) (s s' : State) (r : Req) (l : Nat), Admits 0x05 port p s r s' → reqLines r = [l] → GoodLine s' l →
     MergeFree s' r → mirrored s' l = false →
     let k := stackOfLine l
     (∃ u, Ends (.wrMasked port p ⟨false, [.merge l false]⟩) s (writeDone (accepted s' r) .ok u) ∧
       u.mem.lines = (storeLine l (mergeLine ((stored s' r).headD 0) (p.data.headD 0) p.mask) s').mem.lines ∧
       (getStack u k).mergeRetries = satInc 8 (getStack s' k).mergeRetries ∧ (getStack u k).mergeFaults = (getStack s' k).mergeFaults) ∧
     (∃ u, Ends (.wrMasked port p ⟨false, [.merge l true]⟩) s (writeDone (accepted s' r) .stateLost u) ∧
       (getStack u k).mergeFaults = satInc 8 (getStack s' k).mergeFaults ∧ (getStack u k).merges = (getStack s' k).merges ∧
       ((∀ q, (getPart s' q).evEn = false) → u.mem.lines = s'.mem.lines))) ∧
  (∀ (port : Port) (p : Packet) (s s' : State) (r : Req) (a : Word) (from_ to_ : BitVec 8) (f : BitVec 32) (later : Bool),
     a.toNat / 64 = p.addr.toNat / 64 →
     let ups : List Upset := [.handOff a from_ to_ f true]
     let fails (c : Instr) : Prop := ∃ u, Ends c s (finish r { status := .poisoned } u) ∧
       u.integ.pathFailed = satInc 32 s'.integ.pathFailed ∧ ((∀ q, (getPart s' q).evEn = false) → u.mem.lines = s'.mem.lines) ∧
       ∃ e, Tab.find u.integ.log s'.integ.next = some e ∧ e.outcome = 5 ∧ e.location = to_.toNat ∧ e.valid = true
     (Admits 0x01 port p s r s' → fails (.rd port p later ups)) ∧
     (Admits 0x04 port p s r s' → fails (.wr port p ups)) ∧
     (Admits 0x05 port p s r s' → fails (.wrMasked port p ⟨later, ups⟩))) ∧
  (∀ (port : Port) (p : Packet) (s s' : State) (r : Req) (a : Word) (from_ to_ : BitVec 8) (f : BitVec 32),
     a.toNat / 64 = p.addr.toNat / 64 → Admits 0x04 port p s r s' → (∀ l ∈ reqLines r, IdleLine s' l ∧ mirrored s' l = false) →
     ∃ u, Ends (.wr port p [.handOff a from_ to_ f false]) s (writeDone (accepted s' r) .ok (storeLine ((reqLines r).headD 0) (p.data.headD 0) u)) ∧
       u.integ.pathRetried = satInc 32 s'.integ.pathRetried ∧ u.mem.lines = s'.mem.lines ∧
       ∃ e, Tab.find u.integ.log s'.integ.next = some e ∧ e.outcome = 4 ∧ e.location = to_.toNat ∧ e.valid = true)

/-! ### Answers, coherence and mirroring between devices (05, 06, 12) -/

/-- The response to a request of this device ends it, with its status and what it carries: FABRIC_ACK a write or a register write, DATA a read whose
carried checks match, ATOMIC_RESULT a far atomic, PUBLISH_RESULT a publication, REG_RESULT a register access, STATUS any of them (R29, R88, R143,
R232, R367, R392, R505). A request that ends frees its tag, except that a far atomic's tag is held for REPLAY_RETENTION and a resent read's for
FABRIC_TIMEOUT (R29, R232, R379). -/
def Obligations.ResponsesEndTheirRequests : Prop :=
  (∀ (l : Fin 16) (p : Packet) (s s1 : State) (o : Outst) (t : BitVec 8),
     Comes s l.val (linkSized { p with ptype := t }) s1 → findOutst s1 p.srcNode.toNat (bits p.tag.toNat 0 20) = some o →
     (t = 0x40 → (isWriteType o.pkt.ptype.toNat = true ∨ o.pkt.ptype = 0x0B) →
       Settles (.fabricAck l p) s (endWith o { status := statusOf p.code.toNat } false s1)) ∧
     (t = 0x41 → isReadType o.pkt.ptype.toNat = true → p.data.length = pktLines o.pkt → statusGood (statusOf p.code.toNat) = true →
       p.checks = answerChecks o.pkt.addr p.data → o.again = none →
       Settles (.data l p) s (endWith o { status := statusOf p.code.toNat, data := p.data } (p.flags.getLsbD 5) s1)) ∧
     (t = 0x42 → o.pkt.ptype = 0x08 → Settles (.atomicResult l p) s (endWith o { status := statusOf p.code.toNat, old := p.opA } false s1)) ∧
     (t = 0x43 → o.pkt.ptype = 0x09 → Settles (.publishResult l p) s
       (endWith o { status := statusOf p.code.toNat, old := BitVec.ofNat 128 (leAt p.body 0 16) } false s1)) ∧
     (t = 0x48 → (o.pkt.ptype = 0x0A ∨ o.pkt.ptype = 0x0B) →
       Settles (.regResult l p) s (endWith o { status := statusOf p.code.toNat, old := p.value.setWidth 128 } false s1)) ∧
     (t = 0x44 → ¬ (0x10 ≤ o.pkt.ptype.toNat ∧ o.pkt.ptype.toNat ≤ 0x13) → ¬ (o.pkt.ptype = 0x08 ∧ statusOf p.code.toNat = .staleMap) →
       Settles (.status l p) s (endWith o { status := statusOf p.code.toNat } false s1))) ∧
  (∀ (o : Outst) (a : Answer) (noBuf : Bool) (s : State),
     let u := endWith o a noBuf s
     (∀ y ∈ u.fab.outst, y.tag ≠ o.tag) ∧
     (o.pkt.ptype = 0x08 → { tag := o.tag, until_ := s.now + retention s } ∈ u.fab.tagHolds) ∧
     (o.pkt.ptype ≠ 0x08 → o.reread = true → { tag := o.tag, until_ := s.now + fabricTimeout s } ∈ u.fab.tagHolds) ∧
     (o.pkt.ptype ≠ 0x08 → o.reread = false → u.fab.tagHolds = s.fab.tagHolds))

/-- RETRY keeps its request outstanding with the entry it waits for. The grant hands it again, with GRANTED and the entry's number, to the link whose Ticket
it holds, where R388 still gives that link: its resends start anew, and its times run from when it leaves. CHECK_RESEND hands it again in the same way. The
request keeps its own packet, with its tag (R232, R388, R392, R397, R399). -/
def Obligations.BouncedRequestsWait : Prop :=
  ∀ (l : Fin 16) (p : Packet) (s s1 : State) (o : Outst) (t : BitVec 8),
    let again := pktFlag { o.pkt with grantId := p.grantId } 4 true
    let kept (u : State) (f : Outst → Prop) : Prop := u.fab.outst.map Outst.tag = s1.fab.outst.map Outst.tag ∧
      ∃ y ∈ u.fab.outst, y.tag = o.tag ∧ y.ticketed = true ∧ y.link = o.link ∧ y.pkt = o.pkt ∧ f y
    let handed (u : State) (f g : Outst → Prop) : Prop :=
      (∃ n more, u.outbox = s1.outbox ++ .link o.link { again with len := n } :: more ∧ kept u (fun y => y.lastAt = s.now ∧ f y ∧ g y)) ∨
      (∃ n, { again with len := n } ∈ (getLink u o.link).waiting ∧ u.outbox = s1.outbox ∧ kept u f)
    Comes s l.val (linkSized { p with ptype := t }) s1 → findOutst s1 p.srcNode.toNat (bits p.tag.toNat 0 20) = some o →
    (t = 0x45 → ∃ u, Gives (.retry l p) s u ∧ (∀ y ∈ u.fab.outst, y.tag = o.tag → y.grantId = some p.grantId.toNat) ∧
      u.outbox = s1.outbox ∧ u.fab.outst.map Outst.tag = s1.fab.outst.map Outst.tag) ∧
    (o.ticketed = true → o.pkt.ptype.toNat ≤ 0x13 → outLink s1 o.epoch o.part o.pkt = some o.link →
      (t = 0x46 → ∃ u, Settles (.resendGrant l p) s u ∧ handed u (fun y => y.grantId = none ∧ y.resends = 0) (fun y => y.firstAt = s.now)) ∧
      (t = 0x47 → ∃ u, Settles (.checkResend l p) s u ∧ handed u (fun y => y.grantId = o.grantId ∧ y.resends = o.resends) (fun _ => True)))

/-- NULL changes nothing; CREDIT refills the reserved part of each class first and none above its size, or adds to a site's credits where its form is
right, and what waited for them leaves; NODE_UNREACHABLE marks its node as the newest of at most 256 marks; NODE_REACHABLE removes the mark (R377,
R384, R385, R390, R416). Credits returned to a class never exceed its sizes, and none are lost below them (R384). Credits owed for 512 LINK cycles are
returned, on a link and on a site, but for those of REQ while the port's bounce entries are all in use; a bounced request's entry is granted when a
Ticket and its slots are free, and a grant unused for 10,000 METER cycles is withdrawn (R385, R396, R397, R419). -/
def Obligations.LinkLocalPacketsCreditsAndGrants : Prop :=
  (∀ (l : Fin 16) (k : Fin 4) (p : Packet) (node : BitVec 16) (s : State),
     Idles (.null l) s ∧
     (linkUp s l.val = true → ∃ s1, Gives (.credit (.link l) p) s (pumpCredits ((getLink s1 l.val).waiting.length + 1) l.val s1) ∧
       (getLink s1 l.val).waiting = (getLink s l.val).waiting ∧
       ∀ c, c < 5 → creditOf (getLink s1 l.val) c = refill ((getLink s l.val).sizes.getD c (0, 0)) (creditOf (getLink s l.val) c) (creditSlots p c)) ∧
     ((getSite s k.val).st = .active → siteCreditOk p = false → Gives (.credit (.site k) p) s (siteProtocol k.val 0x60 s)) ∧
     ((getSite s k.val).st = .active → siteCreditOk p = true → ∃ s1, Gives (.credit (.site k) p) s (pumpSite ((getSite s1 k.val).waiting.length + 1) k.val s1) ∧
       (getSite s1 k.val).waiting = (getSite s k.val).waiting ∧
       ∀ c, c < 4 → (getSite s1 k.val).credits.getD c (0, 0) =
         (((getSite s k.val).credits.getD c (0, 0)).1 + creditSlots p c, ((getSite s k.val).credits.getD c (0, 0)).2)) ∧
     (linkUp s l.val = true → ∃ s1, Settles (.nodeUnreachable l node) s (pumpOutst (checkReach s1)) ∧
       (getLink s1 l.val).marks.getLast? = some node.toNat ∧ (getLink s1 l.val).marks.length ≤ 256) ∧
     (linkUp s l.val = true → ∃ u, Gives (.nodeReachable l node) s u ∧ node.toNat ∉ (getLink u l.val).marks)) ∧
  (∀ (size cur : Nat × Nat) (n : Nat), cur.1 ≤ size.1 → cur.2 ≤ size.2 →
     (refill size cur n).1 ≤ size.1 ∧ (refill size cur n).2 ≤ size.2 ∧
     ((refill size cur n).1 + (refill size cur n).2 = min (size.1 + size.2) (cur.1 + cur.2 + n)) ∧
     (cur.2 + n ≤ size.2 → refill size cur n = (cur.1, cur.2 + n))) ∧
  (∀ (l : Fin 16) (k : Fin 4) (pt slice : Fin 8) (g : BitVec 32) (b : Bounce) (t : Nat) (s : State),
     ((getLink s l.val).owedAt = some t → (getLink s l.val).st = .active → t + 128 ≤ s.now → ∃ u, Gives (.creditReturnTimer (.link l)) s u ∧
       (getLink u l.val).owed = [if bounceFull s l.val then (getLink s l.val).owed.getD 0 0 else 0, 0, 0, 0, 0] ∧
       (bounceFull s l.val = false → (getLink u l.val).owedAt = none) ∧
       .link l.val { ptype := 0x60, len := 1, body := (List.range 5).flatMap fun c => leBytes 2 ((returnable s l.val (getLink s l.val).owed).getD c 0) } ∈ u.outbox) ∧
     ((getSite s k.val).owedAt = some t → (getSite s k.val).st = .active → t + 128 ≤ s.now → ∃ u, Gives (.creditReturnTimer (.site k)) s u ∧
       (getSite u k.val).owed = [0, 0, 0, 0] ∧ (getSite u k.val).owedAt = none ∧
       .site k.val { ptype := 0x60, len := 1, body := (getSite s k.val).owed.flatMap (leBytes 2) } ∈ u.outbox) ∧
     (((getPort s pt.val).bounce.find? fun b => b.resend.isNone && b.wake.isNone && b.granted.isNone && b.slice = slice.val) = some b →
       sliceTickets s pt.val slice.val + sliceGrants s pt.val slice.val < 1024 → grantedSlots s b.link b.cls + b.len ≤ reservedSlots s b.link b.cls → ∃ u, Gives (.bounceGrant pt slice) s u ∧
         ∃ y ∈ (getPort u pt.val).bounce, y.id = b.id ∧ y.granted = some s.now) ∧
     (((getPort s pt.val).bounce.find? fun b => b.id = g.toNat) = some b → b.granted = some t → t + 10000 ≤ s.now →
       ∃ u, Gives (.grantHoldExpiry pt g) s u ∧ ∀ y ∈ (getPort u pt.val).bounce, y.id ≠ g.toNat))

/-- A probe of another home goes to the sites it names on this device, to all its agents where it names none, and awaits them, or is answered at once
when there are none; it leaves to each site whose credits allow (R20, R190, R191). A probe's answer by a site of this device goes to its transaction,
which proceeds: ACK counts for the agent, ACK_DATA that is not dirty likewise, and after it no probe of this device names the agent (R192, R193,
R196). -/
def Obligations.ProbesAndTheirAnswers : Prop :=
  (∀ (l : Fin 16) (p : Packet) (s s1 : State) (t : BitVec 8) (c : Instr),
     ((t = 0x20 ∧ c = .snpInv l p) ∨ (t = 0x21 ∧ c = .snpFwdS l p) ∨ (t = 0x22 ∧ c = .snpFwdO l p) ∨ (t = 0x23 ∧ c = .snpRecall l p)) →
     let q := linkSized { p with ptype := t }
     let mine := (List.range 4).filter fun k => siteAgent s1 k && !agentLostBit s1 (4 * thisIndex s1 + k)
     let named := (p.list.drop 1).map fun x => x.2.toNat % 32
     let sites := if named.isEmpty then mine else mine.filter fun k => named.contains (4 * thisIndex s1 + k)
     let sent (k : Nat) : Packet := sitePkt s1 k q
     Comes s l.val q s1 → (liveSender s1 q).isSome = true →
     ∃ v u, Gives c s u ∧ v.pkt = q ∧ v.link = l.val ∧ v.sites = sites ∧
       (sites = [] → u = answerHome v s1) ∧
       (sites ≠ [] → u.home.served = s1.home.served ++ [v] ∧ (∀ k ∈ sites, SiteTakes s1 k (sent k) → .site k (sent k) ∈ u.outbox) ∧
         ∃ more, u.outbox = s1.outbox ++ more ∧ ∀ o ∈ more, ∃ k ∈ sites, o = .site k (sent k))) ∧
  (∀ (k : Fin 4) (p : Packet) (s : State) (t : Txn),
     let a := 4 * thisIndex s + k.val
     let l := msgLine p
     let counts (s1 : State) : Prop := (∀ y, findTxn s1 l = some y → ∀ x ∈ y.probes, x.member = thisIndex s → a ∉ x.agents) ∧ s1.mem = s.mem
     (getSite s k.val).st = .active → nodeOf p.addr.toNat = thisNode s → findTxn s l = some t → s.upsets = [] →
     (t.probes.any fun x => x.agents.contains a && x.member = thisIndex s) = true →
     (siteMessageOk (sized { p with ptype := 0x2B }) = true → p.aux.getLsbD 1 = false →
       ∃ s1, counts s1 ∧ Settles (.ack (.site k) p) s (txnProceed l none s1)) ∧
     (siteMessageOk (sized { p with ptype := 0x2C }) = true → p.aux.getLsbD 0 = false →
       ∃ s1, counts s1 ∧ Settles (.ackData (.site k) p) s (txnProceed l (if t.coh = .ncRead then some (p.data.headD 0) else none) s1)))

/-- A lost agent's bit is set and its scan begins; RING_HELLO of a member that agrees marks it live, one that disagrees marks it not live and is
posted, and either is answered when REPLY is 0 (R182, R198, R199). HOME_AGENT_REVIVE clears the agent's lost bit once its scan and sweep are over, and
before that changes nothing but is recorded (R201). -/
def Obligations.RingMembershipAndRevival : Prop :=
  (∀ (l : Fin 16) (p : Packet) (s s1 : State) (r : RingRec) (i : Nat),
     (Comes s l.val (linkSized { p with ptype := 0x24 }) s1 → (liveSender s1 p).isSome = true → agentLostBit s1 (namedAgent p) = false →
       ∃ u, Settles (.agentLost l p) s u ∧ agentLostBit u (namedAgent p) = true ∧ ∃ w ∈ u.home.sweeps, w.agent = namedAgent p) ∧
     (Comes s l.val (linkSized { p with ptype := 0x25 }) s1 → ringOf s1 = some r → memberOf s1 p.srcNode.toNat = some i →
       ∃ s2, memberLive s2 i = ringAgrees r p.body ∧ (ringAgrees r p.body = true → s2.parts = s1.parts ∧ s2.outbox = s1.outbox) ∧
         Gives (.ringHello l p) s (if p.aux.getLsbD 0 then s2 else sendOn l.val (helloPkt s2 r p.srcNode.toNat true) s2))) ∧
  (∀ (w : Writer) (v : Word) (s : State), writerLive s w = true →
     let a := bits v.toNat 0 5
     ((s.home.sweeps.any fun x => x.agent = a) = false → ∃ u, Settles (.homeAgentRevive w v) s u ∧ agentLostBit u a = false ∧
       ∀ b, b ≠ a → agentLostBit u b = agentLostBit s b) ∧
     ((s.home.sweeps.any fun x => x.agent = a) = true → Settles (.homeAgentRevive w v) s
       (post { recOf s 0x0016 0 (writerNo s w) (locOfWriter w) with detail := a, node := nodeOfWriter s w } s)))

/-- The answer to a site's coherent request reaches the site that asked under its own tag and ends the request: data with a matching check, GRANT,
WB_ACK, RETRY and ERROR, the last four from the home alone (R189, R191, R195, R402). Data that a site's agent sends on to a requesting agent goes,
with the check made at this device, to the agent's site here, or on a link to its member's node, and is kept in case its check fails there (R143,
R145, R191); a packet whose form R415 or R416 refuses is discarded, with a protocol record that names the site. How a probe names the home itself as
its requester is the model's choice (log 8). -/
def Obligations.CoherentAnswersReachTheAgent : Prop :=
  (∀ (l : Fin 16) (p : Packet) (s s1 : State) (o : Outst) (k : Nat) (t : BitVec 8) (c : Instr),
     ((t = 0x28 ∧ c = .dataS (.link l) p) ∨ (t = 0x29 ∧ c = .dataO (.link l) p) ∨ (t = 0x2A ∧ c = .grant l p) ∨
       (t = 0x2D ∧ c = .wbAck l p) ∨ (t = 0x2E ∧ c = .coherenceRetry l p) ∨ (t = 0x2F ∧ c = .error l p)) →
     let data := t = 0x28 || t = 0x29
     Comes s l.val (linkSized { p with ptype := t }) s1 → (liveSender s1 p).isSome = true → s.upsets = [] →
     (s1.fab.outst.find? fun o => o.tag = bits p.tag.toNat 0 20 && 0x10 ≤ o.pkt.ptype.toNat && o.pkt.ptype.toNat ≤ 0x13 &&
       (data || o.pkt.dstNode = p.srcNode)) = some o →
     o.origin = .site k → (data = true → p.checks = answerChecks p.addr p.data) →
     ∃ s2 d, Settles c s (settleFences (toAsker (outstReq o) k d s2)) ∧ d.ptype = t ∧ d.tag = BitVec.ofNat 32 o.siteTag ∧ d.addr = p.addr ∧
       d.data = p.data ∧ d.code = p.code ∧ ∀ y ∈ s2.fab.outst, y.tag ≠ o.tag) ∧
  (∀ (k : Fin 4) (p : Packet) (s : State) (t : BitVec 8) (c : Instr),
     ((t = 0x28 ∧ c = .dataS (.site k) p) ∨ (t = 0x29 ∧ c = .dataO (.site k) p)) → (getSite s k.val).st = .active →
     let m := sized { p with ptype := t }
     let s0 := oweSite k.val t.toNat m.len.toNat s
     let y := namedAgent p
     (siteMessageOk m = false → Gives c s (siteProtocol k.val t.toNat s0)) ∧
     (siteMessageOk m = true → (nodeOf p.addr.toNat = thisNode s → ((findTxn s (msgLine p)).bind Txn.agent).isSome = true) →
       (∀ y ∈ p.list, y.2.toNat ≠ homeMark) → s.upsets = [] →
       (y / 4 = thisIndex s → Gives c s (toSite (y % 4) { m with checks := answerChecks p.addr p.data } s0)) ∧
       (∀ j, y / 4 ≠ thisIndex s → anyLink s0 (memberNode s (y / 4)) (offOf p.addr.toNat) = some j → ∃ q s1, Gives c s (sendOn j q s1) ∧
         q.ptype = t ∧ q.data = p.data ∧ q.checks = answerChecks p.addr p.data ∧ q.dstNode = BitVec.ofNat 16 (memberNode s (y / 4)) ∧
         s1.home.passed.getLast? = some q ∧ s1.outbox = s0.outbox ∧ s1.mem = s0.mem)))

/-- A mirror packet at the partner of a pair, from the node its record names, on a line that nothing holds: MIRROR_WR stores the line with the CHECK
and SEQ it carries, its block holding no line whose check fails, MIRROR_META its poison, MIRROR_RD answers with a copy that does not fail its check
(R155, R157, R163, R393). PAIR_OPEN makes a group that may pair the partner of its sender's group; PAIR_CLOSE ends that role (R359, R543). -/
def Obligations.PartnerTakesMirrorPackets : Prop :=
  (∀ (l : Fin 16) (p : Packet) (s s1 : State) (t : BitVec 8) (m : MirRec),
     let q := linkSized { p with ptype := t }
     let n := msgLine p
     let g := groupOfLine n
     Comes s l.val q s1 → Tab.find s1.rig.cur.mirs g = some m → m.partnerNode = p.srcNode.toNat → (getMirror s1 g).partner = true →
     (getMirror s1 g).state ≠ .promoted → LineOpen s1 (mirrorReq s1 l.val q) n → keyMissing s1 n = false → channelUp s1 n = true → s.upsets = [] →
     resendEntry s1 l.val q = none →
     (t = 0x30 → bodyCheck p = lineCheck (bodyAddr p) (p.data.headD 0) → (blockCompressed s1 n && (blockLines n).any (badCheck s1)) = false →
       ∃ s2, Settles (.mirrorWr l p) s (mirrorAnswer l.val q .ok s2) ∧
       (getLine s2 n).data = p.data.headD 0 ∧ (getLine s2 n).seq = bodySeq p ∧ lineCheckOf s2 n (getLine s2 n) = bodyCheck p ∧
       (getLine s2 n).poison = false ∧ (getMirror s2 g).state = pairOf (bits p.aux.toNat 0 3)) ∧
     (t = 0x31 → ∃ s2, Settles (.mirrorMeta l p) s (mirrorAnswer l.val q .ok s2) ∧
       (getLine s2 n).poison = decide (leAt p.body 0 1 % 2 = 1) ∧ (getLine s2 n).data = (getLine s1 n).data) ∧
     (t = 0x32 → badCheck s1 n = false → ∃ s2, s2.mem.lines = s1.mem.lines ∧ Settles (.mirrorRd l p) s (reply l.val q (mirrorData s1 n) s2))) ∧
  (∀ (l : Fin 16) (p : Packet) (s s1 : State) (t : BitVec 8) (m : MirRec),
     let q := linkSized { p with ptype := t }
     let g := groupOfLine (msgLine p)
     Comes s l.val q s1 → Tab.find s1.rig.cur.mirs g = some m → m.partnerNode = p.srcNode.toNat → (getMirror s1 g).state ≠ .promoted →
     (t = 0x33 → m.partnerGroup = p.code.toNat → (getMirror s1 g = {} ∨ (getMirror s1 g).partner = true ∧ (getMirror s1 g).node = p.srcNode.toNat ∧
         (getMirror s1 g).group = p.code.toNat) → ∃ s2, Gives (.pairOpen l p) s (mirrorAnswer l.val q .ok s2) ∧
       (getMirror s2 g).partner = true ∧ (getMirror s2 g).node = p.srcNode.toNat ∧ (getMirror s2 g).group = p.code.toNat ∧
       (getMirror s2 g).state = pairOf (bits p.aux.toNat 0 3)) ∧
     (t = 0x34 → (getMirror s1 g).partner = true → ∃ s2, Gives (.pairClose l p) s (mirrorAnswer l.val q .ok s2) ∧ getMirror s2 g = {}))

/-- At the home, MIRROR_ACCEPT releases the lines of its packet, but for those that another packet holds, and completes the writes that waited for it and for no
other packet; the partner copy that MIRROR_DATA brings for a repair rewrites the line, whose check then passes, and is counted (R147, R151, R157, R158). -/
def Obligations.HomeTakesMirrorAnswers : Prop :=
  ∀ (l : Fin 16) (p : Packet) (s s1 : State) (o : MirrorOp) (t : BitVec 8),
    let shared (n : Nat) : Bool := s1.integ.ops.any fun y => y.tag ≠ o.tag && y.lines.contains n
    Comes s l.val (linkSized { p with ptype := t }) s1 → findOp s1 p = some o →
    (t = 0x38 → p.code = 0 → o.kind = .write → ∃ s2, s2.mem.lines = s1.mem.lines ∧ (∀ n ∈ o.lines, shared n = false → lineHeld s2 n = false) ∧
      (∀ y ∈ s2.integ.ops, y.tag ≠ o.tag) ∧
      Settles (.mirrorAccept l p) s (eachS o.reqs (fun r u =>
        if u.integ.ops.any fun y => y.kind = .write && y.reqs.contains r then u else mergeDone o.status r u) s2)) ∧
    (∀ n, t = 0x39 → o.kind = .repair → o.lines = [n] → shared n = false → o.reqs = [] → o.again = none → p.code = 0 →
      bodyCheck p = lineCheck (checkAddr s1 n) (p.data.headD 0) → blockCompressed s1 n = false → s.upsets = [] →
      ∃ s2 e, Settles (.mirrorData l p) s (postLine n 2 .okRetried (logEntry e s2)) ∧ e.outcome = 2 ∧ e.found = o.found ∧ (getLine s2 n).data = p.data.headD 0 ∧ (getLine s2 n).seq = bodySeq p ∧
        (getLine s2 n).poison = false ∧ s2.integ.repaired = satInc 32 s1.integ.repaired ∧ lineHeld s2 n = false)

/-! ### Links, translation and sites (03, 12, 13) -/

/-- Training passes DETECT, EQUALISE, LOCK and EXCHANGE in turn; with the lock the device sends its own fields of EXCHANGE; EXCHANGE with a lane that
passed and another node makes the link ACTIVE on the chosen lanes, with what the peer sent; a phase past its limit is a failed attempt, the third of
which takes the link DOWN; a DOWN link trains again from DETECT (R374 to R376). That a skew past the receiver's limit fails the attempt is the model's
reading (log 54). The lanes a link takes: the lowest-numbered aligned group, all of whose lanes pass, of the largest width of 8, 4, 2 and 1 for which
one passes; none where no lane passes (R375). FAB_TRAIN with MGMT_PRIV starts a full training of the named links that exist, and no other writer may
(R403, R406). -/
def Obligations.LinkTraining : Prop :=
  (∀ (l : Fin 16) (x : Exchange) (s : State),
     let y := getLink s l.val
     (y.st = .training → y.phase = .detect → ∃ u, Gives (.linkTrainingPhaseDone l x) s u ∧ (getLink u l.val).phase = .equalise ∧ (getLink u l.val).phaseAt = s.now) ∧
     (y.st = .training → y.phase = .equalise → ∃ u, Gives (.linkTrainingPhaseDone l x) s u ∧ (getLink u l.val).phase = .lock ∧ (getLink u l.val).phaseAt = s.now) ∧
     (y.st = .training → y.phase = .lock → x.skew ≤ skewLimit → ∃ u e, Gives (.linkTrainingPhaseDone l x) s u ∧ (getLink u l.val).phase = .exchange ∧
       (getLink u l.val).phaseAt = s.now ∧ u.outbox = s.outbox ++ [.exchange l.val e] ∧ e.node.toNat = thisNode s % 2 ^ 16 ∧ e.port.toNat = l.val / 2 ∧
       e.device = true ∧ e.compatA = s.power.compatA ∧ e.credits = ingressSizes s l.val ∧ e.lanes.toNat = x.lanes.toNat &&& trainLanes s l.val) ∧
     (y.st = .training → y.fast = false → y.phase = .lock → skewLimit < x.skew → y.attempts < 2 → ∃ u, Gives (.linkTrainingPhaseDone l x) s u ∧
       (getLink u l.val).phase = .detect ∧ (getLink u l.val).attempts = y.attempts + 1) ∧
     (y.st = .training → y.fast = false → y.phase = .exchange → x.lanes.toNat &&& linkLanes s l.val ≠ 0 → ¬ (x.device = true ∧ x.node.toNat = thisNode s) →
       ∃ u, Settles (.linkTrainingPhaseDone l x) s u ∧ (getLink u l.val).st = .active ∧
         (getLink u l.val).active = BitVec.ofNat 8 (chooseLanes (x.lanes.toNat &&& linkLanes s l.val)) ∧
         (getLink u l.val).peerNode = x.node.toNat ∧ (getLink u l.val).peerKind = (if x.device then 1 else 2) ∧
         (getLink u l.val).peerPort = x.port.toNat ∧ (getLink u l.val).peerStepping = x.stepping.toNat ∧ (getLink u l.val).peerCompatA = x.compatA ∧
         (getLink u l.val).sizes = x.credits) ∧
     (y.st = .training → y.fast = false → y.phase = .exchange → x.lanes.toNat &&& linkLanes s l.val = 0 → y.attempts < 2 → ∃ u, Settles (.linkTrainingPhaseDone l x) s u ∧
       (getLink u l.val).st = .training ∧ (getLink u l.val).phase = .detect ∧ (getLink u l.val).attempts = y.attempts + 1) ∧
     (y.st = .training → y.fast = false → y.phaseAt + phaseLimit y.phase ≤ s.now → y.attempts < 2 → ∃ u, Settles (.trainingPhaseTimeout l) s u ∧
       (getLink u l.val).st = .training ∧ (getLink u l.val).phase = .detect ∧ (getLink u l.val).attempts = y.attempts + 1) ∧
     (y.st = .training → y.fast = false → y.phaseAt + phaseLimit y.phase ≤ s.now → 2 ≤ y.attempts → ∃ u, Settles (.trainingPhaseTimeout l) s u ∧
       (getLink u l.val).st = .down ∧ (getLink u l.val).downAt = s.now) ∧
     (y.st = .down → y.downAt + 50000000 ≤ s.now → ∃ u, Gives (.linkDownRetry l) s u ∧ (getLink u l.val).st = .training ∧
       (getLink u l.val).phase = .detect ∧ (getLink u l.val).attempts = 0)) ∧
  (∀ lanes : Nat, lanes < 256 →
     let group (w i : Nat) : Nat := (2 ^ w - 1) <<< (w * i)
     let passes (w i : Nat) : Prop := w ∈ [1, 2, 4, 8] ∧ i < 8 / w ∧ group w i &&& lanes = group w i
     (lanes = 0 → chooseLanes lanes = 0) ∧
     (lanes ≠ 0 → ∃ w i, passes w i ∧ chooseLanes lanes = group w i ∧ (∀ v j, passes v j → v ≤ w) ∧ (∀ j, passes w j → i ≤ j))) ∧
  (∀ (w : Writer) (pt : Fin 8) (v : Word) (s : State), writerLive s w = true →
     (writerPriv s w = true → ∃ u, Settles (.fabTrain w pt v) s u ∧ ∀ l, (l = 2 * pt.val ∨ l = 2 * pt.val + 1) → v.toNat.testBit (l % 2) = true →
       linkExists s l = true → (getLink u l).st = .training ∧ (getLink u l).phase = .detect) ∧
     (writerPriv s w = false → Settles (.fabTrain w pt v) s (accessViolation w (writerNo s w) (0x140018 + 0x1000 * pt.val) v.toNat s)))

/-- A flit that cannot be decoded is counted and NAKed; one in order advances the sequence expected; no ACK_SEQ in time replays the retry buffer from
its oldest flit (R373, R377). Degradation: after 8 replays of one flit, or more than 16 refused flits in 1 ms, the link retrains on the lanes that
pass, and a lane that lost its lock is left out; the link is ACTIVE again on the chosen lanes. A fast retrain that fails, in which no lane passes or
the skew is past the receiver's limit, is begun again from LOCK, and the third takes the link DOWN (R378). That a skew past the limit fails it is the
model's reading (log 54). -/
def Obligations.FlitsReplayAndDegrade : Prop :=
  (∀ (l : Fin 16) (lanes : List (List Byte)) (s : State) (n : Nat),
     let x := getLink s l.val
     let d := List.zipWith scramble x.lfsr (correctLanes x lanes)
     let f := readFlit (unstripe (linkWidth s l.val) (d.map Prod.fst))
     (x.st = .active → lanes.length = linkWidth s l.val → f = (none, n) → ∃ u, Gives (.linkFlit l lanes) s u ∧
       (getLink u l.val).uncorrectable = satInc 16 x.uncorrectable ∧ (getLink u l.val).rxNext = x.rxNext ∧ (getLink u l.val).discarding = true) ∧
     (∀ g, x.st = .active → lanes.length = linkWidth s l.val → f = (some g, n) → bits (leAt g 0 4) 20 12 = x.rxNext →
       ∃ u, Gives (.linkFlit l lanes) s u ∧ (getLink u l.val).corrected = satAdd 24 x.corrected n ∧
         (getLink u l.val).rxNext = (x.rxNext + 1) % 4096 ∧ (getLink u l.val).rxAck = x.rxNext ∧ (getLink u l.val).discarding = false) ∧
     (x.st = .active → x.unacked ≠ [] → x.ackAt + 1000 ≤ s.now → ∃ u, Gives (.linkAckTimeout l) s u ∧
       (∃ fl, u.outbox = s.outbox ++ fl ∧ fl.length = (x.unacked.take retryFlits).length ∧
         ∀ i e, (x.unacked.take retryFlits)[i]? = some e → ∃ b, fl[i]? = some (Out.flit l.val e.1 x.rxAck (x.nakOwed && decide (i = 0)) b)) ∧
       (getLink u l.val).replays = satInc 16 x.replays ∧ (getLink u l.val).unacked = x.unacked)) ∧
  (∀ (l : Fin 16) (lane : Fin 8) (x : Exchange) (s : State),
     let y := getLink s l.val
     (∀ pass, pass = x.lanes.toNat &&& y.usable.toNat → pass ≠ 0 → x.skew ≤ skewLimit → ¬ (x.device = true ∧ x.node.toNat = thisNode s) → y.st = .active →
       ((∃ n ∈ y.tries, 8 ≤ n) ∨ 16 < (y.badTimes.filter fun t => s.now < t + 500000).length) →
       ∃ u, Settles (.linkFastRetrain l x) s u ∧ (getLink u l.val).st = .active ∧ (getLink u l.val).active = BitVec.ofNat 8 (chooseLanes pass) ∧
         ∀ n ∈ (getLink u l.val).tries, n = 0) ∧
     ((x.lanes.toNat &&& y.usable.toNat = 0 ∨ skewLimit < x.skew) → y.st = .training → y.fast = true →
       (y.fastTries < 2 → ∃ u, Settles (.linkFastRetrain l x) s u ∧ (getLink u l.val).st = .training ∧ (getLink u l.val).fast = true ∧
         (getLink u l.val).phase = .lock ∧ (getLink u l.val).fastTries = y.fastTries + 1) ∧
       (2 ≤ y.fastTries → ∃ u, Settles (.linkFastRetrain l x) s u ∧ (getLink u l.val).st = .down ∧ (getLink u l.val).downAt = s.now)) ∧
     (∀ pass, pass = setBit x.lanes.toNat lane.val false &&& y.usable.toNat → pass ≠ 0 → x.skew ≤ skewLimit →
       ¬ (x.device = true ∧ x.node.toNat = thisNode s) → y.st = .active → y.active.getLsbD lane.val = true →
       ∃ u, Settles (.laneLockLost l lane x) s u ∧ (getLink u l.val).st = .active ∧ (getLink u l.val).active = BitVec.ofNat 8 (chooseLanes pass)))

/-- The fabric's timers: a request without response ends with TARGET_DEAD and is counted on its link, a far atomic without reply leaves again with RESEND and at
last ends with ATOMIC_UNKNOWN, a silent partner breaks its pair, expired replay entries and held tags are forgotten (R159, R230, R232, R399, R401). -/
def Obligations.FabricTimers : Prop :=
  ∀ (tag : BitVec 20) (node : BitVec 16) (s : State) (o : Outst) (m : MirrorOp),
    (outstByTag s tag.toNat = some o → o.lastAt + fabricTimeout s ≤ s.now → o.pkt.ptype ≠ 0x08 →
      ∃ u, Settles (.fabricTimeout tag) s u ∧ (∀ y ∈ u.fab.outst, y.tag ≠ o.tag) ∧
        (getLink u o.link).timedOut = satInc 8 (getLink s o.link).timedOut) ∧
    (∀ l, outstByTag s tag.toNat = some o → o.pkt.ptype = 0x08 → o.grantId = none → o.restart = false → o.resends < 3 →
      o.firstAt + (o.resends + 1) * retention s / 4 ≤ s.now →
      outLink s o.epoch o.part o.pkt = some l →
      ∃ u, Gives (.atomicResendTimer tag) s u ∧ ∃ y ∈ u.fab.outst, y.tag = o.tag ∧ y.resends = o.resends + 1 ∧ y.pkt = pktFlag o.pkt 2 true) ∧
    (outstByTag s tag.toNat = some o → o.pkt.ptype = 0x08 → o.grantId = none → o.restart = false → o.firstAt + retention s ≤ s.now →
      Settles (.atomicRetentionExpiry tag) s (endWith o { status := .atomicUnknown } false s)) ∧
    ((s.integ.ops.find? fun o => o.tag = tag.toNat) = some m → m.sent = true → m.sentAt + fabricTimeout s ≤ s.now → m.kind ≠ .open → m.kind ≠ .inspect →
      (getMirror s m.group).partner = false → ((getMirror s m.group).state = .inStep ∨ (getMirror s m.group).state = .resyncing) →
      ∃ u, Settles (.mirrorTimeout tag) s u ∧ (getMirror u m.group).state = .broken) ∧
    (∃ u, Settles (.replayEntryExpiry node tag) s u ∧
      (∀ e, e ∈ u.order.replay ↔ e ∈ s.order.replay ∧ ¬ (e.node = node.toNat ∧ e.tag = tag.toNat ∧ replayLive s s.now e = false))) ∧
    (∃ u, Gives (.tagReuseHoldExpiry tag) s u ∧ (∀ h, h ∈ u.fab.tagHolds ↔ h ∈ s.fab.tagHolds ∧ ¬ (h.tag = tag.toNat ∧ h.until_ ≤ s.now)))

/-- A page server's messages: a valid reply installs its entry and ends its miss, no reply in time ends the waiting commands with TIMEOUT, an invalidate
leaves no entry it names in a Booth of the partition, and is acknowledged once the accesses through those entries have ended (R97 to R99). -/
def Obligations.PageServers : Prop :=
  ∀ (k : Fin 4) (b : Fin 40) (slot : Fin 16) (id : BitVec 8) (p : Packet) (s : State) (m : Miss) (i : Inval),
    let e := leAt p.body 8 16
    let virt := bits e 93 23 <<< 29
    let glob := bits e 29 29 <<< 29
    (∀ s2, (getSite s k.val).st = .active → siteMessageOk (sized { p with ptype := 0x72 }) = true →
      (s.xlat.misses.find? fun m => m.booth = leAt p.body 1 1 && m.slot = leAt p.body 2 1 &&
        m.site = k.val) = some m →
      m.reissue = false → replyMalformed p.body = false → leAt p.body 3 1 = 0 → e % 2 = 1 → virt % pageBytes (bits e 5 1) = 0 →
      glob % pageBytes (bits e 5 1) = 0 → pageCovers virt (bits e 5 1) m.va = true → missRuns s m = true →
      install m.booth m.epoch m.part virt glob (bits e 5 1) (e.testBit 1) (e.testBit 2) (oweSite k.val 0x72 (sized { p with ptype := 0x72 }).len.toNat s) = some s2 →
      Settles (.xlatReply k p) s (dropMiss m s2)) ∧
    ((s.xlat.misses.find? fun m => m.booth = b.val && m.slot = slot.val) = some m → m.sentAt + fabricTimeout s ≤ s.now →
      Settles (.xlatMissTimeout b slot) s (failMiss m .timeout s)) ∧
    ((getSite s k.val).st = .active → siteMessageOk (sized { p with ptype := 0x72 }) = true →
      pageServer s.rig.cur (leAt p.body 1 1) = some k.val → invalMalformed p.body = false →
      ∃ u, Gives (.xlatInvalidate k p) s u ∧
        (∀ x r, x < 40 → Tab.find s.rig.cur.booths x = some r → r.part = leAt p.body 1 1 → ∀ t ∈ tlbOf u x,
          leAt p.body 3 1 ≠ 1 ∧ spanMeets t.virt (pageBytes t.size) (leAt p.body 8 8) (pageBytes (leAt p.body 4 1)) = false) ∧
        ∃ j ∈ u.xlat.invals, j.site = k.val ∧ j.id = leAt p.body 2 1) ∧
    ((s.xlat.invals.find? fun i => i.site = k.val && i.id = id.toNat) = some i → i.waits.all (accessEnded s) = true →
      Gives (.xlatAcknowledge k id) s (toSite k.val
        { ptype := 0x72, len := 4, body := [0x43, BitVec.ofNat 8 i.part, BitVec.ofNat 8 i.id] ++ leBytes 29 0 }
        { s with xlat := { s.xlat with invals := s.xlat.invals.erase i } }))

/-- The waits of a site die of a running partition that is awake, with nothing before them in the site's ingress, where the die can take the answer: a
fence with nothing before it is answered at once; a counter wait whose counter has reached its target is answered and consumes as it asks, another is
kept (R219, R220, R222 to R224). The limits of waiting commands: a COUNTER_WAIT past its limit subtracts nothing and faults with TIMEOUT; a run whose
step has not fallen due in time goes on knowing it, to its end with TIMEOUT once its steps in flight are complete; a batch whose window has passed
closes; a site's wait is answered TIMEOUT (R221, R331, R354). -/
def Obligations.WaitsAndLimits : Prop :=
  (∀ (k : Fin 4) (p : Packet) (s : State) (part : Nat), (getSite s k.val).st = .active → sitePart s.rig.cur k.val = some part →
     (getPart s part).st = .running → sleeping s part = false → s.ucie.fences = [] → (getSite s k.val).held = [] → p.flags = 0 → p.counter = 0 → p.aux = 0 →
     let formed (t : BitVec 8) : Prop := localForm (sized { p with ptype := t }) = true
     let n := leAt p.body 0 2
     let v : Word := BitVec.ofNat 64 (leAt p.body 8 8)
     let eats := (leAt p.body 2 1).testBit 0
     let takes (a : Packet) : Prop := SiteTakes s k.val { a with len := 2 }
     (formed 0x70 → p.code.toNat ≤ 1 → s.fab.outst = [] → siteTags s k.val = [] → takes (siteStatus p.tag.toNat p.addr .ok) → ∃ u, Settles (.siteFence k p) s u ∧
       .site k.val { siteStatus p.tag.toNat p.addr .ok with len := 2 } ∈ u.outbox) ∧
     (formed 0x71 → p.code = 0 → n < 2048 → leAt p.body 2 1 ≤ 1 → zeroAt p.body 3 5 = true → zeroAt p.body 20 12 = true →
       ctrOwner (mapsAt s s.rig.epoch) n = some part →
       (v ≤ getCtr s n → s.order.waits = [] → takes (siteStatus p.tag.toNat 0 .ok) → ∃ u, Settles (.siteCounterWait k p) s u ∧
         .site k.val { siteStatus p.tag.toNat 0 .ok with len := 2 } ∈ u.outbox ∧ getCtr u n = (if eats then getCtr s n - v else getCtr s n)) ∧
       (getCtr s n < v → ∃ u, Settles (.siteCounterWait k p) s u ∧ ∃ w ∈ u.order.waits, w.qp = none ∧ w.site = k.val ∧ w.tag = p.tag.toNat ∧
         w.counter = n ∧ w.target = v))) ∧
  (∀ (r : CmdRef) (k : Fin 4) (tag : BitVec 16) (b : Fin 40) (s : State) (w : CtrWait) (d : Due),
     ((s.order.waits.find? fun w => w.qp = some (r.qp.val, r.count.toNat)) = some w → limitPast s w.time w.limit = true →
       Settles (.counterWaitTimeout (.cmd r)) s (settleCtr (faultCmd r.qp.val r.count.toNat .timeout noAddr
         { s with order := { s.order with waits := s.order.waits.erase w } }))) ∧
     ((s.order.waits.find? fun w => w.qp.isNone && w.site = k.val && w.tag = tag.toNat) = some w → limitPast s w.time w.limit = true →
       SiteTakes s k.val { siteStatus tag.toNat 0 .timeout with len := 2 } → ∃ u, Settles (.counterWaitTimeout (.site k tag)) s u ∧
         .site k.val { siteStatus tag.toNat 0 .timeout with len := 2 } ∈ u.outbox) ∧
     ((s.order.due.find? fun d => d.qp = r.qp.val && d.count = r.count.toNat) = some d → d.met = false → limitPast s d.since d.limit = true →
       Settles (.prefetchStepTimeout r) s (advance r.qp.val r.count.toNat { s with order := { s.order with
         due := s.order.due.map fun y => if y = d then { y with expired := true } else y } })) ∧
     ((getBooth s b.val).batch ≠ [] → (getBooth s b.val).window ≤ 4 * (s.now - (getBooth s b.val).batchAt) →
       Settles (.batchWindowExpiry b) s (forgetBatches b.val (closeBatch b.val s))))

/-- A site's link: training ends ACTIVE within the SITE record, or DOWN where no module trains, and counts; replays lower the rate, errors and resets
take it DOWN and count, a notice precedes a reset by 2,500 METER cycles, a DOWN site trains again, and windows over the power limit count, each once
(R412, R413, R414, R420, R422, R423, R425). The control registers of a site, written by its partition or with MGMT_PRIV: a reset is announced, a
training starts, the counts clear; another writer's write is refused and recorded (R426, R428, R431). -/
def Obligations.SiteLinksAndRegisters : Prop :=
  (∀ (k : Fin 4) (s : State) (r : SiteRec) (modules rate repaired t m : Nat) (avg : BitVec 16),
     let x := getSite s k.val
     let down (c : Instr) : Prop := ∃ u, Settles c s u ∧ (getSite u k.val).st = .down ∧ (getSite u k.val).modules = 0 ∧
       (getSite u k.val).downs = satInc 8 x.downs ∧ (getSite u k.val).downAt = s.now
     (x.st = .training → siteRec s k.val = some r → ([4, 2, 1].find? fun n => n ≤ modules && n ≤ r.modules) = some m →
       ∃ u, Gives (.siteTrainingDone k modules rate repaired) s u ∧ (getSite u k.val).st = .active ∧ (getSite u k.val).modules = m ∧
         (getSite u k.val).rate = min 3 (max rate r.maxRate) ∧ (getSite u k.val).retrains = satInc 16 x.retrains) ∧
     (x.st = .training → siteRec s k.val = some r → ([4, 2, 1].find? fun n => n ≤ modules && n ≤ r.modules) = none →
       down (.siteTrainingDone k modules rate repaired)) ∧
     (x.st = .active → x.rate < 3 → ∃ u, Gives (.siteRateDrop k) s u ∧ (getSite u k.val).rate = x.rate + 1 ∧
       (getSite u k.val).rateDrops = satInc 8 x.rateDrops) ∧
     ((x.st = .active ∨ x.st = .training) → down (.siteLinkError k) ∧ down (.siteSelfReset k)) ∧
     ((x.st = .active ∨ x.st = .training) → x.notice = some t → t + 2500 ≤ s.now → down (.siteResetAfterNotice k)) ∧
     (x.sideband = true → x.notice = none → ∃ u, Gives (.resetRequest k) s u ∧ (getSite u k.val).notice = some s.now ∧
       u.outbox = s.outbox ++ [.sideband k.val "RESET_NOTICE"]) ∧
     (x.st = .down → x.downAt + 50000000 ≤ s.now → ∃ u, Settles (.siteDownRetry k) s u ∧ (getSite u k.val).st = .training) ∧
     (siteRec s k.val = some r → r.enable = true → x.rail = true → x.windows < s.now / 500000 → r.powerLimit < avg.toNat → ∃ u, Settles (.sitePowerWindow k avg) s u ∧
       (getSite u k.val).average = avg.toNat ∧ (getSite u k.val).overs = satInc 8 x.overs ∧
       (4 ≤ satInc 8 x.overs → (getSite u k.val).notice.isSome = true)) ∧
     (siteRec s k.val = some r → r.enable = true → x.rail = true → x.windows < s.now / 500000 → avg.toNat ≤ r.powerLimit → ∃ u, Gives (.sitePowerWindow k avg) s u ∧
       (getSite u k.val).average = avg.toNat ∧ (getSite u k.val).overs = 0) ∧
     (s.now / 500000 ≤ x.windows → Gives (.sitePowerWindow k avg) s s)) ∧
  (∀ (k : Fin 4) (w : Writer) (v : Word) (s : State) (r : SiteRec), writerLive s w = true →
     (writerMay s w (siteBound s k.val) = true → siteRec s k.val = some r → r.enable = true → (getSite s k.val).st ≠ .empty →
       (∃ u, Settles (.ucieResetSite w k) s u ∧ (getSite u k.val).notice.isSome = true) ∧
       (∃ u, Settles (.ucieTrain w k) s u ∧ (getSite u k.val).st = .training ∧ (getSite u k.val).notice = (getSite s k.val).notice)) ∧
     (writerMay s w (siteBound s k.val) = true → v.toNat.testBit 0 = true → ∃ u, Settles (.ucieCountClear w k v) s u ∧
       (getSite u k.val).replays = 0 ∧ (getSite u k.val).retrains = 0 ∧ (getSite u k.val).rateDrops = 0 ∧ (getSite u k.val).downs = 0) ∧
     (writerMay s w (siteBound s k.val) = false →
       Settles (.ucieCountClear w k v) s (accessViolation w (writerNo s w) (ucieAddr k.val 0x20) v.toNat s)))

/-! ### Booth commands and queue pairs (07 to 11) -/

/-- A running command whose program comes to its end, over accesses that have all ended, completes: it leaves flight, and its queue pair is handed its
completion with the program's RESULT and DETAIL, its tag, opcode and slot, and OK, or OK_RETRIED where a retry settled an access. This holds for each
of the 23 commands of a Booth (R243, R255, R261, Table 8.2). A running command whose program waits stays in flight and its queue pair keeps its state.
-/
def Obligations.BoothCommandsComplete : Prop :=
  (∀ (op : Nat) (ci : CmdRef → Instr) (r : CmdRef) (s : State) (c d : Cmd) (p : Prog Done) (v : Done) (x : Ctx),
     (op, ci) ∈ boothCommands → Running s r c op → program op = some p → runProgram p c.qp c.count s = (.ok v, x) →
     findCmd x.s c.qp c.count = some d → Ended c d →
     (getQp x.s c.qp).cqLost = false →
     ∃ u, Settles (ci r) s u ∧ findCmd u c.qp c.count = none ∧
       ∃ e : Compl, owedCompls (getQp u c.qp) = owedCompls (getQp x.s c.qp) ++ [e] ∧
         e.result = v.result ∧ e.detail = v.detail ∧ e.count = c.count ∧ e.opcode = op ∧
         e.tag = BitVec.ofNat 32 (leAt (cmdBytes c) 4 4) ∧ e.effect = d.effect ∧
         e.sqIndex = c.count % 2 ^ (getQp x.s c.qp).sqLog ∧
         e.status = (if v.status = .ok && d.retried then .okRetried else v.status)) ∧
  (∀ (op : Nat) (ci : CmdRef → Instr) (r : CmdRef) (s : State) (c : Cmd) (p : Prog Done) (x : Ctx),
     (op, ci) ∈ boothCommands → Running s r c op → program op = some p → runProgram p c.qp c.count s = (.error .wait, x) →
     Settles (ci r) s (forgetBatches c.booth x.s))

/-- A running command whose program meets a fault issues nothing more; its queue pair enters ERROR, and QP_ERROR holds the fault unless it already holds one;
with no access outstanding the command completes with its own status and, as RESULT, the address that failed (R261). -/
def Obligations.BoothCommandsFault : Prop :=
  ∀ (op : Nat) (ci : CmdRef → Instr) (r : CmdRef) (s : State) (c d : Cmd) (p : Prog Done) (st : Status) (va : Word) (x : Ctx),
    (op, ci) ∈ boothCommands → Running s r c op → program op = some p → runProgram p c.qp c.count s = (.error (.fault st va), x) →
    findCmd x.s c.qp c.count = some d → Ended c d →
    (getQp x.s c.qp).cqLost = false →
    ∃ u, Settles (ci r) s u ∧ findCmd u c.qp c.count = none ∧ (getQp u c.qp).st = .error ∧
      ((getQp x.s c.qp).cause = 0 → (getQp u c.qp).cause = 1 ∧ (getQp u c.qp).faultStatus = statusCode st ∧
        (getQp u c.qp).faultOpcode = op ∧ (getQp u c.qp).faultIdx = c.count % 2 ^ (getQp x.s c.qp).sqLog) ∧
      ((getQp x.s c.qp).cause ≠ 0 → (getQp u c.qp).cause = (getQp x.s c.qp).cause) ∧
      ∃ e ∈ owedCompls (getQp u c.qp), e.status = st ∧ e.result = va.setWidth 128 ∧ e.count = c.count ∧ e.opcode = op

/-- FILL of one line: a line of this node behind a page entry that permits the write, idle and not mirrored, for which nothing waits and no Ticket is
lacking, takes PATTERN in each of its eight words, and the command completes with 1 line filled (R336, R342, R343). The line a FILL writes holds
PATTERN in each of its eight words (Table 11.1). REDUCE's integer sums wrap, its minima and maxima are those of the signed operands, and a NaN operand
makes a floating-point result the canonical NaN (R347, Table 11.3). COMPARE's first difference is the lowest byte in which two lines differ, and there
is none exactly where they are equal (R344). -/
def Obligations.BoothArithmetic : Prop :=
  (∀ (r : CmdRef) (s : State) (c : Cmd) (e : TlbEnt) (l g : Nat) (v : Nat),
     let q : Req := { origin := .booth c.qp c.count 1, pkt := { ptype := 0x04, addr := BitVec.ofNat 64 g, data := [patternLine v] }, part := c.part,
                      epoch := c.epoch, time := c.time, order := s.mem.stamp + 1 }
     let s' := lookUnder c.epoch (counted s)
     (reach s' .line q).place = .line → (directPath s' q = true → dirDirect s' false l = true) →
     Running s r c 0x01 → c.access = [] → c.fetched = [] → c.retried = false → c.done = none → c.owes = [] → s.upsets = [] →
     (∀ y ∈ s.mem.parked, l ∉ reqLines y.req) → (∀ t ∈ s.home.txns, t.req.origin ≠ .booth c.qp c.count 1) →
     leAt (cmdBytes c) 0x18 8 = 64 → leAt (cmdBytes c) 0x20 8 = v → zeroAt (cmdBytes c) 0x28 24 = true →
     vaAlign (leAt (cmdBytes c) 0x10 8) 64 = true → tlbFind s c.booth c.epoch (leAt (cmdBytes c) 0x10 8) = some e →
     e.write = true → g = e.global + (leAt (cmdBytes c) 0x10 8 - e.virt) → g < 2 ^ 58 → nodeOf g = thisNode s → l = lineNo (offOf g) →
     IdleLine s' l → mirrored s l = false → (getQp s c.qp).cqLost = false → c.qp < 4096 → c.count < 2 ^ 32 →
     ∃ u, Settles (.fill r) s u ∧ (getLine u l).data = patternLine v ∧ (getLine u l).seq = (getLine s l).seq + 1 ∧ (getLine u l).poison = false ∧ findCmd u c.qp c.count = none ∧
       ∃ d : Compl, owedCompls (getQp u c.qp) = owedCompls (getQp s c.qp) ++ [d] ∧ d.status = .ok ∧ d.result = 1 ∧ d.effect = true) ∧
  (∀ v i : Nat, v < 2 ^ 64 → i < 8 → lineField (patternLine v) (8 * i) 8 = v) ∧
  (∀ (w : Nat) (x : Nat) (xs : List Nat), 0 < w → (∀ y ∈ x :: xs, y < 2 ^ w) →
     redInt w 0 (x :: xs) = (x :: xs).sum % 2 ^ w ∧
     (redInt w 1 (x :: xs) ∈ x :: xs ∧ ∀ y ∈ x :: xs, signedOf w (redInt w 1 (x :: xs)) ≤ signedOf w y) ∧
     (redInt w 2 (x :: xs) ∈ x :: xs ∧ ∀ y ∈ x :: xs, signedOf w y ≤ signedOf w (redInt w 2 (x :: xs))) ∧
     (∀ (f : Fmt) (op : Nat) (ys : List Nat), (∃ y ∈ ys, f.decode y = .nan) → redFloat f op ys = f.nanCode)) ∧
  (∀ a b : LineData,
     (firstDiff a b = none ↔ a = b) ∧
     (∀ i, firstDiff a b = some i → i < 64 ∧ lineField a i 1 ≠ lineField b i 1 ∧ ∀ j, j < i → lineField a j 1 = lineField b j 1))

/-- The queue pair's doorbells: in a partition that runs, a tail within the ring is accepted and its ringer recorded, one that is the tail already changes nothing,
and a completion head up to the tail is accepted; every other is refused and recorded with its writer's node (R246, R247, R433, R541). "A write with d_new = d_old changes nothing" keeps
LAST_RINGER as well (R246; log 19). -/
def Obligations.Doorbells : Prop :=
  ∀ (w : Writer) (q : Fin 4096) (v : Word) (s : State), QpWrites s w q.val →
    let x := getQp s q.val
    let t := BitVec.ofNat 32 v.toNat
    (qpLive s q.val = true → (x.st = .running ∨ x.st = .stopping ∨ x.st = .stopped) → (x.sqTail - x.sqHead).toNat ≤ (t - x.sqHead).toNat → (t - x.sqHead).toNat ≤ 2 ^ x.sqLog →
      ∃ u, Settles (.qpSqDoorbell w q v) s u ∧ getQp u q.val = { x with sqTail := t, ringer := if t = x.sqTail then x.ringer else ringerOf w } ∧ u.cmds = s.cmds ∧ u.outbox = s.outbox) ∧
    ((qpLive s q.val = false ∨ x.st = .reset ∨ x.st = .error ∨ (t - x.sqHead).toNat < (x.sqTail - x.sqHead).toNat ∨ 2 ^ x.sqLog < (t - x.sqHead).toNat) →
      Settles (.qpSqDoorbell w q v) s (doorbellRefused w q.val 0x18 t.toNat s)) ∧
    (qpLive s q.val = true → (t - x.cqHead).toNat ≤ (x.cqTail - x.cqHead).toNat →
      ∃ u, Settles (.qpCqDoorbell w q v) s u ∧ getQp u q.val = { x with cqHead := t } ∧ u.cmds = s.cmds ∧ u.outbox = s.outbox) ∧
    ((qpLive s q.val = false ∨ (x.cqTail - x.cqHead).toNat < (t - x.cqHead).toNat) →
      Settles (.qpCqDoorbell w q v) s (doorbellRefused w q.val 0x20 t.toNat s))

/-- The actions of QP_CONTROL by Table 8.7, each with its CONTROL_RESULT: what a queue pair becomes, and REFUSED_STATE, which changes nothing else, in
a state that does not take the action (R258 to R260). RESET clears the counts, LAST_RINGER and QP_ERROR and keeps the bases and CONFIG (R259). -/
def Obligations.QueuePairControl : Prop :=
  (∀ (w : Writer) (q : Fin 4096) (s : State), QpWrites s w q.val →
     let x := getQp s q.val
     let ends (c : Instr) (st : QpSt) (latch : Bool) (r : Nat) : Prop :=
       ∃ u, Settles c s u ∧ getQp u q.val = { x with st := st, latch := latch, ctl := r } ∧ u.cmds = s.cmds ∧ u.parts = s.parts
     (x.st = .reset → ringsOk s q.val = true → ends (.qpEnable w q) .running x.latch 0) ∧
     (x.st = .reset → ringsOk s q.val = false → ends (.qpEnable w q) .reset x.latch 6) ∧
     (x.st = .stopping → ends (.qpEnable w q) .stopping true 3) ∧
     (x.st = .stopped → ends (.qpEnable w q) .running x.latch 0) ∧
     ((x.st = .running ∨ x.st = .error) → ends (.qpEnable w q) x.st x.latch 5) ∧
     (x.st = .running → ends (.qpDisable w q) .stopping x.latch 0) ∧
     (x.st = .stopping → x.latch = true → ends (.qpDisable w q) .stopping false 4) ∧
     ((x.st = .reset ∨ x.st = .stopped ∨ x.st = .error ∨ (x.st = .stopping ∧ x.latch = false)) → ends (.qpDisable w q) x.st x.latch 5) ∧
     ((x.st = .running ∨ x.st = .stopping ∨ x.st = .stopped) → ∃ u, Settles (.qpAbort w q) s u ∧ (getQp u q.val).st = .error ∧
       (getQp u q.val).ctl = 0 ∧ (x.cause = 0 → (getQp u q.val).cause = 2)) ∧
     ((x.st = .reset ∨ x.st = .error) → ends (.qpAbort w q) x.st x.latch 5) ∧
     ((x.st = .stopped ∨ (x.st = .error ∧ qpQuiet s q.val = true)) → ∃ u, Settles (.qpReset w q) s u ∧
       getQp u q.val = { clearQp x with ctl := 0 } ∧ u.cmds = s.cmds) ∧
     (x.st = .error → qpQuiet s q.val = false → ends (.qpReset w q) .error x.latch 7) ∧
     ((x.st = .reset ∨ x.st = .running ∨ x.st = .stopping) → ends (.qpReset w q) x.st x.latch 5)) ∧
  (∀ x : Qp, let y := clearQp x
     y.st = .reset ∧ y.sqTail = 0 ∧ y.sqHead = 0 ∧ y.cqTail = 0 ∧ y.cqHead = 0 ∧ y.ringer = 0xFF ∧ y.cause = 0 ∧ y.faultIdx = 0 ∧
     y.faultStatus = 0 ∧ y.faultOpcode = 0 ∧ y.aborted = 0 ∧ y.sqBase = x.sqBase ∧ y.sqLog = x.sqLog ∧ y.cqBase = x.cqBase ∧ y.cqLog = x.cqLog ∧
     y.cqCntEn = x.cqCntEn ∧ y.cqCnt = x.cqCnt ∧ y.cqPair = x.cqPair ∧ y.maxInflight = x.maxInflight)

/-- The life of a submission: an entry notified enters flight, its fetch, alone or with others of its block, advances SQ_HEAD by one, a quiescent
STOPPING queue pair stops, or runs again where ENABLE was latched; a completion held for its pair is handed on after 64 BOOTH cycles; a completion
write that ended advances CQ_TAIL (R243 to R245, R252, R257, R260). COMMAND_ACCESS_COMPLETE lets its command advance: a stopped command whose accesses
have ended completes with its fault or as aborted (R261). -/
def Obligations.SubmissionsAndCompletions : Prop :=
  (∀ (q : Fin 4096) (s : State) (c : Cmd) (cs : List Compl) (h : Compl) (as : List Fetched) (st : Status) (m : List (List Compl)),
     let x := getQp s q.val
     (nextQp s (qpBooth s q.val) = some q.val → ∃ u, Gives (.qpNotify q) s u ∧ (getQp u q.val).notified = x.notified + 1 ∧
       ∃ d, u.cmds = s.cmds ++ [d] ∧ d.qp = q.val ∧ d.booth = qpBooth s q.val ∧ d.part = qpPart s q.val ∧ d.epoch = s.rig.epoch ∧ d.entry = none ∧
         d.begun = false ∧ d.access = []) ∧
     (∀ d, ((qpCmds s q.val).find? fun c => c.entry.isNone) = some c → findCmd s q.val c.count = some c → answersOf c 0 = as → as ≠ [] →
       let a := entryOf s c as
       statusGood a.status = true → c.aborted = false → c.fault = none →
       let s1 := nextHead c.booth (modCmd q.val c.count (fun c => { c with entry := some a.data, fetched := [] })
         (modQp q.val (fun x => { x with sqHead := x.sqHead + 1 }) (modCmd q.val c.count (fun c => { c with access := [] }) (shareEntries c as s))))
       findCmd s1 q.val c.count = some d → entryFormed d s1 = true →
       ∃ u, Settles (.sqEntryArrival q) s u ∧ (getQp u q.val).sqHead = x.sqHead + 1 ∧
         ∃ d ∈ u.cmds, d.qp = q.val ∧ d.count = c.count ∧ d.entry = some a.data) ∧
     (x.st = .stopping → qpQuiet s q.val = true → Gives (.qpQuiescent q) s
       (modQp q.val (fun x => { x with st := if x.latch then .running else .stopped, latch := false }) s)) ∧
     (x.held = some h → x.heldAt + 16 ≤ s.now → ∃ u, Gives (.cqPairHoldExpiry q) s u ∧ (getQp u q.val).held = none ∧
       owedCompls (getQp u q.val) = owedCompls x) ∧
     (x.writes = cs :: m → x.cqBusy = true → x.cqEnd = some st → statusGood st = true → ∃ u, Settles (.cqWriteDone q) s u ∧
       (getQp u q.val).cqTail = x.cqTail + BitVec.ofNat 32 cs.length ∧ (getQp u q.val).writes = m ∧
       (getQp u q.val).notified = x.notified - cs.length)) ∧
  (∀ (r : CmdRef) (s : State) (c : Cmd), findCmd s r.qp.val r.count.toNat = some c → c.access = [] → c.entry.isSome = true → c.aborted = true →
     c.fault = none → c.owes = [] → (getQp s c.qp).cqLost = false →
     ∃ u, Settles (.commandAccessComplete r) s u ∧ findCmd u c.qp c.count = none ∧
       (getQp u c.qp).aborted = satInc 8 (getQp s c.qp).aborted ∧
       ∃ e : Compl, owedCompls (getQp u c.qp) = owedCompls (getQp s c.qp) ++ [e] ∧ e.status = .qpAborted ∧ e.result = 0 ∧ e.effect = c.effect)

/-! ### Registers (00, 02 to 07, 09 to 16) -/

/-- A register of no row of its own: a field that may be locked takes a write only while its block is unlocked, and a locked write is recorded as a lock violation;
reserved space ignores a write; an access that is not naturally aligned is refused and recorded (R9 to R11, R50, R51). -/
def Obligations.RegisterWritesByAccessType : Prop :=
  ∀ (w : Writer) (v : Word) (a : BitVec 24) (s : State), writerLive s w = true →
    (locked s 5 = false → Settles (.registerWrite w 0x70000 v) s { s with home := { s.home with sharerSource := v.toNat.testBit 0 } }) ∧
    (locked s 5 = true → Settles (.registerWrite w 0x70000 v) s
      (post { recOf s 0x0002 1 (writerNo s w) (locOfWriter w) with
              addr := 0x70000, detail := v.toNat % 2 ^ 32, node := nodeOfWriter s w } s)) ∧
    (a.toNat % 8 = 0 → 0x240000 ≤ a.toNat → Settles (.registerWrite w a v) s s ∧ regValue s a.toNat = 0) ∧
    (a.toNat % 8 ≠ 0 →
      Settles (.registerWrite w a v) s (accessViolation w (writerNo s w) a.toNat v.toNat s))

/-- Register packets of a site or a fabric node of a running partition: a read the reader may make returns the register's value, another all ones and is recorded; a
write ends with the write's status on the fabric, and with OK for a site, to which a refused one returns nothing (R9, R249, R505). -/
def Obligations.RegisterPackets : Prop :=
  ∀ (k : Fin 4) (l : Fin 16) (p : Packet) (s s' : State) (r : Req),
    let a := p.addr.toNat
    let at_ (t : BitVec 8) : Packet := sized { p with ptype := t }
    let far := accessor (.link l) p
    (SiteAccesses s k.val (at_ 0x0A) r s' → regFormed a = true → mayRead s' (.site k) a = true →
      Settles (.regRd (.site k) p) s (finish r { status := .ok, old := (regValue s' a).setWidth 128 } s')) ∧
    (SiteAccesses s k.val (at_ 0x0A) r s' → regFormed a = true → mayRead s' (.site k) a = false →
      Settles (.regRd (.site k) p) s (finish r { status := .ok, old := (BitVec.allOnes 64).setWidth 128 }
        (accessViolation (.site k) (writerNo s' (.site k)) a 0 s'))) ∧
    (LinkAccesses s l.val (linkSized { p with ptype := 0x0A }) r s' → regFormed a = true → mayRead s' far a = true →
      Settles (.regRd (.link l) p) s (finish r { status := .ok, old := (regValue s' a).setWidth 128 } s')) ∧
    (SiteAccesses s k.val (at_ 0x0B) r s' → waitsFor s' a p.value.toNat = none →
      let x := writeBlock (.site k) a p.value.toNat s'
      (x.1 = .ok → Settles (.regWr (.site k) p) s (finish r { status := .ok } x.2)) ∧ (x.1 ≠ .ok → Settles (.regWr (.site k) p) s x.2)) ∧
    (LinkAccesses s l.val (linkSized { p with ptype := 0x0B }) r s' → waitsFor s' a p.value.toNat = none →
      Settles (.regWr (.link l) p) s (finish r { status := (writeBlock far a p.value.toNat s').1 } (writeBlock far a p.value.toNat s').2))

/-- XLAT_EPOCH_UPDATE by a writer with authority gives the REMOTE windows it names, those of the partition to one node or the one of an entry, their
new TARGET_EPOCH in every bank that holds them, the draining and the loading one with the current, and changes nothing else of the windows; where no
bank holds one, or the writer has no authority, nothing changes and the write is recorded (R85, R101). A page's attributes by a writer with authority:
TIER, HINT and PUBLISHABLE are written, ENCRYPT and MIRROR kept; a reserved TIER or HINT, a page under a move record, or a writer without authority
changes nothing and is recorded (R122, R138). -/
def Obligations.WindowAndPageRegisters : Prop :=
  (∀ (w : Writer) (v : Word) (s : State), writerLive s w = true →
     let banks (x : State) : List Maps := x.rig.cur :: ((x.rig.draining.map fun d => d.maps).toList ++ (x.rig.loaded.map fun l => l.maps).toList)
     let hit (i : Nat) (x : WinRec) : Prop := x.part = bits v.toNat 32 5 ∧ winKind x.entry = 2 ∧
       (if v.toNat.testBit 37 then nodeOf (winBase x.entry) = bits v.toNat 48 16 else i = bits v.toNat 0 13)
     (writerMay s w (bits v.toNat 32 5) = true → (∃ m ∈ banks s, ∃ e ∈ m.wins, hit e.1 e.2) →
       ∃ u, Settles (.xlatEpochUpdate w v) s u ∧ (banks u).length = (banks s).length ∧
         ∀ (j : Nat) (m n : Maps), (banks s)[j]? = some m → (banks u)[j]? = some n → n.wins.map Prod.fst = m.wins.map Prod.fst ∧
           ∀ i x, (i, x) ∈ m.wins → ∃ y, (i, y) ∈ n.wins ∧ y.part = x.part ∧ winKind y.entry = winKind x.entry ∧
             winBase y.entry = winBase x.entry ∧ winSize y.entry = winSize x.entry ∧ winPart y.entry = winPart x.entry ∧
             (hit i x → winEpoch y.entry = bits v.toNat 40 8) ∧ (¬ hit i x → y = x)) ∧
     ((writerMay s w (bits v.toNat 32 5) = false ∨ ∀ m ∈ banks s, ∀ e ∈ m.wins, ¬ hit e.1 e.2) →
       Settles (.xlatEpochUpdate w v) s (accessViolation w (writerNo s w) 0x20000 v.toNat s))) ∧
  (∀ (w : Writer) (k : Fin 20) (page : Fin 256) (v : Word) (s : State), writerLive s w = true →
     let n := 256 * k.val + page.val
     let may := match groupOwner s.rig.cur (n / 64) with
       | some p => writerMay s w p
       | none => writerPriv s w
     let old : PageAttr := Tab.get {} s.mem.attrs n
     (may = true → bits v.toNat 8 3 ≤ 5 → bits v.toNat 11 2 ≠ 3 → (s.mem.moves.any fun m => m.page ≤ n && n < m.page + m.pages) = false →
       ∃ u, Settles (.memPageAttr w k page v) s u ∧ Tab.get {} u.mem.attrs n =
           { old with publishable := v.toNat.testBit 13, hint := bits v.toNat 11 2, tier := bits v.toNat 8 3 } ∧
         (∀ i, i ≠ n → Tab.get {} u.mem.attrs i = Tab.get {} s.mem.attrs i) ∧ u.mem.lines = s.mem.lines ∧ u.mem.moves = s.mem.moves) ∧
     ((may = false ∨ 5 < bits v.toNat 8 3 ∨ bits v.toNat 11 2 = 3 ∨ (s.mem.moves.any fun m => m.page ≤ n && n < m.page + m.pages) = true) → Settles (.memPageAttr w k page v) s
       (accessViolation w (writerNo s w) (0x40800 + 0x1000 * k.val + 8 * page.val) v.toNat s)))

/-- The counter clears: bit 0 written 1 sets the block's counters to 0, at the stack, the INTEG block, the home, the ORDER block, a Booth and a port
(R137, R176, R204, R237, R302, R335, R409). -/
def Obligations.CountersClear : Prop :=
  ∀ (w : Writer) (k : Fin 20) (b : Fin 40) (pt : Fin 8) (v : Word) (s : State), writerLive s w = true → v.toNat.testBit 0 = true →
    (∃ u, Settles (.memCountClear w k v) s u ∧ (getStack u k.val).compressed = 0 ∧ (getStack u k.val).plain = 0 ∧ (getStack u k.val).merges = 0 ∧
      (getStack u k.val).coalesced = 0 ∧ (getStack u k.val).mergeRetries = 0 ∧ (getStack u k.val).mergeFaults = 0 ∧
      (getStack u k.val).reassigned = 0 ∧ (getStack u k.val).up = (getStack s k.val).up) ∧
    Settles (.integCountClear w v) s { s with integ := { s.integ with
      transient := 0, lasting := 0, repaired := 0, poisoned := 0, pathRetried := 0, pathFailed := 0 } } ∧
    Settles (.homeCountClear w v) s { s with home := { s.home with retries := 0, timeouts := 0, ownerLost := 0 } } ∧
    (writerPriv s w = true → Settles (.orderCountClear w v) s { s with order := { s.order with replayed := 0, unknown := 0, fullRetries := 0 } }) ∧
    (mayBooth s w b.val = true → ∃ u, Settles (.boothCountClear w b v) s u ∧ (getBooth u b.val).blocksRead = 0 ∧ (getBooth u b.val).blocksSkipped = 0 ∧
      (getBooth u b.val).rows = 0 ∧ (getBooth u b.val).saturated = 0 ∧ (getBooth u b.val).queries = (getBooth s b.val).queries) ∧
    (mayBooth s w b.val = true → ∃ u, Settles (.boothSearchCountClear w b v) s u ∧ (getBooth u b.val).queries = 0 ∧ (getBooth u b.val).short = 0 ∧
      (getBooth u b.val).refused = 0 ∧ (getBooth u b.val).scanned = 0 ∧ (getBooth u b.val).batches = 0 ∧ (getBooth u b.val).saved = 0 ∧
      (getBooth u b.val).rows = (getBooth s b.val).rows) ∧
    (writerPriv s w = true → ∃ u, Settles (.fabCountClear w pt v) s u ∧
      ∀ l, l = 2 * pt.val ∨ l = 2 * pt.val + 1 → getLink u l = clearLink (getLink s l))

/-- INTEG_POISON poisons its line with reason 5 and keeps its data, in the order of its line, and changes nothing in a channel that cannot be used or on a fenced
line. INTEG_INSPECT_CTRL starts a raw read of the home copy in the order of its line, which it holds until INSPECT_READ_DONE leaves its words in the registers;
it is answered with result 2 where the copy cannot be read or does not decode (R105, R111, R155, R177, R178, R451). What a copy that does not decode comes to is
the model's choice (log 58). -/
def Obligations.PoisonAndInspect : Prop :=
  ∀ (w : Writer) (v : Word) (raw : RawLine) (m : Word) (d : LineData) (s : State), writerLive s w = true →
    let l := bits v.toNat 6 36
    let turn (t : Nat) (b : List Byte) : Prop := LineOpen s (linePkt s t l b) l ∧ sleeperOf s [l] = none
    let ends (c : Instr) (result : Nat) (f : State → Prop) : Prop := ∃ u, Settles c s u ∧ u.integ.inspBusy = false ∧ u.integ.inspResult = result ∧
      u.mem.lines = s.mem.lines ∧ f u
    (mayLine s w l = true → l * 64 < storeEnd → turn 0x31 [1, 5] →
      (fenced s l = false → channelUp s l = true → keyMissing s l = false → ∃ u, Settles (.integPoison w v) s u ∧ (getLine u l).poison = true ∧
        (getLine u l).reason = 5 ∧ (getLine u l).data = (getLine s l).data ∧ (getLine u l).seq = (getLine s l).seq ∧ (getLine u l).dir = (getLine s l).dir ∧
        StoreSameBut [l] s u ∧ (mirrored s l = false → u.integ.ops = s.integ.ops) ∧
        (mirrored s l = true → ∃ o, u.integ.ops = s.integ.ops ++ [o] ∧ o.kind = .metadata ∧ o.lines = [l])) ∧
      ((fenced s l = true ∨ channelUp s l = false) → ∃ u, Settles (.integPoison w v) s u ∧ u.mem.lines = s.mem.lines ∧ u.integ = s.integ ∧
        u.outbox = s.outbox)) ∧
    ((mayLine s w l = false ∨ storeEnd ≤ l * 64) → Settles (.integPoison w v) s (accessViolation w (writerNo s w) 0x60028 v.toNat s)) ∧
    (mayLine s w l = true → s.integ.inspBusy = false → v.toNat.testBit 0 = false →
      (l * 64 < storeEnd → turn 0x32 [] → channelUp s l = true → keyMissing s l = false → ∃ u, Settles (.integInspectCtrl w v) s u ∧
        u.integ.inspBusy = true ∧ u.integ.inspResult = 0 ∧ u.integ.inspLine = l ∧ u.integ.inspPartner = false ∧
        Tab.find u.mem.holds l = some .inspect ∧ u.mem.lines = s.mem.lines) ∧
      (l * 64 < storeEnd → turn 0x32 [] → (channelUp s l = false ∨ keyMissing s l = true) → ends (.integInspectCtrl w v) 2 (fun _ => True)) ∧
      (storeEnd ≤ l * 64 → Tab.find s.mem.holds l ≠ some .inspect → ends (.integInspectCtrl w v) 2 (fun u => u.outbox = s.outbox))) ∧
    (s.integ.inspBusy = true → s.integ.inspPartner = false → Tab.find s.mem.holds s.integ.inspLine = some .inspect →
      let n := s.integ.inspLine
      (viewLine s n (getLine s n) = some d → ends (.inspectReadDone none) 1 (fun u => u.integ.inspMeta = metaWord s n (getLine s n) ∧
        u.integ.inspData = d ∧ lineHeld u n = false)) ∧
      (viewLine s n (getLine s n) = none → ends (.inspectReadDone none) 2 (fun u => lineHeld u n = false)) ∧
      (rawLine s n raw = some (m, d) → ends (.inspectReadDone (some raw)) 1 (fun u => u.integ.inspMeta = m ∧ u.integ.inspData = d ∧ lineHeld u n = false)) ∧
      (rawLine s n raw = none → ends (.inspectReadDone (some raw)) 2 (fun u => lineHeld u n = false)))

/-- The arrival counters' registers: a write sets a counter, ORDER_CONSUME subtracts what the counter holds and more is refused, each then completing
the waits it satisfies; ORDER_CTRL sets the buffer enables and empties the buffers it turns off (R213, R217, R237). A wait satisfied by a counter
consumes exactly its target, and a counter with no wait on it keeps its value (R219). -/
def Obligations.OrderRegistersAndCounters : Prop :=
  (∀ (w : Writer) (n : Fin 2048) (v : Word) (s : State), writerLive s w = true →
     (mayCtr s w n.val = true → waitsFor s (0x80000 + 8 * n.val) v.toNat = none →
       Settles (.orderCountWrite w n v) s (settleCtr (setCtr n.val v s))) ∧
     (mayCtr s w (bits v.toNat 40 11) = true → waitsFor s 0x84008 v.toNat = none → bits v.toNat 0 40 ≤ (getCtr s (bits v.toNat 40 11)).toNat →
       Settles (.orderConsume w v) s (settleCtr (setCtr (bits v.toNat 40 11)
         (BitVec.ofNat 64 ((getCtr s (bits v.toNat 40 11)).toNat - bits v.toNat 0 40)) s))) ∧
     (mayCtr s w (bits v.toNat 40 11) = true → waitsFor s 0x84008 v.toNat = none → (getCtr s (bits v.toNat 40 11)).toNat < bits v.toNat 0 40 →
       Settles (.orderConsume w v) s (accessViolation w (writerNo s w) 0x84008 v.toNat s)) ∧
     (writerPriv s w = true → locked s 6 = false → ∃ u, Settles (.orderCtrl w v) s u ∧ u.order.boothBuf = v.toNat.testBit 4 ∧
       u.order.siteBuf = BitVec.ofNat 4 v.toNat ∧ (v.toNat.testBit 4 = false → ∀ b, b < 40 → Tab.get [] u.order.boothBufs b = []) ∧
       (∀ k, k < 4 → v.toNat.testBit k = false → Tab.get [] u.order.siteBufs k = []))) ∧
  (∀ (s : State) (n : Nat),
     ((∀ w ∈ s.order.waits, w.counter ≠ n) → getCtr (settleCtr s) n = getCtr s n) ∧
     (∀ w, s.order.waits = [w] → w.counter = n → w.target ≤ getCtr s n → w.limit = 0 →
       getCtr (settleCtr s) n = (if w.consume then getCtr s n - w.target else getCtr s n) ∧ (settleCtr s).order.waits = []) ∧
     (∀ w, s.order.waits = [w] → w.counter = n → getCtr s n < w.target → getCtr (settleCtr s) n = getCtr s n ∧ (settleCtr s).order.waits = [w]))

/-! ### What the stacks return, the home's timers, partitions (04 to 06, 14) -/

/-- A read that the stack answers, judged under the maps of its request's epoch: data that passes its check goes to the requester with OK, or with POISONED
where the metadata says so; a mismatch is read once more, with every line that was read with it held, and nothing leaves the device; data that passes on the retry is transient, counted, and
returned with OK_RETRIED, in a compressed block each of its four lines; a mismatch that persists is settled as lasting with the check found first (R113, R147,
R152), and the block that a mismatch leaves is stored plain with the values its lines read as (R150). CHANNEL_TRAINING_DONE records the channels that can be
used (R105). -/
def Obligations.StackReadsReturn : Prop :=
  ∀ (line : BitVec 36) (raw : RawLine) (k : Fin 20) (up : BitVec 32) (s : State) (x : StackRead) (r : Req),
    let l := line.toNat
    let v := lookUnder r.epoch s
    (x.req = some r → (s.mem.reads.find? fun x => x.line = l && x.found.isNone) = some x → isNarrow r.pkt = false → ∀ w d,
      rawLine v l raw = some (w, d) → rawOk v l (w, d) = true →
      ∃ u, u.mem.lines = s.mem.lines ∧ lineHeld u l = false ∧ Ends (.carouselReadReturn line raw) s
        (finish r (if wordPoison w then { status := .poisoned, data := [allOnes] } else { status := .ok, data := [hotView u l d] }) u)) ∧
    (x.req = some r → (s.mem.reads.find? fun x => x.line = l && x.found.isNone) = some x → (∀ y, rawLine v l raw = some y → rawOk v l y = false) →
      ∃ u, Ends (.carouselReadReturn line raw) s u ∧ Tab.find u.mem.holds l = some .retry ∧ (∀ n ∈ readTogether v l, lineHeld u n = true) ∧
        { x with found := some (checksRead v l raw) } ∈ u.mem.reads ∧ u.mem.lines = s.mem.lines ∧ u.outbox = s.outbox) ∧
    (x.req = some r → (s.mem.reads.find? fun x => x.line = l && x.found.isSome) = some x → isNarrow r.pkt = false → rawCompressed v l raw = false →
      rawOk v l (rawPlain v l raw) = true → wordPoison (rawPlain v l raw).1 = false →
      ∃ u, u.mem.lines = s.mem.lines ∧ u.integ.transient = satInc 32 s.integ.transient ∧ Ends (.lineRetryReadReturn line raw) s
        (finish r { status := .okRetried, data := [hotView u l (rawPlain v l raw).2] } u)) ∧
    (x.req = some r → (s.mem.reads.find? fun x => x.line = l && x.found.isSome) = some x → isNarrow r.pkt = false → rawCompressed v l raw = true →
      ∀ ws ds, rawBlock v l raw = some (ws, ds) →
      (∀ n ∈ blockLines l, rawOk v n (ws.getD (n % 4) 0, ds.getD (n % 4) 0) = true ∧ wordPoison (ws.getD (n % 4) 0) = false) →
      ∃ u, u.mem.lines = s.mem.lines ∧ u.integ.transient = satAdd 32 s.integ.transient 4 ∧ Ends (.lineRetryReadReturn line raw) s
        (finish r { status := .okRetried, data := [hotView u l (ds.getD (l % 4) 0)] } u)) ∧
    (x.req = some r → (s.mem.reads.find? fun x => x.line = l && x.found.isSome) = some x → rawCompressed v l raw = false →
      rawOk v l (rawPlain v l raw) = false →
      ∃ u, u.mem.lines = s.mem.lines ∧
        Ends (.lineRetryReadReturn line raw) s (lastingRead x (settleLasting l (foundFirst x l) u))) ∧
    (s.power.phase = .clocked → ∃ u, Gives (.channelTrainingDone k up) s u ∧ (getStack u k.val).trained = true ∧ (getStack u k.val).up = up ∧
      ∀ j, j ≠ k.val → getStack u j = getStack s j) ∧
    blockCompressed (plainBlock l s) l = false ∧ (∀ n, (getLine (plainBlock l s) n).seq = (getLine s n).seq ∧
      viewData (plainBlock l s) n (getLine (plainBlock l s) n) = viewData s n (getLine s n))

/-- The home's timers: a transaction silent for HOME_TIMEOUT makes its silent agents lost and is counted; a lost agent's sweep ends; a reservation not taken
passes to the next waiter for 1,024 HOME cycles, or leaves the line free; a hot line is flushed 256 HOME cycles after its first store, on a fenced line without storing anything, and, once
flushed, leaves its table after 2,000 without one (R195, R198, R200, R202, R451). -/
def Obligations.HomeTimers : Prop :=
  ∀ (slice : Fin 8) (idx : Fin 1024) (a : Fin 32) (line : BitVec 36) (s : State) (t : Txn) (x : Reserve) (h : Hot) (first : Nat),
    ((s.home.txns.find? fun t => t.slice = slice.val && t.idx = idx.val) = some t → silentAgents s t ≠ [] → (ringOf s).isSome = true →
      ∃ u, Settles (.homeTimeout slice idx) s u ∧ u.home.timeouts = satInc 16 s.home.timeouts ∧
        ∀ z ∈ silentAgents s t, agentLostBit u z = true) ∧
    ((s.home.sweeps.any fun w => w.agent = a.val) = true → ∃ u, Settles (.agentSweepDone a) s u ∧ (∀ w ∈ u.home.sweeps, w.agent ≠ a.val)) ∧
    ((s.home.reserves.find? fun x => x.line = line.toNat) = some x → x.until_ ≤ s.now → ∃ u, Settles (.waiterReservationExpiry line) s u ∧
      u.home.reserves = (s.home.reserves.filter fun y => y ≠ x) ++ (match x.rest with
        | [] => []
        | w :: ws => [{ line := x.line, waiter := w, until_ := s.now + 256, rest := ws }])) ∧
    (findHot s line.toNat = some h → h.firstAt = some first → first + 64 ≤ s.now → h.mask = BitVec.allOnes 64 → h.owed = [] →
      lineHeld s line.toNat = false → fenced s line.toNat = false → channelUp s line.toNat = true → keyMissing (lookUnder h.epoch s) line.toNat = false →
      (blockCompressed s line.toNat && (blockLines line.toNat).any (badCheck (lookUnder h.epoch s))) = false → s.upsets = [] →
      ∃ u, Settles (.hotLineFlush line) s u ∧ (getLine u line.toNat).data = h.data ∧
        findHot u line.toNat = some { h with mask := 0, data := 0, firstAt := none, retried := false }) ∧
    (findHot s line.toNat = some h → h.firstAt = some first → first + 64 ≤ s.now → h.mask ≠ 0 → h.owed = [] → lineHeld s line.toNat = false →
      fenced s line.toNat = true → ∃ u, Settles (.hotLineFlush line) s u ∧ u.mem.lines = s.mem.lines ∧
        findHot u line.toNat = some { h with mask := 0, data := 0, firstAt := none, retried := false }) ∧
    (findHot s line.toNat = some h → (∀ y ∈ s.home.hot, y.line = line.toNat → y = h) → h.lastAt + 500 ≤ s.now → h.mask = 0 →
      ∃ u, Settles (.hotLineClose line) s u ∧ findHot u line.toNat = none ∧ u.mem.lines = s.mem.lines)

/-- The actions on a partition by Table 14.2, each with its CONTROL_RESULT, by a writer with authority: START of a STOPPED partition begins STARTING,
in STOPPING it is latched; STOP of a RUNNING one begins STOPPING, and cancels a latched START; CLEAR_FAULT of a quiescent FAULTED one brings STOPPED
and clears its cause; in every other state the action is refused and only its result changes (R435, R436). What ends a partition's changes: 10,000
METER cycles after its admission a STARTING partition runs; a STOPPING one that is quiescent stops, or starts again where START was latched, and one
that has been retired is UNASSIGNED, what it held free in every bank; a fault takes STARTING, RUNNING and STOPPING to FAULTED with its cause (R434,
R435, R437, R444). That the 10,000 cycles are counted from the admission is the model's reading (log 33). -/
def Obligations.PartitionStates : Prop :=
  (∀ (w : Writer) (p : Fin 32) (s : State), writerLive s w = true → writerMay s w p.val = true →
     let x := getPart s p.val
     let only (c : Instr) (latch : Bool) (r : Nat) : Prop :=
       ∃ u, Settles c s u ∧ getPart u p.val = { x with latch := latch, ctl := r } ∧ u.barker = s.barker ∧ u.qps = s.qps
     let goes (c : Instr) (st : PartSt) : Prop := ∃ u, Settles c s u ∧ (getPart u p.val).st = st ∧ (getPart u p.val).ctl = 0 ∧
       (getPart u p.val).latch = false
     (x.releasing = false → x.st = .stopped → goes (.partStart w p) .starting) ∧
     (x.releasing = false → x.st = .stopping → only (.partStart w p) true 3) ∧
     ((x.releasing = true ∨ (x.st ≠ .stopped ∧ x.st ≠ .stopping)) → only (.partStart w p) x.latch 5) ∧
     (sleeping s p.val = false → x.st = .running → goes (.partStop w p) .stopping) ∧
     (sleeping s p.val = false → x.st = .stopping → x.latch = true → only (.partStop w p) false 4) ∧
     (sleeping s p.val = false → ((x.st ≠ .running ∧ x.st ≠ .stopping) ∨ (x.st = .stopping ∧ x.latch = false)) → only (.partStop w p) x.latch 5) ∧
     (x.st = .faulted → partQuiet s p.val = true → ∃ u, Settles (.partClearFault w p) s u ∧ (getPart u p.val).st = .stopped ∧
       (getPart u p.val).cause = 0 ∧ (getPart u p.val).ctl = 0) ∧
     (x.st = .faulted → partQuiet s p.val = false → only (.partClearFault w p) x.latch 7) ∧
     (x.st ≠ .faulted → only (.partClearFault w p) x.latch 5)) ∧
  (∀ (p : Fin 32) (cause : PartCause) (place : BitVec 8) (s : State) (t : Nat),
     let x := getPart s p.val
     (x.st = .starting → x.startAt = some t → t ≤ s.now → ∃ u, Settles (.partStartingDone p) s u ∧ (getPart u p.val).st = .running ∧
       (getPart u p.val).startAt = none ∧ (∀ b ∈ partBooths s p.val, tlbOf u b = [])) ∧
     (partQuiet s p.val = true → (x.releasing && x.retired) = false → x.st = .stopping → x.latch = false →
       ∃ u, Settles (.partQuiescent p) s u ∧ (getPart u p.val).st = .stopped) ∧
     (partQuiet s p.val = true → (x.releasing && x.retired) = false → x.st = .stopping → x.latch = true →
       ∃ u, Settles (.partQuiescent p) s u ∧ (getPart u p.val).st = .starting ∧ (getPart u p.val).latch = false) ∧
     (partQuiet s p.val = true → x.releasing = true → x.retired = true → ∃ u, Settles (.partQuiescent p) s u ∧
       (getPart u p.val).st = .unassigned ∧ Tab.find u.rig.cur.parts p.val = none ∧ (∀ e ∈ u.rig.cur.wins, e.2.part ≠ p.val) ∧
       (∀ d, u.rig.draining = some d → ∀ e ∈ d.maps.wins, e.2.part ≠ p.val) ∧
       (∀ l, u.rig.loaded = some l → l.part ≠ p.val → ∀ e ∈ l.maps.wins, e.2.part ≠ p.val)) ∧
     ((x.st = .starting ∨ x.st = .running ∨ x.st = .stopping) → ∃ u, Settles (.partitionFault p cause place) s u ∧
       (getPart u p.val).st = .faulted ∧ (getPart u p.val).cause = (match cause with
         | .boothState => 1
         | .keySlot => 2
         | .bankState => 3)))

/-! ### The Barker, power and clocks (14, 15) -/

/-- Posting an event: a block with no Barker Ticket only counts it; a record for the device enters the management queue with its sequence number, or
is dropped and counted where the queue is full; BARKER_TICKET_RETURN gives a Ticket back and then posts one SUPPRESSED record with the count that was
not posted (R447 to R449, R456). A record for a partition's event ring takes the partition's next sequence number, and its turn behind a record that
is being written. With the ring enabled, not full and still the partition's, and a line at TAIL that the write meets nothing at, the record stands in
that slot and TAIL advances after it; where the ring is disabled or full the record is dropped and counted; where the ring is no longer the
partition's, or the line takes no write, ENABLE is cleared and the record goes to the management queue (R441, R449, R455). -/
def Obligations.RecordsAreDelivered : Prop :=
  (∀ (r : Rec) (block : BitVec 8) (s : State),
     let spent (u : State) (loc : Nat) : Nat := Tab.get 0 u.barker.spent loc
     let owed (u : State) (loc : Nat) : Nat := Tab.get 0 u.barker.owed loc
     let b := s.barker
     let loc := block.toNat
     (14 ≤ spent s r.location → ∃ u, post r s = { s with barker := u } ∧ u.queue = b.queue ∧ u.tail = b.tail ∧ u.seq = b.seq ∧
       u.suppressed = satInc 16 b.suppressed ∧ Tab.get 0 u.owed r.location = owed s r.location + 1) ∧
     (spent s r.location < 14 → 32 ≤ r.part → r.cls ≠ 6 → r.event ≠ 0x11 → spent (post r s) r.location = spent s r.location + 1 ∧
       (post r s).barker.seq = nextSeq b.seq ∧ (post r s).parts = s.parts ∧
       ((b.tail - b.head).toNat < 256 → (post r s).barker.tail = b.tail + 1 ∧
         Tab.find (post r s).barker.queue (b.tail.toNat % 256) = some { r with seq := b.seq }) ∧
       (256 ≤ (b.tail - b.head).toNat → (post r s).barker.queue = b.queue ∧ (post r s).barker.tail = b.tail ∧
         (post r s).barker.dropped = satInc 16 b.dropped)) ∧
     (spent s loc ≠ 0 → owed s loc = 0 → ∃ u, Settles (.barkerTicketReturn block) s { s with barker := u } ∧
       Tab.get 0 u.spent loc = spent s loc - 1 ∧ u.queue = b.queue) ∧
     (spent s loc ≠ 0 → owed s loc ≠ 0 → ∃ u, Settles (.barkerTicketReturn block) s
         (post { recOf s 0x0018 0 0xFF loc with detail := owed s loc } { s with barker := u }) ∧
       Tab.get 0 u.spent loc = spent s loc - 1 ∧ Tab.get 0 u.owed loc = 0 ∧ u.queue = b.queue)) ∧
  (∀ (p : Nat) (r : Rec) (s : State),
     let x := getPart s p
     let l := ringSlot x
     let t := toRing p r s
     let rec' : Rec := { r with seq := x.evSeq }
     let room := x.evEn = true ∧ (x.evTail - x.evHead).toNat < 2 ^ x.evLog
     (x.evBusy = true → (getPart t p).evQueue = x.evQueue ++ [rec'] ∧ (getPart t p).evSeq = nextSeq x.evSeq ∧ t.mem = s.mem ∧ t.barker = s.barker) ∧
     (x.evBusy = false → x.evQueue = [] → room → ringReady s p x.evCntEn x.evCnt = true → meetsNothing s (ringReq s p rec') l = true →
       lineBar s l = .ok → mirrored s l = false →
       ∃ u, t = ringDone p true (if x.evCntEn then arrive x.evCnt 64 u else u) ∧ (getLine u l).data = recLine rec' ∧ StoreSameBut [l] s u ∧
         u.barker = s.barker ∧ (getPart u p).evTail = x.evTail ∧
         (x.evCntEn = false → (getPart t p).evTail = x.evTail + 1 ∧ (getPart t p).evSeq = nextSeq x.evSeq ∧ (getPart t p).evQueue = [] ∧
           (getPart t p).dropped = x.dropped ∧ (getPart t p).evEn = true)) ∧
     (x.evBusy = false → x.evQueue = [] → ¬ room → t.mem = s.mem ∧ (getPart t p).evTail = x.evTail ∧ (getPart t p).evQueue = [] ∧
       (getPart t p).evSeq = nextSeq x.evSeq ∧ (getPart t p).dropped = satInc 32 x.dropped) ∧
     (x.evBusy = false → x.evQueue = [] → room →
       (ringReady s p x.evCntEn x.evCnt = false ∨ (meetsNothing s (ringReq s p rec') l = true ∧ lineBar s l ≠ .ok)) →
       (getPart t p).evEn = false ∧ (getPart t p).evTail = x.evTail ∧ (getPart t p).evQueue = [] ∧ t.mem = s.mem ∧ t.barker = (toMgmt rec' s).barker))

/-- The event registers: PART_EVENT_BASE takes writes only while ENABLE is 0; PART_EVENT_CFG clears ENABLE, and sets it only where the ring's conditions hold; PART_EVENT_PTR and BARKER_MGMT_PTR move HEAD up to
TAIL and no further; a writer without authority changes nothing (R455, R456). A HEAD of a ring past its TAIL is refused with the event of a refused doorbell. -/
def Obligations.EventRegisters : Prop :=
  ∀ (w : Writer) (p : Fin 32) (v : Word) (s : State), writerLive s w = true →
    let x := getPart s p.val
    let b := s.barker
    let h : BitVec 32 := BitVec.ofNat 32 v.toNat
    let g : BitVec 16 := BitVec.ofNat 16 v.toNat
    (writerMay s w p.val = true → sleeping s p.val = false →
      (v.toNat.testBit 0 = false ∨ ringReady s p.val (v.toNat.testBit 31) (bits v.toNat 16 11) = true → ∃ u, Settles (.partEventCfg w p v) s u ∧
        getPart u p.val = { x with evCntEn := v.toNat.testBit 31, evCnt := bits v.toNat 16 11, evEn := v.toNat.testBit 0 } ∧ u.mem = s.mem) ∧
      (v.toNat.testBit 0 = true → ringReady s p.val (v.toNat.testBit 31) (bits v.toNat 16 11) = false →
        Settles (.partEventCfg w p v) s (accessViolation w 0xFF (0x180018 + 0x400 * p.val) v.toNat s)) ∧
      (x.evEn = false → ∃ u, Settles (.registerWrite w (BitVec.ofNat 24 (0x180010 + 0x400 * p.val)) v) s u ∧
        getPart u p.val = { x with evBase := bits v.toNat 12 46 <<< 12, evLog := bits v.toNat 0 4 } ∧ u.mem = s.mem) ∧
      (x.evEn = true → Settles (.registerWrite w (BitVec.ofNat 24 (0x180010 + 0x400 * p.val)) v) s s) ∧
      ((h - x.evHead).toNat ≤ (x.evTail - x.evHead).toNat → ∃ u, Settles (.partEventPtr w p v) s u ∧ getPart u p.val = { x with evHead := h } ∧
        u.mem = s.mem ∧ u.barker = s.barker) ∧
      ((x.evTail - x.evHead).toNat < (h - x.evHead).toNat → Settles (.partEventPtr w p v) s
        (post { recOf s 0x0003 1 (existing s p.val) (locOfWriter w) with
          addr := BitVec.ofNat 64 (0x180020 + 0x400 * p.val), detail := h.toNat, node := nodeOfWriter s w } s))) ∧
    (writerMay s w p.val = false → Settles (.partEventPtr w p v) s (accessViolation w (writerNo s w) (0x180020 + 0x400 * p.val) v.toNat s)) ∧
    (writerPriv s w = true → (g - b.head).toNat ≤ (b.tail - b.head).toNat → ∃ u, Settles (.barkerMgmtPtr w v) s u ∧
      u.barker = { b with head := g } ∧ u.mem = s.mem) ∧
    ((writerPriv s w = false ∨ (b.tail - b.head).toNat < (g - b.head).toNat) → Settles (.barkerMgmtPtr w v) s s)

/-- The actions of PWRCLK, each with its CONTROL_RESULT: CURTAIN of a running, quiescent partition whose POWER record allows it begins its entry; WAKE ends CURTAIN or
is latched in the entry; DARK begins where its conditions hold; every other case changes only the result (R463, R465, R467, R485, Tables 15.11, 15.17, 15.18). -/
def Obligations.PowerActions : Prop :=
  ∀ (w : Writer) (p : Fin 32) (s : State), writerLive s w = true →
    let x := getPart s p.val
    let only (c : Instr) (r : Nat) : Prop := ∃ u, Settles c s u ∧ getPart u p.val = { x with pctl := r } ∧ u.power = s.power
    (writerMay s w p.val = true →
      ((powRec s p.val).sleep = false → only (.pwrclkCurtain w p) 6) ∧
      ((powRec s p.val).sleep = true → (x.st ≠ .running ∨ x.pstate ≠ .on) → only (.pwrclkCurtain w p) 5) ∧
      ((powRec s p.val).sleep = true → x.st = .running → x.pstate = .on → partQuiet s p.val = false → only (.pwrclkCurtain w p) 7) ∧
      ((powRec s p.val).sleep = true → x.st = .running → x.pstate = .on → partQuiet s p.val = true → ∃ u, Settles (.pwrclkCurtain w p) s u ∧
        getPart u p.val = { x with pctl := 0, pstate := .entering, curtainAt := s.now, wakeAt := none, exitAt := none }) ∧
      (x.pstate = .on → only (.pwrclkWake w p) 5) ∧
      (x.pstate = .curtain → ∃ u, Settles (.pwrclkWake w p) s u ∧ (getPart u p.val).pstate = .waking ∧ (getPart u p.val).pctl = 0) ∧
      (x.pstate = .entering → x.wakeAt = none → ∃ u, Settles (.pwrclkWake w p) s u ∧ getPart u p.val = { x with wakeAt := some s.now, pctl := 0 })) ∧
    (writerMay s w p.val = false → Settles (.pwrclkWake w p) s (accessViolation w (writerNo s w) (0x1C0100 + 8 * p.val) 2 s)) ∧
    (writerPriv s w = true →
      ((powRec s 255).sleep = false → Settles (.pwrclkDark w) s { s with power := { s.power with darkResult := 6 } }) ∧
      ((powRec s 255).sleep = true → darkMay s = false → Settles (.pwrclkDark w) s { s with power := { s.power with darkResult := 7 } }) ∧
      ((powRec s 255).sleep = true → darkMay s = true → Settles (.pwrclkDark w) s
        { s with power := { s.power with darkResult := 0, dark := .entering, darkAt := s.now, darkWake := none } })) ∧
    (writerPriv s w = false → Settles (.pwrclkDark w) s (accessViolation w (writerNo s w) 0x1C0008 1 s))

/-- The ends of entries and exits: CURTAIN after 5 µs, its allowance released; CURTAIN_EXIT 20 µs after admission, whereupon what waited for the partition is taken; DARK after
50 µs with no ampere admitted, what the partitions not in CURTAIN held marked as released, the PLL stopped, the sites' training lost and the directory cache empty; DARK_EXIT logs the wake; a meter window that ended is reported with its index, or the last of several that
ended with nothing charged to it (R463, R466, R468, R470, R472, R473, R510). -/
def Obligations.EntriesAndExits : Prop :=
  ∀ (p n : Fin 32) (s : State) (t src at_ : Nat) (rep : Bool),
    let x := getPart s p.val
    let b := getBank s n.val
    let w := max 1 b.window
    let i := (b.from_ - b.start) / w
    (x.pstate = .entering → x.curtainAt + 2500 ≤ s.now → x.wakeAt = none → (∀ h ∈ s.home.hot, groupOfLine h.line ∉ partGroups s p.val) →
      ∃ u, Settles (.curtainEntryDone p) s u ∧ (getPart u p.val).pstate = .curtain ∧
        u.power.admitted = s.power.admitted - allowance s.rig.cur p.val ∧ u.mem.lines = s.mem.lines) ∧
    (x.pstate = .waking → x.exitAt = some t → t ≤ s.now →
      ∃ u, Settles (.curtainExit p) s (takeWaits p.val u) ∧ (getPart u p.val).pstate = .on ∧ (getPart u p.val).exitAt = none ∧
        (getPart u p.val).st = x.st ∧ (∀ k, k < 8 → ∀ y ∈ (getPort u k).bounce, y.wake ≠ some p.val) ∧
        ((∀ y ∈ s.power.regWaits, y.part ≠ p.val) → (∀ y ∈ s.power.segWaits, y.part ≠ p.val) → (∀ y ∈ s.mem.parked, y.why ≠ .curtain p.val) →
          takeWaits p.val u = u)) ∧
    (s.power.dark = .entering → s.power.darkAt + 25000 ≤ s.now → s.power.darkWake = none → ∃ u, Settles .darkEntryDone s u ∧ u.power.dark = .dark ∧
      u.power.admitted = 0 ∧ u.power.pllLocked = false ∧ u.power.keepAlive = true ∧ u.home.cache = [] ∧
      (∀ k, k < 4 → (getSite s k).st = .down → (getSite u k).st = .reset) ∧
      ∀ q ∈ assigned s, (getPart s q).pstate = .on → (getPart u q).released = allowance s.rig.cur q) ∧
    (s.power.dark = .resuming → s.power.darkWake = some (src, at_, rep) → ∃ u, Settles .darkExit s u ∧ u.power.dark = .no ∧
      u.power.wakeSource = src ∧ u.power.wakeTime = at_ ∧ u.power.wakeReplayed = rep ∧ u.power.darkWake = none) ∧
    (b.isOpen = true → banksRun s.power = true → b.start + (i + 1) * w ≤ s.now → ∃ u, Gives (.meterWindowEnd n) s u ∧
      (s.now < b.start + (i + 2) * w → (getBank u n.val).lastIndex = BitVec.ofNat 64 i ∧ (getBank u n.val).last = b.cur ∧
        (getBank u n.val).lastEnd = b.start + (i + 1) * w) ∧
      (b.start + (i + 2) * w ≤ s.now → (getBank u n.val).lastIndex = BitVec.ofNat 64 ((s.now - b.start) / w - 1) ∧ (getBank u n.val).last = [] ∧
        (getBank u n.val).lastEnd = b.start + (s.now - b.start) / w * w) ∧
      (getBank u n.val).cur = [] ∧ ∀ j, j ≠ n.val → getBank u j = getBank s j)

/-- The Turnstile admits at most 40 A in a slot, and a device wake that is wholly admitted releases PWRGD_OUT; WAKE_N, the I3C bus and an enabled lane wake the device
from DARK and log their source; WAKE_N wakes the partitions whose POWER records ask for it, and nothing before PWRGD_OUT or while EXTEST holds its land; idle Booths and gated domains without work for their IDLE_CYCLES stop (what a
domain works on is the model's reading, log 61; R461, R462, R469, R474 to R477, R525). -/
def Obligations.WakesAndAdmission : Prop :=
  ∀ (win : Bool) (pt : Fin 8) (b : Fin 40) (d : Fin 18) (s : State) (w : Wake) (p : Nat) (g : GateRec),
    let asleep (c : Instr) (src : Nat) : Prop := ∃ u, (Settles c s u ∨ Gives c s u) ∧ u.power.dark = .leaving ∧ u.power.darkWake = some (src, s.now, false)
    (s.power.phase = .clocked → s.power.slotAt < s.now / 1000 → s.power.queue = [w] → s.power.keepAlive = false → optVal s 6 0 ≠ 1 → s.power.dark = .no →
      (w.target = none → w.remaining ≤ 40 → ∃ u, Settles .turnstileSlot s u ∧ u.power.queue = [] ∧ u.power.admitted = s.power.admitted + w.remaining ∧
        u.power.pwrgd = true ∧ u.power.budget = 40 - w.remaining) ∧
      (40 < w.remaining → ∃ u, Settles .turnstileSlot s u ∧ u.power.queue = [{ w with remaining := w.remaining - 40 }] ∧
        u.power.admitted = s.power.admitted + 40 ∧ u.power.budget = 0) ∧
      (w.target = some p → (getPart s p).pstate = .waking → w.remaining ≤ 40 → ∃ u, Settles .turnstileSlot s u ∧ u.power.queue = [] ∧
        (getPart u p).exitAt = some (ceilDiv s.now 10 * 10 + 10000))) ∧
    ((s.power.pwrgd = false ∨ landsTaken s = true) → Idles (.wakeN true win) s ∧ Idles (.wakeN false win) s) ∧
    (landsTaken s = true → Idles .i3cWake s) ∧
    (landsTaken s = false → s.power.pwrgd = true → (powRec s 255).wakeN = true → s.power.dark = .dark →
      asleep (.wakeN false win) 1 ∧ (s.power.compatA = false → win = false → asleep (.wakeN true win) 2)) ∧
    (landsTaken s = false → s.power.pwrgd = true → p ∈ s.parts.map Prod.fst → (powRec s p).wakeN = true → (getPart s p).pstate = .curtain →
      ∃ u, Settles (.wakeN false win) s u ∧ (getPart u p).pstate = .waking) ∧
    (s.power.pwrgd = true → s.power.compatA = true → Idles (.wakeN true win) s) ∧
    (s.parts.any (fun e => e.2.pstate = .entering && decide (e.2.curtainAt + 2380 ≤ s.now)) = true → Idles (.wakeN true true) s) ∧
    (landsTaken s = false → s.power.i3cWake = true → s.power.dark = .dark → asleep .i3cWake 3) ∧
    (s.power.portDetect.getLsbD pt.val = true → linkExists s (2 * pt.val) = true → s.power.dark = .dark → asleep (.laneSignalDetect pt) (0x10 + pt.val)) ∧
    (boothOwner s.rig.cur b.val = some p → (powRec s p).idle ≠ 0 → (∀ c ∈ s.cmds, c.booth ≠ b.val) → boothLoad s b.val = 0 → (getPart s p).st = .running →
      (getBooth s b.val).lastWork + (powRec s p).idle ≤ s.now → ∃ u, Gives (.boothIntervalEntry b) s u ∧ getBooth u b.val = { getBooth s b.val with gated := true }) ∧
    (Tab.find s.rig.cur.gates (d.val + 1) = some g → g.gate = true → domainWork s d.val = false → s.power.worked + ownCycles d.val g.idle ≤ s.now → ∃ u, Gives (.clockGateIdle d) s u ∧ u.power.running.getLsbD d.val = false ∧
      ∀ e, e ≠ d.val → u.power.running.getLsbD e = s.power.running.getLsbD e)

/-! ### Resets and rigging (02, 15, 18) -/

/-- Power and resets: loss of power or of REFCLK leaves the device OFF with the store and the rigging gone, the trip latch kept until P48V falls; a cold power-up starts
from reset unless the trip latch is set; a warm reset keeps the lines of the store, the flash, the fuses, HALTS and PWRCLK_BROWNOUT; RESET_N latches the straps; the PLL's lock starts METER
from 0 and asks for the base allowance (R459, R471, R483, R529 to R534, R538, Table 15.9). The test port: TRST_N low gives BYPASS, five cycles with TMS high too, an
instruction scanned in takes effect in Update-IR, and EXTEST takes the straps, RESET_N and the warm reset's land from their functions (R525; the codes of the
instructions are the model's, log 48). -/
def Obligations.Resets : Prop :=
  ∀ (compat : Bool) (pop : BitVec 2) (scan : List TapPins) (s : State),
    let x := s.power
    let y := x.test
    let v := eachS scan tapCycle s
    let tms (bs : List Bool) (tdi : Bool) : List TapPins := bs.map fun b => { trst := true, tms := b, tdi := tdi, lands := 0 }
    let gone (u : State) (store : Mem) : Prop := u.mem = store ∧ u.rig = State.reset.rig ∧ u.parts = [] ∧ u.qps = [] ∧ u.home = State.reset.home ∧
      u.mgmt.keys = [] ∧ u.mgmt.fwFlash = s.mgmt.fwFlash ∧ u.mgmt.rigFlash = s.mgmt.rigFlash ∧ u.mgmt.minSvn = s.mgmt.minSvn
    let off (c : Instr) (latch : Bool) : Prop := ∃ u, Gives c s u ∧ gone u State.reset.mem ∧ u.power.phase = .off ∧ u.power.tripLatch = latch
    off .powerLoss x.tripLatch ∧ off .refclkLost x.tripLatch ∧ off .tripLatchClear false ∧
    (x.phase = .off → x.tripLatch = false → ∃ u, Gives .coldPowerUp s u ∧ gone u State.reset.mem ∧ u.power = State.reset.power ∧ u.now = 0 ∧ u.mgmt.halts = 0) ∧
    (x.tripLatch = true → Idles .coldPowerUp s) ∧
    (x.phase ≠ .off → landsTaken s = false → ∃ u, Gives .warmReset s u ∧ gone u (keptStore s) ∧ u.power = { State.reset.power with
      compatA := x.compatA, sitePop := x.sitePop, brownouts := x.brownouts, brownoutCause := x.brownoutCause, test := y } ∧ u.mgmt.halts = s.mgmt.halts ∧ u.now = 0) ∧
    ((x.phase = .off ∨ landsTaken s = true) → Idles .warmReset s) ∧
    (x.phase ≠ .alwaysOn ∨ landsTaken v = true → Gives (.resetNRise ⟨compat, pop⟩ scan) s v) ∧
    (∀ p, p.trst = false → (tapCycle p s).power.test = { y with tap := .reset, ir := .bypass }) ∧
    (eachS (tms [true, true, true, true, true] false) tapCycle s).power.test.ir = .bypass ∧
    (y.tap = .idle → landsTaken (eachS (tms [true, true, false, false, false, true, true] false) tapCycle s) = true) ∧
    (x.phase = .alwaysOn → landsTaken v = false →
      (pop ≠ 3 → ∃ u, Gives (.resetNRise ⟨compat, pop⟩ scan) s u ∧
        u.power = { v.power with phase := .strapped, compatA := compat, sitePop := pop } ∧
        ∀ k ∈ populatedSites pop.toNat, (getSite u k).st = .reset ∧ (getSite u k).rail = true ∧ (getSite u k).sideband = true) ∧
      (pop = 3 → let t := { v with power := { v.power with phase := .strapped, compatA := compat, sitePop := pop } }
        Gives (.resetNRise ⟨compat, pop⟩ scan) s (post { recOf t 0x0061 6 0xFF 0x71 with detail := 3 } t))) ∧
    (x.phase = .strapped → x.recovering = false → x.dark = .no → x.queue = [] → optVal s 6 0 ≠ 1 → ∃ u, Gives .pllLock s u ∧ u.power.phase = .clocked ∧
      u.power.pllLocked = true ∧ u.power.keepAlive = false ∧ u.now = 0 ∧ u.power.admitted = x.admitted + 40 ∧
      u.power.queue = [{ target := none, time := 0, remaining := 250 }]) ∧
    (x.phase = .strapped → Gives .pllLockRetry s { s with power := { x with pllTries := x.pllTries + 1 } })

/-- A brown-out outside keep-alive counts with cause 2 and faults every partition with cause 4; one in keep-alive counts with cause 1 and resets the device to step 3, the lines of the store kept; a
telemetry sample is recorded, and the second running over a trip limit turns the device OFF with its trip latch set (R444, R479 to R481, R506, R537, R538, Tables 15.6 and 18.9). -/
def Obligations.BrownoutsAndTrips : Prop :=
  ∀ (t : Telemetry) (s : State),
    let x := s.power
    (x.keepAlive = false → 80 < x.slotRise → ∃ u, Settles .brownout s u ∧ u.power.brownouts = satInc 32 x.brownouts ∧ u.power.brownoutCause = 2 ∧
      ∀ p ∈ assigned s, (getPart u p).st = .faulted ∧ (getPart u p).cause = 4) ∧
    (x.keepAlive = true → 60 < x.admitted → ∃ u, Gives .brownoutKeepAlive s u ∧ u.power.phase = .strapped ∧ u.power.recovering = true ∧
      u.power.brownouts = satInc 32 x.brownouts ∧ u.power.brownoutCause = 1 ∧ u.power.compatA = x.compatA ∧ u.power.sitePop = x.sitePop ∧
      u.mem = keptStore s ∧ u.rig = State.reset.rig ∧ u.now = s.now) ∧
    (x.phase = .clocked → x.pllLocked = true → x.sampled ≤ s.now / 500000 → (tripped t = false ∨ x.tripSamples = 0) → ∃ u, Gives (.telemetrySample t) s u ∧ Tab.get 0 u.mgmt.sensors 1 = t.hub ∧
      u.power.inputMv = t.inputMv ∧ u.power.inputW = t.inputW ∧ u.power.coreA = t.coreA ∧ u.power.phase = .clocked ∧
      u.power.tripSamples = (if tripped t then 1 else 0) ∧ u.power.sampled = s.now / 500000 + 1) ∧
    (s.now / 500000 < x.sampled → Idles (.telemetrySample t) s) ∧
    (x.phase = .clocked → x.pllLocked = true → x.sampled ≤ s.now / 500000 → tripped t = true → 1 ≤ x.tripSamples → ∃ u, Gives (.telemetrySample t) s u ∧ u.power.phase = .off ∧
      u.power.tripLatch = true ∧ u.rig = State.reset.rig)

/-- An image that passes every check in the order of Table 2.6: a full one is applied whole, its maps, options, locks and epoch in force; a segment
stands in the inactive banks, or waits for its sleeping partition. With none pushed the rigging region's is applied. One that fails changes nothing of
the rigging but the recorded result and section, and a segment in await-image is refused, with NOT_AT_RESET where every other check passes (R40, R42,
R44, R46, R48, R61, Table 15.4). The life of an epoch: a switch advances it, keeps the maps of before as draining and extends the chain digest; it
retires when nothing is in flight under it and SHADOW_MIN has passed, its translations gone; at DRAIN_LIMIT every command still under it faults; a
released group's lines are cleared to zeros (R53, R56, R59, R61 to R64, Table 2.8). -/
def Obligations.ImagesAndEpochs : Prop :=
  (∀ (raw : List Byte) (s : State) (i : Image) (m : Maps) (e : Refuse),
     let full := if raw.isEmpty then s.mgmt.rigFlash else raw
     let runs := s.mgmt.boot = .running
     (runs → checkImage s full = .ok (i, m) → i.seg = false → allTrained s = true → ∃ u, Settles (.fullImageApply raw) s u ∧ u.rig.cur = m ∧ u.rig.epoch = i.epoch ∧
       u.rig.rigged = true ∧ u.rig.lastResult = 0 ∧ u.rig.failSection = 0xFFFF ∧ u.rig.locks = Tab.get 0 m.opts 7 ∧ u.rig.draining = none ∧
       u.rig.fullDigest = i.digest ∧ u.rig.chainDigest = i.digest) ∧
     (runs → checkImage s raw = .ok (i, m) → i.seg = true → sleeping s i.target = true → ∃ u, Settles (.segmentPresent raw) s u ∧ u.rig = s.rig ∧
       u.power.segWaits = s.power.segWaits ++ [{ order := s.mem.stamp + 1, part := i.target, from_ := none, raw := raw }]) ∧
     (runs → checkImage s raw = .ok (i, m) → i.seg = true → sleeping s i.target = false → Settles (.segmentPresent raw) s { s with rig := { s.rig with
       loaded := some { maps := m, part := i.target, digest := i.digest, enable := !shutsDown m i.target, from_ := none } } }) ∧
     (runs → checkImage s full = .error e → ∃ u, Settles (.fullImageApply raw) s u ∧ u.rig = { s.rig with lastResult := e.1, failSection := e.2 }) ∧
     (runs → checkImage s raw = .error e → ∃ u, Settles (.segmentPresent raw) s u ∧ u.rig = { s.rig with lastResult := e.1, failSection := e.2 }) ∧
     (s.mgmt.boot = .awaitImage → ∀ c, (c = .segmentPresent raw ∨ (c = .fullImageApply raw ∧ namesSegment full = true)) →
       let w := if c = .segmentPresent raw then raw else full
       (checkImage s w = .error e → ∃ u, Settles c s u ∧ u.rig = { s.rig with lastResult := e.1, failSection := e.2 }) ∧
       (checkImage s w = .ok (i, m) → ∃ u, Settles c s u ∧ u.rig = { s.rig with lastResult := 11, failSection := 0xFFFF }))) ∧
  (∀ (g : Fin 80) (s : State) (l : Loaded) (d : Drain),
     (s.rig.loaded = some l → l.from_ = none → ∃ u, Settles .segmentSwitch s u ∧ u.rig.epoch = (s.rig.epoch + 1) % 256 ∧
       u.rig.cur = switchMaps s.rig.cur l ∧ u.rig.draining = some { epoch := s.rig.epoch, maps := s.rig.cur, switchAt := s.now } ∧
       u.rig.loaded = none ∧ u.rig.lastResult = 0 ∧ u.rig.failSection = 0xFFFF ∧ u.rig.chainDigest = sha384 (s.rig.chainDigest ++ l.digest)) ∧
     (s.rig.draining = some d → underEpoch s d.epoch = 0 → d.switchAt + shadowMin s ≤ s.now → ∃ u, Settles .epochRetire s u ∧
       u.rig.draining = none ∧ u.rig.epoch = s.rig.epoch ∧ (∀ b, ∀ t ∈ tlbOf u b, t.epoch ≠ d.epoch)) ∧
     (s.rig.draining = some d → underEpoch s d.epoch ≠ 0 → d.switchAt + drainLimit s ≤ s.now → ∃ u, Settles .drainLimitExpiry s u ∧
       ∀ c ∈ u.cmds, c.epoch = d.epoch → c.fault.isSome = true) ∧
     (s.rig.clearing.head? = some g.val → s.upsets = [] → ∃ u, Settles (.groupClearDone g) s u ∧ u.rig = { s.rig with clearing := s.rig.clearing.filter (· ≠ g.val) } ∧
       (∀ n, groupOfLine n = g.val → n ∈ s.mem.lines.map Prod.fst → channelUp s n = true → fenced s n = false → viewData u n (getLine u n) = 0 ∧ checkOk u n (getLine u n) = true ∧ (getLine u n).poison = false)))

/-! ### The Ringmaster (16) -/

/-- The boot chain runs the firmware that passes the checks of R489, which assigns each site die on a sideband an endpoint ID (which one is free, log 61), and stops in await-image with the code of the first that fails; a halt records its cause, discards a
loaded segment, and stops the device's manager, for good after four within 100 ms (R420, R489, R493, R494, Tables 16.2, 16.9). What else a halt resets, the connection and the update, is the model's choice
(log 34). -/
def Obligations.BootAndHalts : Prop :=
  ∀ (answers : Bool) (cause : HaltCause) (s : State),
    let f := s.mgmt.fwFlash
    let times := (s.mgmt.haltTimes.filter fun t => s.now < t + 50000000) ++ [s.now]
    let halts (c : Instr) (code : Nat) : Prop := ∃ u, Settles c s u ∧ u.mgmt.haltCause = code ∧ u.mgmt.halts = satInc 8 s.mgmt.halts ∧
      u.rig.loaded = none ∧ u.mgmt.boot = (if 4 ≤ times.length then .awaitImage else .halted) ∧ u.mgmt.spdms = [] ∧ u.mgmt.update = {}
    (s.power.pwrgd = true → (s.mgmt.boot = .rom ∨ s.mgmt.boot = .halted) →
      (landsTaken s = false → firmwareFail s f = 0 → ∃ u, Settles (.bootChain true true) s u ∧ u.mgmt.boot = .running ∧ u.mgmt.failCode = 0 ∧ u.mgmt.svn = leAt f 8 4 ∧
        u.mgmt.fwDigest = (f.drop 0x20).take 48 ∧
        ∀ k, k < 4 → (getSite s k).sideband = true → ∃ e, Out.endpoint k e ∈ u.outbox ∧ (getSite u k).eid = e.toNat) ∧
      (landsTaken s = false → firmwareFail s f ≠ 0 → Settles (.bootChain true true) s { s with mgmt := { s.mgmt with boot := .awaitImage, failCode := firmwareFail s f } }) ∧
      (∀ a, (a = false ∨ landsTaken s = true) → Settles (.bootChain true a) s { s with mgmt := { s.mgmt with boot := .awaitImage, failCode := 7 } }) ∧
      halts (.bootChain false answers) 4) ∧
    (s.mgmt.boot = .running → s.mgmt.refreshed + 500000 ≤ s.now → halts .watchdogExpiry 1) ∧
    (s.now < s.mgmt.refreshed + 500000 → Idles .watchdogExpiry s) ∧
    (s.mgmt.boot = .running → halts (.ringmasterHalt cause) (match cause with
      | .watchdog => 1
      | .trap => 2
      | .sramCheck => 3
      | .romSelfTest => 4))

/-- The steps of an update, each from the transport that began it: a component is named, transferred and checked, written to its region of the flash and read back, and
activated; the firmware takes effect at the next boot, a full image while unrigged or at the next reset, a segment by its switch, for which it waits until its sleeping partition has left CURTAIN (R490, R492, Tables 15.4 and 16.3). The names and codes of the
replies are the model's choice (log 36), as is what an update keeps of the running firmware (log 35). -/
def Obligations.UpdatesRunInSteps : Prop :=
  ∀ (t : Transport) (n : BitVec 16) (image : List Byte) (s : State) (l : Loaded), Serves t s → transportPriv s t = true →
    let x := s.mgmt.update
    let at_ (st : UpdStage) : Prop := x.transport = some t ∧ x.stage = st
    (x.stage = .idle → Replies (.requestUpdate t) s t "RequestUpdate" 0 [] fun u => u.mgmt.update = { stage := .requested, transport := some t }) ∧
    (x.stage ≠ .idle → Replies (.requestUpdate t) s t "ALREADY_IN_UPDATE_MODE" 1 [] fun u => u.mgmt.update = x) ∧
    (at_ .requested → 1 ≤ n.toNat → n.toNat ≤ 3 → Replies (.passComponentTable t n) s t "PassComponentTable" 0 [] fun u =>
      u.mgmt.update = { x with stage := .passed, component := n.toNat }) ∧
    (at_ .passed → (verifyComponent s x.component image).1 = 0 → Replies (.verifyComplete t image) s t "VerifyComplete" 0 [] fun u =>
      u.mgmt.update = { x with stage := .verified, image := image }) ∧
    (at_ .passed → x.component = 1 → firmwareFail s image ≠ 0 → Replies (.verifyComplete t image) s t "VerifyComplete" (firmwareFail s image) [] fun u =>
      u.mgmt.update = {} ∧ u.mgmt.fwFlash = s.mgmt.fwFlash) ∧
    (at_ .verified → x.component = 1 → landsTaken s = false → Replies (.applyComplete t true) s t "ApplyComplete" 0 [] fun u =>
      u.mgmt.fwFlash = x.image ∧ u.mgmt.rigFlash = s.mgmt.rigFlash ∧ u.mgmt.update = { x with stage := .applied }) ∧
    (at_ .verified → x.component = 2 → landsTaken s = false → Replies (.applyComplete t true) s t "ApplyComplete" 0 [] fun u =>
      u.mgmt.rigFlash = x.image ∧ u.mgmt.fwFlash = s.mgmt.fwFlash ∧ u.mgmt.update = { x with stage := .applied }) ∧
    (at_ .verified → x.component ≠ 3 → Replies (.applyComplete t false) s t "ApplyComplete" 1 [] fun u => u.mgmt.update = {}) ∧
    (at_ .applied → x.component = 1 → Replies (.activateFirmware t) s t "ActivateFirmware" 0 [] fun u =>
      u.mgmt.update = {} ∧ u.mgmt.boot = .running ∧ u.mgmt.fwDigest = s.mgmt.fwDigest) ∧
    (at_ .applied → x.component = 2 → s.rig.rigged = true → Replies (.activateFirmware t) s t "ActivateFirmware" 0 [] fun u =>
      u.mgmt.update = {} ∧ u.rig = s.rig) ∧
    (at_ .applied → x.component = 3 → s.power.segWaits.any (fun w => w.from_ = some t) = true →
      Settles (.activateFirmware t) s { s with mgmt := { s.mgmt with update := { x with stage := .activating } } }) ∧
    (at_ .applied → x.component = 3 → s.power.segWaits.any (fun w => w.from_ = some t) = false → s.rig.loaded = some l → l.from_ = some t → ∃ v, v = { s with mgmt := { s.mgmt with update := {} } } ∧
      Settles (.activateFirmware t) s (mgmtReply t "ActivateFirmware" 0 [] false (switchSegment l v)))

/-- The connection of attestation: GET_VERSION starts it anew, GET_CAPABILITIES and NEGOTIATE_ALGORITHMS follow in turn, and the negotiated device gives the digests and the
portions of its chains, its measurements and its signed responses, after each of which one PQ_SIGNATURE is owed (R497 to R501, Table 16.4). The bytes that are
signed and the names and codes of the answers are the model's choice (log 36); the algorithms are opaque (log 6). -/
def Obligations.AttestationAnswers : Prop :=
  ∀ (t : Transport) (offer : Algorithms) (slot : BitVec 4) (off len : BitVec 16) (nonce : List Byte) (i : BitVec 8) (s : State), Serves t s →
    let x := getSpdm s t
    let sign (tr d : List Byte) : List Byte := d ++ Config.ed25519Sign s.mgmt.aliasSeed (sha384 (tr ++ d))
    let hashes := sha384 (chain s 0) ++ sha384 (chain s 1)
    let piece := ((chain s slot.toNat).drop off.toNat).take len.toNat
    let auth := sign (x.transcript ++ ([0x13, 0x83] ++ nonce)) (sha384 (chain s slot.toNat))
    let meas := measurement s i.toNat
    (Replies (.getVersion t) s t "VERSION" 0 [0x00, 0x13] fun u => (getSpdm u t).versioned = true ∧ (getSpdm u t).capable = false ∧
      (getSpdm u t).negotiated = false ∧ (getSpdm u t).session = none) ∧
    (x.versioned = true → Replies (.getCapabilities t) s t "CAPABILITIES" 0 [] fun u => (getSpdm u t).capable = true) ∧
    (x.capable = true → Replies (.negotiateAlgorithms t offer) s t "ALGORITHMS" 0 [BitVec.ofNat 8 (algorithmBits offer)] fun u =>
      (getSpdm u t).negotiated = (offer.ed25519 && offer.sha384) ∧
      (getSpdm u t).sessions = (offer.ed25519 && offer.sha384 && offer.secp384r1 && offer.aes256Gcm)) ∧
    (x.negotiated = true → hashes.length ≤ 4032 → Replies (.getDigests t) s t "DIGESTS" 0 hashes fun u => (getSpdm u t).owed = false) ∧
    (x.negotiated = true → slot.toNat ≤ 1 → piece.length ≤ 4032 → Replies (.getCertificate t slot off len) s t "CERTIFICATE" 0 piece fun u =>
      (getSpdm u t).owed = false) ∧
    (x.negotiated = true → slot.toNat ≤ 1 → auth.length ≤ 4032 → Replies (.challenge t slot nonce) s t "CHALLENGE_AUTH" 0 auth fun u =>
      (getSpdm u t).owed = true) ∧
    (x.negotiated = true → 1 ≤ i.toNat → i.toNat ≤ 8 → meas.length ≤ 4032 → Replies (.getMeasurements t i false nonce) s t "MEASUREMENTS" 0 meas fun u =>
      (getSpdm u t).owed = false) ∧
    (x.negotiated = true → i = 0 → Replies (.getMeasurements t i false nonce) s t "MEASUREMENTS" 0 [0x08] fun u => (getSpdm u t).owed = false) ∧
    (x.owed = true → (Config.mldsaSign s.mgmt.aliasSeed (sha384 x.transcript)).length ≤ 4032 →
      Replies (.pqSignature t) s t "PQ_SIGNATURE" 0 (Config.mldsaSign s.mgmt.aliasSeed (sha384 x.transcript)) fun u => (getSpdm u t).owed = false) ∧
    (x.owed = false → Replies (.pqSignature t) s t "ERROR_UnexpectedRequest" 1 [] fun u => getSpdm u t = x)

/-- Sessions and key slots: KEY_EXCHANGE opens a session, FINISH establishes it, HEARTBEAT, KEY_UPDATE and END_SESSION act in it; long messages go in chunks, in sequence;
inside a session a key slot is set once and cleared unless a partition of it runs (R498, R499, R502). The bytes that are signed and the names and codes of
the answers are the model's choice (log 36); the algorithms are opaque (log 6). -/
def Obligations.SessionsAndKeys : Prop :=
  ∀ (t : Transport) (slot : BitVec 4) (id n : BitVec 16) (last : Bool) (ex bytes : List Byte) (k : BitVec 8) (key : BitVec 512) (s : State), Serves t s →
    let x := getSpdm s t
    let tr := x.transcript ++ ([0x13, 0xE4] ++ ex) ++ leBytes 2 id.toNat
    let rsp := leBytes 2 id.toNat ++ Config.ed25519Sign s.mgmt.aliasSeed (sha384 tr)
    let inUse := s.rig.cur.parts.any fun e => e.2.keySlot = k.toNat &&
      ((getPart s e.1).st = .starting || (getPart s e.1).st = .running || (getPart s e.1).st = .stopping)
    (x.sessions = true → slot.toNat ≤ 1 → rsp.length ≤ 4032 → Replies (.keyExchange t slot id ex) s t "KEY_EXCHANGE_RSP" 0 rsp fun u =>
      (getSpdm u t).session = some id.toNat ∧ (getSpdm u t).established = false ∧ (getSpdm u t).owed = true) ∧
    (x.session.isSome = true → x.established = false → Replies (.finish t true) s t "FINISH_RSP" 0 [] fun u => (getSpdm u t).established = true) ∧
    (x.session.isSome = true → x.established = false → Replies (.finish t false) s t "ERROR_DecryptError" 1 [] fun u => (getSpdm u t).session = none) ∧
    (x.capable = true → n.toNat = x.chunkSeq → Replies (.chunkSend t n last bytes) s t "CHUNK_SEND_ACK" 0 [] fun u =>
      (last = false → (getSpdm u t).chunkIn = x.chunkIn ++ bytes ∧ (getSpdm u t).chunkSeq = x.chunkSeq + 1) ∧ (last = true → (getSpdm u t).chunkSeq = 0)) ∧
    (x.capable = true → x.chunkOut ≠ [] → n.toNat = x.outSeq → Replies (.chunkGet t n) s t "CHUNK_RESPONSE" 0 (x.chunkOut.take 4032) fun u =>
      (getSpdm u t).chunkOut = x.chunkOut.drop 4032 ∧ (getSpdm u t).outSeq = x.outSeq + 1) ∧
    (x.established = true →
      (Replies (.heartbeat t) s t "HEARTBEAT_ACK" 0 [] fun u => (getSpdm u t).session = x.session) ∧
      (Replies (.keyUpdate t) s t "KEY_UPDATE_ACK" 0 [] fun u => (getSpdm u t).updates = x.updates + 1) ∧
      (Replies (.endSession t) s t "END_SESSION_ACK" 0 [] fun u => (getSpdm u t).session = none ∧ (getSpdm u t).established = false) ∧
      (k.toNat ≤ 31 → mayKey s t k.toNat = true → Tab.find s.mgmt.keys k.toNat = none → Replies (.setKey t k key) s t "SET_KEY" 0 [] fun u =>
        Tab.find u.mgmt.keys k.toNat = some key) ∧
      (k.toNat ≤ 31 → mayKey s t k.toNat = true → (Tab.find s.mgmt.keys k.toNat).isSome = true → Replies (.setKey t k key) s t "KEY_BUSY" 1 [] fun u =>
        u.mgmt.keys = s.mgmt.keys) ∧
      (k.toNat ≤ 31 → mayKey s t k.toNat = true → inUse = false → Replies (.clearKey t k) s t "CLEAR_KEY" 0 [] fun u =>
        Tab.find u.mgmt.keys k.toNat = none) ∧
      (k.toNat ≤ 31 → mayKey s t k.toNat = true → inUse = true → Replies (.clearKey t k) s t "KEY_BUSY" 1 [] fun u => u.mgmt.keys = s.mgmt.keys))

/-- The other messages: MCTP control is answered on every transport that carries messages; with the authority of Table 16.5 a sensor's thresholds are set and an event receiver
is registered, which acknowledges record after record; without it a message is refused; MAILBOX_GO hands a partition's request to the Ringmaster (R503, R504, R506, R507, R512). That a length
outside 1 to 4,032 is an access violation is the model's reading (log 37), and the names and codes of the replies its choice (log 36). -/
def Obligations.MessagesAndMailboxes : Prop :=
  ∀ (t : Transport) (cmd eid : BitVec 8) (sensor : BitVec 16) (low high : Int) (w : Writer) (p : Fin 32) (v : Word) (s : State),
    let len := bits (v.toNat ||| 1) 16 16
    (Serves t s →
      (Replies (.mctpControl t cmd eid) s t "MCTP_CONTROL" 0 [cmd, eid] fun u => (t = .i3c → cmd = 1 → u.mgmt.eid = eid.toNat) ∧
        (t ≠ .i3c → u.mgmt.eid = s.mgmt.eid) ∧ u.ucie = s.ucie) ∧
      (transportPriv s t = true → numericSensor sensor.toNat = true → Replies (.setSensorThresholds t sensor low high) s t "SetSensorThresholds" 0 []
        fun u => Tab.find u.mgmt.thresholds sensor.toNat = some (low, high)) ∧
      (transportPriv s t = true → numericSensor sensor.toNat = false → Replies (.setSensorThresholds t sensor low high) s t "INVALID_SENSOR_ID" 1 []
        fun u => u.mgmt.thresholds = s.mgmt.thresholds) ∧
      (transportPriv s t = false → Settles (.setSensorThresholds t sensor low high) s (unsupported t s)) ∧
      (transportPriv s t = true → ∃ u, Settles (.eventReceiverRegistration t) s (forwardHead u) ∧ u.mgmt.receiver = some t ∧
        u.outbox = s.outbox ++ [.mgmt t "SetEventReceiver" 0 []]) ∧
      (transportPriv s t = false → Settles (.eventReceiverRegistration t) s (unsupported t s))) ∧
    (s.mgmt.boot = .running → s.mgmt.receiver.isSome = true → s.barker.head ≠ s.barker.tail →
      Gives .platformEventAck s (forwardHead { s with barker := { s.barker with head := s.barker.head + 1 } })) ∧
    (writerLive s w = true → writerMay s w p.val = true → 1 ≤ len → len ≤ 4032 → ∃ u, Settles (.mailboxGo w p v) s u ∧
      (getMbox u p.val).st = 1 ∧ (getMbox u p.val).reqLen = len ∧ (getMbox u p.val).msgType = bits (v.toNat ||| 1) 8 8 ∧
      (getMbox u p.val).buffer = (getMbox s p.val).buffer) ∧
    (writerLive s w = true → writerMay s w p.val = true → ¬ (1 ≤ len ∧ len ≤ 4032) →
      Settles (.mailboxGo w p v) s (accessViolation w (writerNo s w) (0x200100 + 8 * p.val) (v.toNat ||| 1) s))

/-! ### Encodings (04, 12) -/

/-- Every packet of a form that Tables 12.4 and 12.5 allow, with every value of every field it carries, is read back from the slots it is written to, whole and alone, and
fills the slots its LEN says (R380 to R383). -/
def Obligations.PacketsAreReadAsWritten : Prop :=
  ∀ p : Packet, WireForm p → (packetBytes p).length = 16 * p.len.toNat ∧ readSlots 1 (packetBytes p) = ([p], [], [])

/-- The T1 codec is lossless: a block that compresses to k granules decodes to its four metadata words and its four lines, for each of the four element formats, and k is
2 to 6 (R124 to R127). -/
def Obligations.CompressedBlocksDecode : Prop :=
  ∀ (tier : Nat) (f : Elem) (words : List Word) (lines : List LineData) (im : List Byte), elemOf tier = some f → words.length = 4 → lines.length = 4 →
    encodeBlock f words lines = some im →
    im.length % 32 = 0 ∧ 2 ≤ im.length / 32 ∧ im.length / 32 ≤ 6 ∧ decodeBlock f (im.length / 32) im = some (words, lines)

/-- A flit as sent is read as sent: scrambling a lane's bytes twice from one register gives them back, the bytes striped over 1, 2, 4 or 8 lanes are gathered in order, and
a flit made with its CRC and its parity decodes with no correction (R370, R372, R373, Table 12.1). -/
def Obligations.FlitsAreReadAsSent : Prop :=
  (∀ (r : Nat) (l : List Byte), (scramble r (scramble r l).1).1 = l) ∧
  (∀ (w : Nat) (f : List Byte), w ∈ [1, 2, 4, 8] → f.length = 272 → unstripe w (stripe w f) = f) ∧
  (∀ (ctrl : Nat) (payload : List Byte), payload.length = 256 → readFlit (makeFlit ctrl payload) = (some (makeFlit ctrl payload), 0))
end

