-- ==== Sys2Proof/Laws/Tab.lean ====
section
/-! SUPPORT. The laws of sparse tables: what is found after an insertion or a removal, and that the canonical form is kept. -/

namespace Sys2Proof

variable {α : Type}

/-- What an insertion lists is found. -/
@[simp] theorem Tab.find_insert_self (t : Tab α) (n : Nat) (v : α) : Tab.find (Tab.insert t n v) n = some v := by
  induction t with
  | nil => simp [Tab.insert, Tab.find]
  | cons e t ih =>
    obtain ⟨k, w⟩ := e
    simp only [Tab.insert]
    split
    · simp [Tab.find]
    · split
      · simp [Tab.find]
      · rename_i h
        simp [Tab.find, Ne.symm h, ih]

/-- An insertion changes no other number. -/
@[simp] theorem Tab.find_insert_ne (t : Tab α) {n m : Nat} (v : α) (h : m ≠ n) : Tab.find (Tab.insert t n v) m = Tab.find t m := by
  induction t with
  | nil => simp [Tab.insert, Tab.find, Ne.symm h]
  | cons e t ih =>
    obtain ⟨k, w⟩ := e
    simp only [Tab.insert]
    split
    · simp [Tab.find, Ne.symm h]
    · split
      · rename_i e
        subst e
        simp [Tab.find, Ne.symm h]
      · simp [Tab.find, ih]

/-- A removed number is not found. -/
@[simp] theorem Tab.find_erase_self (t : Tab α) (n : Nat) : Tab.find (Tab.erase t n) n = none := by
  induction t with
  | nil => rfl
  | cons e t ih =>
    obtain ⟨k, w⟩ := e
    simp only [Tab.erase]
    split
    · exact ih
    · rename_i h
      simp [Tab.find, h, ih]

/-- A removal changes no other number. -/
@[simp] theorem Tab.find_erase_ne (t : Tab α) {n m : Nat} (h : m ≠ n) : Tab.find (Tab.erase t n) m = Tab.find t m := by
  induction t with
  | nil => rfl
  | cons e t ih =>
    obtain ⟨k, w⟩ := e
    simp only [Tab.erase]
    split
    · rename_i e
      subst e
      simp [Tab.find, Ne.symm h, ih]
    · simp [Tab.find, ih]

/-- The value of a number just listed. -/
@[simp] theorem Tab.get_insert_self (d : α) (t : Tab α) (n : Nat) (v : α) : Tab.get d (Tab.insert t n v) n = v := by simp [Tab.get]

/-- The value of another number after an insertion. -/
@[simp] theorem Tab.get_insert_ne (d : α) (t : Tab α) {n m : Nat} (v : α) (h : m ≠ n) : Tab.get d (Tab.insert t n v) m = Tab.get d t m := by
  simp [Tab.get, h]

/-- The value of a removed number is the default. -/
@[simp] theorem Tab.get_erase_self (d : α) (t : Tab α) (n : Nat) : Tab.get d (Tab.erase t n) n = d := by simp [Tab.get]

/-- The value of another number after a removal. -/
@[simp] theorem Tab.get_erase_ne (d : α) (t : Tab α) {n m : Nat} (h : m ≠ n) : Tab.get d (Tab.erase t n) m = Tab.get d t m := by
  simp [Tab.get, h]

/-- The value of a number just written. -/
@[simp] theorem Tab.get_put_self [DecidableEq α] (d : α) (t : Tab α) (n : Nat) (v : α) : Tab.get d (Tab.put d t n v) n = v := by
  unfold Tab.put
  split
  · rename_i h
    simp [h]
  · simp

/-- The value of another number after a write. -/
@[simp] theorem Tab.get_put_ne [DecidableEq α] (d : α) (t : Tab α) {n m : Nat} (v : α) (h : m ≠ n) : Tab.get d (Tab.put d t n v) m = Tab.get d t m := by
  unfold Tab.put
  split <;> simp [h]

/-- A write changes no other number, whatever the defaults. -/
@[simp] theorem Tab.find_put_ne [DecidableEq α] (d : α) (t : Tab α) {n m : Nat} (v : α) (h : m ≠ n) : Tab.find (Tab.put d t n v) m = Tab.find t m := by
  unfold Tab.put
  split <;> simp [h]

/-- A table above a number is above every lower one. -/
theorem Tab.above_mono {t : Tab α} {n m : Nat} (h : Tab.above n t = true) (hm : m ≤ n) : Tab.above m t = true := by
  cases t with
  | nil => rfl
  | cons e t =>
    obtain ⟨k, w⟩ := e
    simp only [Tab.above, Bool.and_eq_true, decide_eq_true_eq] at h ⊢
    exact ⟨Nat.le_trans hm h.1, h.2⟩

/-- An insertion keeps the numbers rising. -/
theorem Tab.above_insert {t : Tab α} {m n : Nat} (v : α) (hm : m ≤ n) (h : Tab.above m t = true) : Tab.above m (Tab.insert t n v) = true := by
  induction t generalizing m with
  | nil => simp [Tab.insert, Tab.above, hm]
  | cons e t ih =>
    obtain ⟨k, w⟩ := e
    simp only [Tab.above, Bool.and_eq_true, decide_eq_true_eq] at h
    simp only [Tab.insert]
    split
    · simp only [Tab.above, Bool.and_eq_true, decide_eq_true_eq]
      exact ⟨hm, by omega, h.2⟩
    · split
      · rename_i e
        subst e
        simp only [Tab.above, Bool.and_eq_true, decide_eq_true_eq]
        exact ⟨hm, h.2⟩
      · simp only [Tab.above, Bool.and_eq_true, decide_eq_true_eq]
        exact ⟨h.1, ih (by omega) h.2⟩

/-- A removal keeps the numbers rising. -/
theorem Tab.above_erase {t : Tab α} {m n : Nat} (h : Tab.above m t = true) : Tab.above m (Tab.erase t n) = true := by
  induction t generalizing m with
  | nil => rfl
  | cons e t ih =>
    obtain ⟨k, w⟩ := e
    simp only [Tab.above, Bool.and_eq_true, decide_eq_true_eq] at h
    simp only [Tab.erase]
    split
    · exact Tab.above_mono (ih h.2) (by omega)
    · simp only [Tab.above, Bool.and_eq_true, decide_eq_true_eq]
      exact ⟨h.1, ih h.2⟩

/-- An insertion of a value that is not the default lists no default. -/
theorem Tab.lean_insert [DecidableEq α] {d : Nat → α} {t : Tab α} {n : Nat} {v : α} (hv : v ≠ d n) (h : Tab.lean d t = true) :
    Tab.lean d (Tab.insert t n v) = true := by
  induction t with
  | nil => simp [Tab.insert, Tab.lean, hv]
  | cons e t ih =>
    obtain ⟨k, w⟩ := e
    simp only [Tab.lean, Bool.and_eq_true, decide_eq_true_eq] at h
    simp only [Tab.insert]
    split
    · simp [Tab.lean, hv, h.1, h.2]
    · split
      · simp [Tab.lean, hv, h.2]
      · simp [Tab.lean, h.1, ih h.2]

/-- A removal lists no default. -/
theorem Tab.lean_erase [DecidableEq α] {d : Nat → α} {t : Tab α} {n : Nat} (h : Tab.lean d t = true) : Tab.lean d (Tab.erase t n) = true := by
  induction t with
  | nil => rfl
  | cons e t ih =>
    obtain ⟨k, w⟩ := e
    simp only [Tab.lean, Bool.and_eq_true, decide_eq_true_eq] at h
    simp only [Tab.erase]
    split
    · exact ih h.2
    · simp [Tab.lean, h.1, ih h.2]

/-- A write keeps the numbers rising. -/
theorem Tab.wf_put [DecidableEq α] (d : α) {t : Tab α} (n : Nat) (v : α) (h : Tab.wf t = true) : Tab.wf (Tab.put d t n v) = true := by
  unfold Tab.put Tab.wf at *
  split
  · exact Tab.above_erase h
  · exact Tab.above_insert v (Nat.zero_le n) h

/-- A write lists no default. -/
theorem Tab.lean_put [DecidableEq α] (d : Nat → α) {t : Tab α} (n : Nat) (v : α) (h : Tab.lean d t = true) :
    Tab.lean d (Tab.put (d n) t n v) = true := by
  unfold Tab.put
  split
  · exact Tab.lean_erase h
  · rename_i hv
    exact Tab.lean_insert hv h

/-- A selection of entries keeps the numbers rising. -/
theorem Tab.above_filter {t : Tab α} {m : Nat} (p : Nat × α → Bool) (h : Tab.above m t = true) : Tab.above m (List.filter p t) = true := by
  induction t generalizing m with
  | nil => rfl
  | cons e t ih =>
    obtain ⟨k, w⟩ := e
    simp only [Tab.above, Bool.and_eq_true, decide_eq_true_eq] at h
    simp only [List.filter]
    split
    · simp only [Tab.above, Bool.and_eq_true, decide_eq_true_eq]
      exact ⟨h.1, ih h.2⟩
    · exact Tab.above_mono (ih h.2) (by omega)

/-- Trimming keeps the numbers rising. -/
theorem Tab.wf_trim [DecidableEq α] (d : Nat → α) {t : Tab α} (h : Tab.wf t = true) : Tab.wf (Tab.trim d t) = true :=
  Tab.above_filter _ h

/-- What is trimmed lists no default. -/
theorem Tab.lean_trim [DecidableEq α] (d : Nat → α) (t : Tab α) : Tab.lean d (Tab.trim d t) = true := by
  induction t with
  | nil => rfl
  | cons e t ih =>
    obtain ⟨k, w⟩ := e
    simp only [Tab.trim, List.filter] at ih ⊢
    split
    · rename_i hv
      simp only [Tab.lean, Bool.and_eq_true]
      exact ⟨hv, ih⟩
    · exact ih

end Sys2Proof
end

