-- ==== Sys2Proof/Laws/State.lean ====
section
/-! SUPPORT. Every field of the state after every update of one group or of one entry: each lemma says which field an update leaves, or what it gives. -/

namespace Sys2Proof.Machine

/-! ### Updates of one group -/

@[simp] theorem modPower_now (f : Power → Power) (s : State) : (modPower f s).now = s.now := rfl
@[simp] theorem modPower_power (f : Power → Power) (s : State) : (modPower f s).power = f s.power := rfl
@[simp] theorem modPower_rig (f : Power → Power) (s : State) : (modPower f s).rig = s.rig := rfl
@[simp] theorem modPower_xlat (f : Power → Power) (s : State) : (modPower f s).xlat = s.xlat := rfl
@[simp] theorem modPower_mem (f : Power → Power) (s : State) : (modPower f s).mem = s.mem := rfl
@[simp] theorem modPower_integ (f : Power → Power) (s : State) : (modPower f s).integ = s.integ := rfl
@[simp] theorem modPower_home (f : Power → Power) (s : State) : (modPower f s).home = s.home := rfl
@[simp] theorem modPower_order (f : Power → Power) (s : State) : (modPower f s).order = s.order := rfl
@[simp] theorem modPower_qps (f : Power → Power) (s : State) : (modPower f s).qps = s.qps := rfl
@[simp] theorem modPower_cmds (f : Power → Power) (s : State) : (modPower f s).cmds = s.cmds := rfl
@[simp] theorem modPower_cmdStamp (f : Power → Power) (s : State) : (modPower f s).cmdStamp = s.cmdStamp := rfl
@[simp] theorem modPower_booths (f : Power → Power) (s : State) : (modPower f s).booths = s.booths := rfl
@[simp] theorem modPower_fab (f : Power → Power) (s : State) : (modPower f s).fab = s.fab := rfl
@[simp] theorem modPower_ucie (f : Power → Power) (s : State) : (modPower f s).ucie = s.ucie := rfl
@[simp] theorem modPower_parts (f : Power → Power) (s : State) : (modPower f s).parts = s.parts := rfl
@[simp] theorem modPower_barker (f : Power → Power) (s : State) : (modPower f s).barker = s.barker := rfl
@[simp] theorem modPower_banks (f : Power → Power) (s : State) : (modPower f s).banks = s.banks := rfl
@[simp] theorem modPower_mgmt (f : Power → Power) (s : State) : (modPower f s).mgmt = s.mgmt := rfl
@[simp] theorem modPower_outbox (f : Power → Power) (s : State) : (modPower f s).outbox = s.outbox := rfl
@[simp] theorem modPower_freeCount (f : Power → Power) (s : State) : (modPower f s).freeCount = s.freeCount := rfl
@[simp] theorem modPower_pending (f : Power → Power) (s : State) : (modPower f s).pending = s.pending := rfl
@[simp] theorem modRig_now (f : Rig → Rig) (s : State) : (modRig f s).now = s.now := rfl
@[simp] theorem modRig_power (f : Rig → Rig) (s : State) : (modRig f s).power = s.power := rfl
@[simp] theorem modRig_rig (f : Rig → Rig) (s : State) : (modRig f s).rig = f s.rig := rfl
@[simp] theorem modRig_xlat (f : Rig → Rig) (s : State) : (modRig f s).xlat = s.xlat := rfl
@[simp] theorem modRig_mem (f : Rig → Rig) (s : State) : (modRig f s).mem = s.mem := rfl
@[simp] theorem modRig_integ (f : Rig → Rig) (s : State) : (modRig f s).integ = s.integ := rfl
@[simp] theorem modRig_home (f : Rig → Rig) (s : State) : (modRig f s).home = s.home := rfl
@[simp] theorem modRig_order (f : Rig → Rig) (s : State) : (modRig f s).order = s.order := rfl
@[simp] theorem modRig_qps (f : Rig → Rig) (s : State) : (modRig f s).qps = s.qps := rfl
@[simp] theorem modRig_cmds (f : Rig → Rig) (s : State) : (modRig f s).cmds = s.cmds := rfl
@[simp] theorem modRig_cmdStamp (f : Rig → Rig) (s : State) : (modRig f s).cmdStamp = s.cmdStamp := rfl
@[simp] theorem modRig_booths (f : Rig → Rig) (s : State) : (modRig f s).booths = s.booths := rfl
@[simp] theorem modRig_fab (f : Rig → Rig) (s : State) : (modRig f s).fab = s.fab := rfl
@[simp] theorem modRig_ucie (f : Rig → Rig) (s : State) : (modRig f s).ucie = s.ucie := rfl
@[simp] theorem modRig_parts (f : Rig → Rig) (s : State) : (modRig f s).parts = s.parts := rfl
@[simp] theorem modRig_barker (f : Rig → Rig) (s : State) : (modRig f s).barker = s.barker := rfl
@[simp] theorem modRig_banks (f : Rig → Rig) (s : State) : (modRig f s).banks = s.banks := rfl
@[simp] theorem modRig_mgmt (f : Rig → Rig) (s : State) : (modRig f s).mgmt = s.mgmt := rfl
@[simp] theorem modRig_outbox (f : Rig → Rig) (s : State) : (modRig f s).outbox = s.outbox := rfl
@[simp] theorem modRig_freeCount (f : Rig → Rig) (s : State) : (modRig f s).freeCount = s.freeCount := rfl
@[simp] theorem modRig_pending (f : Rig → Rig) (s : State) : (modRig f s).pending = s.pending := rfl
@[simp] theorem modXlat_now (f : Xlat → Xlat) (s : State) : (modXlat f s).now = s.now := rfl
@[simp] theorem modXlat_power (f : Xlat → Xlat) (s : State) : (modXlat f s).power = s.power := rfl
@[simp] theorem modXlat_rig (f : Xlat → Xlat) (s : State) : (modXlat f s).rig = s.rig := rfl
@[simp] theorem modXlat_xlat (f : Xlat → Xlat) (s : State) : (modXlat f s).xlat = f s.xlat := rfl
@[simp] theorem modXlat_mem (f : Xlat → Xlat) (s : State) : (modXlat f s).mem = s.mem := rfl
@[simp] theorem modXlat_integ (f : Xlat → Xlat) (s : State) : (modXlat f s).integ = s.integ := rfl
@[simp] theorem modXlat_home (f : Xlat → Xlat) (s : State) : (modXlat f s).home = s.home := rfl
@[simp] theorem modXlat_order (f : Xlat → Xlat) (s : State) : (modXlat f s).order = s.order := rfl
@[simp] theorem modXlat_qps (f : Xlat → Xlat) (s : State) : (modXlat f s).qps = s.qps := rfl
@[simp] theorem modXlat_cmds (f : Xlat → Xlat) (s : State) : (modXlat f s).cmds = s.cmds := rfl
@[simp] theorem modXlat_cmdStamp (f : Xlat → Xlat) (s : State) : (modXlat f s).cmdStamp = s.cmdStamp := rfl
@[simp] theorem modXlat_booths (f : Xlat → Xlat) (s : State) : (modXlat f s).booths = s.booths := rfl
@[simp] theorem modXlat_fab (f : Xlat → Xlat) (s : State) : (modXlat f s).fab = s.fab := rfl
@[simp] theorem modXlat_ucie (f : Xlat → Xlat) (s : State) : (modXlat f s).ucie = s.ucie := rfl
@[simp] theorem modXlat_parts (f : Xlat → Xlat) (s : State) : (modXlat f s).parts = s.parts := rfl
@[simp] theorem modXlat_barker (f : Xlat → Xlat) (s : State) : (modXlat f s).barker = s.barker := rfl
@[simp] theorem modXlat_banks (f : Xlat → Xlat) (s : State) : (modXlat f s).banks = s.banks := rfl
@[simp] theorem modXlat_mgmt (f : Xlat → Xlat) (s : State) : (modXlat f s).mgmt = s.mgmt := rfl
@[simp] theorem modXlat_outbox (f : Xlat → Xlat) (s : State) : (modXlat f s).outbox = s.outbox := rfl
@[simp] theorem modXlat_freeCount (f : Xlat → Xlat) (s : State) : (modXlat f s).freeCount = s.freeCount := rfl
@[simp] theorem modXlat_pending (f : Xlat → Xlat) (s : State) : (modXlat f s).pending = s.pending := rfl
@[simp] theorem modMem_now (f : Mem → Mem) (s : State) : (modMem f s).now = s.now := rfl
@[simp] theorem modMem_power (f : Mem → Mem) (s : State) : (modMem f s).power = s.power := rfl
@[simp] theorem modMem_rig (f : Mem → Mem) (s : State) : (modMem f s).rig = s.rig := rfl
@[simp] theorem modMem_xlat (f : Mem → Mem) (s : State) : (modMem f s).xlat = s.xlat := rfl
@[simp] theorem modMem_mem (f : Mem → Mem) (s : State) : (modMem f s).mem = f s.mem := rfl
@[simp] theorem modMem_integ (f : Mem → Mem) (s : State) : (modMem f s).integ = s.integ := rfl
@[simp] theorem modMem_home (f : Mem → Mem) (s : State) : (modMem f s).home = s.home := rfl
@[simp] theorem modMem_order (f : Mem → Mem) (s : State) : (modMem f s).order = s.order := rfl
@[simp] theorem modMem_qps (f : Mem → Mem) (s : State) : (modMem f s).qps = s.qps := rfl
@[simp] theorem modMem_cmds (f : Mem → Mem) (s : State) : (modMem f s).cmds = s.cmds := rfl
@[simp] theorem modMem_cmdStamp (f : Mem → Mem) (s : State) : (modMem f s).cmdStamp = s.cmdStamp := rfl
@[simp] theorem modMem_booths (f : Mem → Mem) (s : State) : (modMem f s).booths = s.booths := rfl
@[simp] theorem modMem_fab (f : Mem → Mem) (s : State) : (modMem f s).fab = s.fab := rfl
@[simp] theorem modMem_ucie (f : Mem → Mem) (s : State) : (modMem f s).ucie = s.ucie := rfl
@[simp] theorem modMem_parts (f : Mem → Mem) (s : State) : (modMem f s).parts = s.parts := rfl
@[simp] theorem modMem_barker (f : Mem → Mem) (s : State) : (modMem f s).barker = s.barker := rfl
@[simp] theorem modMem_banks (f : Mem → Mem) (s : State) : (modMem f s).banks = s.banks := rfl
@[simp] theorem modMem_mgmt (f : Mem → Mem) (s : State) : (modMem f s).mgmt = s.mgmt := rfl
@[simp] theorem modMem_outbox (f : Mem → Mem) (s : State) : (modMem f s).outbox = s.outbox := rfl
@[simp] theorem modMem_freeCount (f : Mem → Mem) (s : State) : (modMem f s).freeCount = s.freeCount := rfl
@[simp] theorem modMem_pending (f : Mem → Mem) (s : State) : (modMem f s).pending = s.pending := rfl
@[simp] theorem modInteg_now (f : Integ → Integ) (s : State) : (modInteg f s).now = s.now := rfl
@[simp] theorem modInteg_power (f : Integ → Integ) (s : State) : (modInteg f s).power = s.power := rfl
@[simp] theorem modInteg_rig (f : Integ → Integ) (s : State) : (modInteg f s).rig = s.rig := rfl
@[simp] theorem modInteg_xlat (f : Integ → Integ) (s : State) : (modInteg f s).xlat = s.xlat := rfl
@[simp] theorem modInteg_mem (f : Integ → Integ) (s : State) : (modInteg f s).mem = s.mem := rfl
@[simp] theorem modInteg_integ (f : Integ → Integ) (s : State) : (modInteg f s).integ = f s.integ := rfl
@[simp] theorem modInteg_home (f : Integ → Integ) (s : State) : (modInteg f s).home = s.home := rfl
@[simp] theorem modInteg_order (f : Integ → Integ) (s : State) : (modInteg f s).order = s.order := rfl
@[simp] theorem modInteg_qps (f : Integ → Integ) (s : State) : (modInteg f s).qps = s.qps := rfl
@[simp] theorem modInteg_cmds (f : Integ → Integ) (s : State) : (modInteg f s).cmds = s.cmds := rfl
@[simp] theorem modInteg_cmdStamp (f : Integ → Integ) (s : State) : (modInteg f s).cmdStamp = s.cmdStamp := rfl
@[simp] theorem modInteg_booths (f : Integ → Integ) (s : State) : (modInteg f s).booths = s.booths := rfl
@[simp] theorem modInteg_fab (f : Integ → Integ) (s : State) : (modInteg f s).fab = s.fab := rfl
@[simp] theorem modInteg_ucie (f : Integ → Integ) (s : State) : (modInteg f s).ucie = s.ucie := rfl
@[simp] theorem modInteg_parts (f : Integ → Integ) (s : State) : (modInteg f s).parts = s.parts := rfl
@[simp] theorem modInteg_barker (f : Integ → Integ) (s : State) : (modInteg f s).barker = s.barker := rfl
@[simp] theorem modInteg_banks (f : Integ → Integ) (s : State) : (modInteg f s).banks = s.banks := rfl
@[simp] theorem modInteg_mgmt (f : Integ → Integ) (s : State) : (modInteg f s).mgmt = s.mgmt := rfl
@[simp] theorem modInteg_outbox (f : Integ → Integ) (s : State) : (modInteg f s).outbox = s.outbox := rfl
@[simp] theorem modInteg_freeCount (f : Integ → Integ) (s : State) : (modInteg f s).freeCount = s.freeCount := rfl
@[simp] theorem modInteg_pending (f : Integ → Integ) (s : State) : (modInteg f s).pending = s.pending := rfl
@[simp] theorem modHome_now (f : Home → Home) (s : State) : (modHome f s).now = s.now := rfl
@[simp] theorem modHome_power (f : Home → Home) (s : State) : (modHome f s).power = s.power := rfl
@[simp] theorem modHome_rig (f : Home → Home) (s : State) : (modHome f s).rig = s.rig := rfl
@[simp] theorem modHome_xlat (f : Home → Home) (s : State) : (modHome f s).xlat = s.xlat := rfl
@[simp] theorem modHome_mem (f : Home → Home) (s : State) : (modHome f s).mem = s.mem := rfl
@[simp] theorem modHome_integ (f : Home → Home) (s : State) : (modHome f s).integ = s.integ := rfl
@[simp] theorem modHome_home (f : Home → Home) (s : State) : (modHome f s).home = f s.home := rfl
@[simp] theorem modHome_order (f : Home → Home) (s : State) : (modHome f s).order = s.order := rfl
@[simp] theorem modHome_qps (f : Home → Home) (s : State) : (modHome f s).qps = s.qps := rfl
@[simp] theorem modHome_cmds (f : Home → Home) (s : State) : (modHome f s).cmds = s.cmds := rfl
@[simp] theorem modHome_cmdStamp (f : Home → Home) (s : State) : (modHome f s).cmdStamp = s.cmdStamp := rfl
@[simp] theorem modHome_booths (f : Home → Home) (s : State) : (modHome f s).booths = s.booths := rfl
@[simp] theorem modHome_fab (f : Home → Home) (s : State) : (modHome f s).fab = s.fab := rfl
@[simp] theorem modHome_ucie (f : Home → Home) (s : State) : (modHome f s).ucie = s.ucie := rfl
@[simp] theorem modHome_parts (f : Home → Home) (s : State) : (modHome f s).parts = s.parts := rfl
@[simp] theorem modHome_barker (f : Home → Home) (s : State) : (modHome f s).barker = s.barker := rfl
@[simp] theorem modHome_banks (f : Home → Home) (s : State) : (modHome f s).banks = s.banks := rfl
@[simp] theorem modHome_mgmt (f : Home → Home) (s : State) : (modHome f s).mgmt = s.mgmt := rfl
@[simp] theorem modHome_outbox (f : Home → Home) (s : State) : (modHome f s).outbox = s.outbox := rfl
@[simp] theorem modHome_freeCount (f : Home → Home) (s : State) : (modHome f s).freeCount = s.freeCount := rfl
@[simp] theorem modHome_pending (f : Home → Home) (s : State) : (modHome f s).pending = s.pending := rfl
@[simp] theorem modOrder_now (f : Order → Order) (s : State) : (modOrder f s).now = s.now := rfl
@[simp] theorem modOrder_power (f : Order → Order) (s : State) : (modOrder f s).power = s.power := rfl
@[simp] theorem modOrder_rig (f : Order → Order) (s : State) : (modOrder f s).rig = s.rig := rfl
@[simp] theorem modOrder_xlat (f : Order → Order) (s : State) : (modOrder f s).xlat = s.xlat := rfl
@[simp] theorem modOrder_mem (f : Order → Order) (s : State) : (modOrder f s).mem = s.mem := rfl
@[simp] theorem modOrder_integ (f : Order → Order) (s : State) : (modOrder f s).integ = s.integ := rfl
@[simp] theorem modOrder_home (f : Order → Order) (s : State) : (modOrder f s).home = s.home := rfl
@[simp] theorem modOrder_order (f : Order → Order) (s : State) : (modOrder f s).order = f s.order := rfl
@[simp] theorem modOrder_qps (f : Order → Order) (s : State) : (modOrder f s).qps = s.qps := rfl
@[simp] theorem modOrder_cmds (f : Order → Order) (s : State) : (modOrder f s).cmds = s.cmds := rfl
@[simp] theorem modOrder_cmdStamp (f : Order → Order) (s : State) : (modOrder f s).cmdStamp = s.cmdStamp := rfl
@[simp] theorem modOrder_booths (f : Order → Order) (s : State) : (modOrder f s).booths = s.booths := rfl
@[simp] theorem modOrder_fab (f : Order → Order) (s : State) : (modOrder f s).fab = s.fab := rfl
@[simp] theorem modOrder_ucie (f : Order → Order) (s : State) : (modOrder f s).ucie = s.ucie := rfl
@[simp] theorem modOrder_parts (f : Order → Order) (s : State) : (modOrder f s).parts = s.parts := rfl
@[simp] theorem modOrder_barker (f : Order → Order) (s : State) : (modOrder f s).barker = s.barker := rfl
@[simp] theorem modOrder_banks (f : Order → Order) (s : State) : (modOrder f s).banks = s.banks := rfl
@[simp] theorem modOrder_mgmt (f : Order → Order) (s : State) : (modOrder f s).mgmt = s.mgmt := rfl
@[simp] theorem modOrder_outbox (f : Order → Order) (s : State) : (modOrder f s).outbox = s.outbox := rfl
@[simp] theorem modOrder_freeCount (f : Order → Order) (s : State) : (modOrder f s).freeCount = s.freeCount := rfl
@[simp] theorem modOrder_pending (f : Order → Order) (s : State) : (modOrder f s).pending = s.pending := rfl
@[simp] theorem modFab_now (f : Fab → Fab) (s : State) : (modFab f s).now = s.now := rfl
@[simp] theorem modFab_power (f : Fab → Fab) (s : State) : (modFab f s).power = s.power := rfl
@[simp] theorem modFab_rig (f : Fab → Fab) (s : State) : (modFab f s).rig = s.rig := rfl
@[simp] theorem modFab_xlat (f : Fab → Fab) (s : State) : (modFab f s).xlat = s.xlat := rfl
@[simp] theorem modFab_mem (f : Fab → Fab) (s : State) : (modFab f s).mem = s.mem := rfl
@[simp] theorem modFab_integ (f : Fab → Fab) (s : State) : (modFab f s).integ = s.integ := rfl
@[simp] theorem modFab_home (f : Fab → Fab) (s : State) : (modFab f s).home = s.home := rfl
@[simp] theorem modFab_order (f : Fab → Fab) (s : State) : (modFab f s).order = s.order := rfl
@[simp] theorem modFab_qps (f : Fab → Fab) (s : State) : (modFab f s).qps = s.qps := rfl
@[simp] theorem modFab_cmds (f : Fab → Fab) (s : State) : (modFab f s).cmds = s.cmds := rfl
@[simp] theorem modFab_cmdStamp (f : Fab → Fab) (s : State) : (modFab f s).cmdStamp = s.cmdStamp := rfl
@[simp] theorem modFab_booths (f : Fab → Fab) (s : State) : (modFab f s).booths = s.booths := rfl
@[simp] theorem modFab_fab (f : Fab → Fab) (s : State) : (modFab f s).fab = f s.fab := rfl
@[simp] theorem modFab_ucie (f : Fab → Fab) (s : State) : (modFab f s).ucie = s.ucie := rfl
@[simp] theorem modFab_parts (f : Fab → Fab) (s : State) : (modFab f s).parts = s.parts := rfl
@[simp] theorem modFab_barker (f : Fab → Fab) (s : State) : (modFab f s).barker = s.barker := rfl
@[simp] theorem modFab_banks (f : Fab → Fab) (s : State) : (modFab f s).banks = s.banks := rfl
@[simp] theorem modFab_mgmt (f : Fab → Fab) (s : State) : (modFab f s).mgmt = s.mgmt := rfl
@[simp] theorem modFab_outbox (f : Fab → Fab) (s : State) : (modFab f s).outbox = s.outbox := rfl
@[simp] theorem modFab_freeCount (f : Fab → Fab) (s : State) : (modFab f s).freeCount = s.freeCount := rfl
@[simp] theorem modFab_pending (f : Fab → Fab) (s : State) : (modFab f s).pending = s.pending := rfl
@[simp] theorem modUcie_now (f : Ucie → Ucie) (s : State) : (modUcie f s).now = s.now := rfl
@[simp] theorem modUcie_power (f : Ucie → Ucie) (s : State) : (modUcie f s).power = s.power := rfl
@[simp] theorem modUcie_rig (f : Ucie → Ucie) (s : State) : (modUcie f s).rig = s.rig := rfl
@[simp] theorem modUcie_xlat (f : Ucie → Ucie) (s : State) : (modUcie f s).xlat = s.xlat := rfl
@[simp] theorem modUcie_mem (f : Ucie → Ucie) (s : State) : (modUcie f s).mem = s.mem := rfl
@[simp] theorem modUcie_integ (f : Ucie → Ucie) (s : State) : (modUcie f s).integ = s.integ := rfl
@[simp] theorem modUcie_home (f : Ucie → Ucie) (s : State) : (modUcie f s).home = s.home := rfl
@[simp] theorem modUcie_order (f : Ucie → Ucie) (s : State) : (modUcie f s).order = s.order := rfl
@[simp] theorem modUcie_qps (f : Ucie → Ucie) (s : State) : (modUcie f s).qps = s.qps := rfl
@[simp] theorem modUcie_cmds (f : Ucie → Ucie) (s : State) : (modUcie f s).cmds = s.cmds := rfl
@[simp] theorem modUcie_cmdStamp (f : Ucie → Ucie) (s : State) : (modUcie f s).cmdStamp = s.cmdStamp := rfl
@[simp] theorem modUcie_booths (f : Ucie → Ucie) (s : State) : (modUcie f s).booths = s.booths := rfl
@[simp] theorem modUcie_fab (f : Ucie → Ucie) (s : State) : (modUcie f s).fab = s.fab := rfl
@[simp] theorem modUcie_ucie (f : Ucie → Ucie) (s : State) : (modUcie f s).ucie = f s.ucie := rfl
@[simp] theorem modUcie_parts (f : Ucie → Ucie) (s : State) : (modUcie f s).parts = s.parts := rfl
@[simp] theorem modUcie_barker (f : Ucie → Ucie) (s : State) : (modUcie f s).barker = s.barker := rfl
@[simp] theorem modUcie_banks (f : Ucie → Ucie) (s : State) : (modUcie f s).banks = s.banks := rfl
@[simp] theorem modUcie_mgmt (f : Ucie → Ucie) (s : State) : (modUcie f s).mgmt = s.mgmt := rfl
@[simp] theorem modUcie_outbox (f : Ucie → Ucie) (s : State) : (modUcie f s).outbox = s.outbox := rfl
@[simp] theorem modUcie_freeCount (f : Ucie → Ucie) (s : State) : (modUcie f s).freeCount = s.freeCount := rfl
@[simp] theorem modUcie_pending (f : Ucie → Ucie) (s : State) : (modUcie f s).pending = s.pending := rfl
@[simp] theorem modBarker_now (f : Barker → Barker) (s : State) : (modBarker f s).now = s.now := rfl
@[simp] theorem modBarker_power (f : Barker → Barker) (s : State) : (modBarker f s).power = s.power := rfl
@[simp] theorem modBarker_rig (f : Barker → Barker) (s : State) : (modBarker f s).rig = s.rig := rfl
@[simp] theorem modBarker_xlat (f : Barker → Barker) (s : State) : (modBarker f s).xlat = s.xlat := rfl
@[simp] theorem modBarker_mem (f : Barker → Barker) (s : State) : (modBarker f s).mem = s.mem := rfl
@[simp] theorem modBarker_integ (f : Barker → Barker) (s : State) : (modBarker f s).integ = s.integ := rfl
@[simp] theorem modBarker_home (f : Barker → Barker) (s : State) : (modBarker f s).home = s.home := rfl
@[simp] theorem modBarker_order (f : Barker → Barker) (s : State) : (modBarker f s).order = s.order := rfl
@[simp] theorem modBarker_qps (f : Barker → Barker) (s : State) : (modBarker f s).qps = s.qps := rfl
@[simp] theorem modBarker_cmds (f : Barker → Barker) (s : State) : (modBarker f s).cmds = s.cmds := rfl
@[simp] theorem modBarker_cmdStamp (f : Barker → Barker) (s : State) : (modBarker f s).cmdStamp = s.cmdStamp := rfl
@[simp] theorem modBarker_booths (f : Barker → Barker) (s : State) : (modBarker f s).booths = s.booths := rfl
@[simp] theorem modBarker_fab (f : Barker → Barker) (s : State) : (modBarker f s).fab = s.fab := rfl
@[simp] theorem modBarker_ucie (f : Barker → Barker) (s : State) : (modBarker f s).ucie = s.ucie := rfl
@[simp] theorem modBarker_parts (f : Barker → Barker) (s : State) : (modBarker f s).parts = s.parts := rfl
@[simp] theorem modBarker_barker (f : Barker → Barker) (s : State) : (modBarker f s).barker = f s.barker := rfl
@[simp] theorem modBarker_banks (f : Barker → Barker) (s : State) : (modBarker f s).banks = s.banks := rfl
@[simp] theorem modBarker_mgmt (f : Barker → Barker) (s : State) : (modBarker f s).mgmt = s.mgmt := rfl
@[simp] theorem modBarker_outbox (f : Barker → Barker) (s : State) : (modBarker f s).outbox = s.outbox := rfl
@[simp] theorem modBarker_freeCount (f : Barker → Barker) (s : State) : (modBarker f s).freeCount = s.freeCount := rfl
@[simp] theorem modBarker_pending (f : Barker → Barker) (s : State) : (modBarker f s).pending = s.pending := rfl
@[simp] theorem modMgmt_now (f : Mgmt → Mgmt) (s : State) : (modMgmt f s).now = s.now := rfl
@[simp] theorem modMgmt_power (f : Mgmt → Mgmt) (s : State) : (modMgmt f s).power = s.power := rfl
@[simp] theorem modMgmt_rig (f : Mgmt → Mgmt) (s : State) : (modMgmt f s).rig = s.rig := rfl
@[simp] theorem modMgmt_xlat (f : Mgmt → Mgmt) (s : State) : (modMgmt f s).xlat = s.xlat := rfl
@[simp] theorem modMgmt_mem (f : Mgmt → Mgmt) (s : State) : (modMgmt f s).mem = s.mem := rfl
@[simp] theorem modMgmt_integ (f : Mgmt → Mgmt) (s : State) : (modMgmt f s).integ = s.integ := rfl
@[simp] theorem modMgmt_home (f : Mgmt → Mgmt) (s : State) : (modMgmt f s).home = s.home := rfl
@[simp] theorem modMgmt_order (f : Mgmt → Mgmt) (s : State) : (modMgmt f s).order = s.order := rfl
@[simp] theorem modMgmt_qps (f : Mgmt → Mgmt) (s : State) : (modMgmt f s).qps = s.qps := rfl
@[simp] theorem modMgmt_cmds (f : Mgmt → Mgmt) (s : State) : (modMgmt f s).cmds = s.cmds := rfl
@[simp] theorem modMgmt_cmdStamp (f : Mgmt → Mgmt) (s : State) : (modMgmt f s).cmdStamp = s.cmdStamp := rfl
@[simp] theorem modMgmt_booths (f : Mgmt → Mgmt) (s : State) : (modMgmt f s).booths = s.booths := rfl
@[simp] theorem modMgmt_fab (f : Mgmt → Mgmt) (s : State) : (modMgmt f s).fab = s.fab := rfl
@[simp] theorem modMgmt_ucie (f : Mgmt → Mgmt) (s : State) : (modMgmt f s).ucie = s.ucie := rfl
@[simp] theorem modMgmt_parts (f : Mgmt → Mgmt) (s : State) : (modMgmt f s).parts = s.parts := rfl
@[simp] theorem modMgmt_barker (f : Mgmt → Mgmt) (s : State) : (modMgmt f s).barker = s.barker := rfl
@[simp] theorem modMgmt_banks (f : Mgmt → Mgmt) (s : State) : (modMgmt f s).banks = s.banks := rfl
@[simp] theorem modMgmt_mgmt (f : Mgmt → Mgmt) (s : State) : (modMgmt f s).mgmt = f s.mgmt := rfl
@[simp] theorem modMgmt_outbox (f : Mgmt → Mgmt) (s : State) : (modMgmt f s).outbox = s.outbox := rfl
@[simp] theorem modMgmt_freeCount (f : Mgmt → Mgmt) (s : State) : (modMgmt f s).freeCount = s.freeCount := rfl
@[simp] theorem modMgmt_pending (f : Mgmt → Mgmt) (s : State) : (modMgmt f s).pending = s.pending := rfl
@[simp] theorem modCmds_now (f : List Cmd → List Cmd) (s : State) : (modCmds f s).now = s.now := rfl
@[simp] theorem modCmds_power (f : List Cmd → List Cmd) (s : State) : (modCmds f s).power = s.power := rfl
@[simp] theorem modCmds_rig (f : List Cmd → List Cmd) (s : State) : (modCmds f s).rig = s.rig := rfl
@[simp] theorem modCmds_xlat (f : List Cmd → List Cmd) (s : State) : (modCmds f s).xlat = s.xlat := rfl
@[simp] theorem modCmds_mem (f : List Cmd → List Cmd) (s : State) : (modCmds f s).mem = s.mem := rfl
@[simp] theorem modCmds_integ (f : List Cmd → List Cmd) (s : State) : (modCmds f s).integ = s.integ := rfl
@[simp] theorem modCmds_home (f : List Cmd → List Cmd) (s : State) : (modCmds f s).home = s.home := rfl
@[simp] theorem modCmds_order (f : List Cmd → List Cmd) (s : State) : (modCmds f s).order = s.order := rfl
@[simp] theorem modCmds_qps (f : List Cmd → List Cmd) (s : State) : (modCmds f s).qps = s.qps := rfl
@[simp] theorem modCmds_cmds (f : List Cmd → List Cmd) (s : State) : (modCmds f s).cmds = f s.cmds := rfl
@[simp] theorem modCmds_cmdStamp (f : List Cmd → List Cmd) (s : State) : (modCmds f s).cmdStamp = s.cmdStamp := rfl
@[simp] theorem modCmds_booths (f : List Cmd → List Cmd) (s : State) : (modCmds f s).booths = s.booths := rfl
@[simp] theorem modCmds_fab (f : List Cmd → List Cmd) (s : State) : (modCmds f s).fab = s.fab := rfl
@[simp] theorem modCmds_ucie (f : List Cmd → List Cmd) (s : State) : (modCmds f s).ucie = s.ucie := rfl
@[simp] theorem modCmds_parts (f : List Cmd → List Cmd) (s : State) : (modCmds f s).parts = s.parts := rfl
@[simp] theorem modCmds_barker (f : List Cmd → List Cmd) (s : State) : (modCmds f s).barker = s.barker := rfl
@[simp] theorem modCmds_banks (f : List Cmd → List Cmd) (s : State) : (modCmds f s).banks = s.banks := rfl
@[simp] theorem modCmds_mgmt (f : List Cmd → List Cmd) (s : State) : (modCmds f s).mgmt = s.mgmt := rfl
@[simp] theorem modCmds_outbox (f : List Cmd → List Cmd) (s : State) : (modCmds f s).outbox = s.outbox := rfl
@[simp] theorem modCmds_freeCount (f : List Cmd → List Cmd) (s : State) : (modCmds f s).freeCount = s.freeCount := rfl
@[simp] theorem modCmds_pending (f : List Cmd → List Cmd) (s : State) : (modCmds f s).pending = s.pending := rfl
@[simp] theorem modQps_now (f : Tab Qp → Tab Qp) (s : State) : (modQps f s).now = s.now := rfl
@[simp] theorem modQps_power (f : Tab Qp → Tab Qp) (s : State) : (modQps f s).power = s.power := rfl
@[simp] theorem modQps_rig (f : Tab Qp → Tab Qp) (s : State) : (modQps f s).rig = s.rig := rfl
@[simp] theorem modQps_xlat (f : Tab Qp → Tab Qp) (s : State) : (modQps f s).xlat = s.xlat := rfl
@[simp] theorem modQps_mem (f : Tab Qp → Tab Qp) (s : State) : (modQps f s).mem = s.mem := rfl
@[simp] theorem modQps_integ (f : Tab Qp → Tab Qp) (s : State) : (modQps f s).integ = s.integ := rfl
@[simp] theorem modQps_home (f : Tab Qp → Tab Qp) (s : State) : (modQps f s).home = s.home := rfl
@[simp] theorem modQps_order (f : Tab Qp → Tab Qp) (s : State) : (modQps f s).order = s.order := rfl
@[simp] theorem modQps_qps (f : Tab Qp → Tab Qp) (s : State) : (modQps f s).qps = f s.qps := rfl
@[simp] theorem modQps_cmds (f : Tab Qp → Tab Qp) (s : State) : (modQps f s).cmds = s.cmds := rfl
@[simp] theorem modQps_cmdStamp (f : Tab Qp → Tab Qp) (s : State) : (modQps f s).cmdStamp = s.cmdStamp := rfl
@[simp] theorem modQps_booths (f : Tab Qp → Tab Qp) (s : State) : (modQps f s).booths = s.booths := rfl
@[simp] theorem modQps_fab (f : Tab Qp → Tab Qp) (s : State) : (modQps f s).fab = s.fab := rfl
@[simp] theorem modQps_ucie (f : Tab Qp → Tab Qp) (s : State) : (modQps f s).ucie = s.ucie := rfl
@[simp] theorem modQps_parts (f : Tab Qp → Tab Qp) (s : State) : (modQps f s).parts = s.parts := rfl
@[simp] theorem modQps_barker (f : Tab Qp → Tab Qp) (s : State) : (modQps f s).barker = s.barker := rfl
@[simp] theorem modQps_banks (f : Tab Qp → Tab Qp) (s : State) : (modQps f s).banks = s.banks := rfl
@[simp] theorem modQps_mgmt (f : Tab Qp → Tab Qp) (s : State) : (modQps f s).mgmt = s.mgmt := rfl
@[simp] theorem modQps_outbox (f : Tab Qp → Tab Qp) (s : State) : (modQps f s).outbox = s.outbox := rfl
@[simp] theorem modQps_freeCount (f : Tab Qp → Tab Qp) (s : State) : (modQps f s).freeCount = s.freeCount := rfl
@[simp] theorem modQps_pending (f : Tab Qp → Tab Qp) (s : State) : (modQps f s).pending = s.pending := rfl
@[simp] theorem modParts_now (f : Tab Part → Tab Part) (s : State) : (modParts f s).now = s.now := rfl
@[simp] theorem modParts_power (f : Tab Part → Tab Part) (s : State) : (modParts f s).power = s.power := rfl
@[simp] theorem modParts_rig (f : Tab Part → Tab Part) (s : State) : (modParts f s).rig = s.rig := rfl
@[simp] theorem modParts_xlat (f : Tab Part → Tab Part) (s : State) : (modParts f s).xlat = s.xlat := rfl
@[simp] theorem modParts_mem (f : Tab Part → Tab Part) (s : State) : (modParts f s).mem = s.mem := rfl
@[simp] theorem modParts_integ (f : Tab Part → Tab Part) (s : State) : (modParts f s).integ = s.integ := rfl
@[simp] theorem modParts_home (f : Tab Part → Tab Part) (s : State) : (modParts f s).home = s.home := rfl
@[simp] theorem modParts_order (f : Tab Part → Tab Part) (s : State) : (modParts f s).order = s.order := rfl
@[simp] theorem modParts_qps (f : Tab Part → Tab Part) (s : State) : (modParts f s).qps = s.qps := rfl
@[simp] theorem modParts_cmds (f : Tab Part → Tab Part) (s : State) : (modParts f s).cmds = s.cmds := rfl
@[simp] theorem modParts_cmdStamp (f : Tab Part → Tab Part) (s : State) : (modParts f s).cmdStamp = s.cmdStamp := rfl
@[simp] theorem modParts_booths (f : Tab Part → Tab Part) (s : State) : (modParts f s).booths = s.booths := rfl
@[simp] theorem modParts_fab (f : Tab Part → Tab Part) (s : State) : (modParts f s).fab = s.fab := rfl
@[simp] theorem modParts_ucie (f : Tab Part → Tab Part) (s : State) : (modParts f s).ucie = s.ucie := rfl
@[simp] theorem modParts_parts (f : Tab Part → Tab Part) (s : State) : (modParts f s).parts = f s.parts := rfl
@[simp] theorem modParts_barker (f : Tab Part → Tab Part) (s : State) : (modParts f s).barker = s.barker := rfl
@[simp] theorem modParts_banks (f : Tab Part → Tab Part) (s : State) : (modParts f s).banks = s.banks := rfl
@[simp] theorem modParts_mgmt (f : Tab Part → Tab Part) (s : State) : (modParts f s).mgmt = s.mgmt := rfl
@[simp] theorem modParts_outbox (f : Tab Part → Tab Part) (s : State) : (modParts f s).outbox = s.outbox := rfl
@[simp] theorem modParts_freeCount (f : Tab Part → Tab Part) (s : State) : (modParts f s).freeCount = s.freeCount := rfl
@[simp] theorem modParts_pending (f : Tab Part → Tab Part) (s : State) : (modParts f s).pending = s.pending := rfl
@[simp] theorem modBooths_now (f : Tab BoothSt → Tab BoothSt) (s : State) : (modBooths f s).now = s.now := rfl
@[simp] theorem modBooths_power (f : Tab BoothSt → Tab BoothSt) (s : State) : (modBooths f s).power = s.power := rfl
@[simp] theorem modBooths_rig (f : Tab BoothSt → Tab BoothSt) (s : State) : (modBooths f s).rig = s.rig := rfl
@[simp] theorem modBooths_xlat (f : Tab BoothSt → Tab BoothSt) (s : State) : (modBooths f s).xlat = s.xlat := rfl
@[simp] theorem modBooths_mem (f : Tab BoothSt → Tab BoothSt) (s : State) : (modBooths f s).mem = s.mem := rfl
@[simp] theorem modBooths_integ (f : Tab BoothSt → Tab BoothSt) (s : State) : (modBooths f s).integ = s.integ := rfl
@[simp] theorem modBooths_home (f : Tab BoothSt → Tab BoothSt) (s : State) : (modBooths f s).home = s.home := rfl
@[simp] theorem modBooths_order (f : Tab BoothSt → Tab BoothSt) (s : State) : (modBooths f s).order = s.order := rfl
@[simp] theorem modBooths_qps (f : Tab BoothSt → Tab BoothSt) (s : State) : (modBooths f s).qps = s.qps := rfl
@[simp] theorem modBooths_cmds (f : Tab BoothSt → Tab BoothSt) (s : State) : (modBooths f s).cmds = s.cmds := rfl
@[simp] theorem modBooths_cmdStamp (f : Tab BoothSt → Tab BoothSt) (s : State) : (modBooths f s).cmdStamp = s.cmdStamp := rfl
@[simp] theorem modBooths_booths (f : Tab BoothSt → Tab BoothSt) (s : State) : (modBooths f s).booths = f s.booths := rfl
@[simp] theorem modBooths_fab (f : Tab BoothSt → Tab BoothSt) (s : State) : (modBooths f s).fab = s.fab := rfl
@[simp] theorem modBooths_ucie (f : Tab BoothSt → Tab BoothSt) (s : State) : (modBooths f s).ucie = s.ucie := rfl
@[simp] theorem modBooths_parts (f : Tab BoothSt → Tab BoothSt) (s : State) : (modBooths f s).parts = s.parts := rfl
@[simp] theorem modBooths_barker (f : Tab BoothSt → Tab BoothSt) (s : State) : (modBooths f s).barker = s.barker := rfl
@[simp] theorem modBooths_banks (f : Tab BoothSt → Tab BoothSt) (s : State) : (modBooths f s).banks = s.banks := rfl
@[simp] theorem modBooths_mgmt (f : Tab BoothSt → Tab BoothSt) (s : State) : (modBooths f s).mgmt = s.mgmt := rfl
@[simp] theorem modBooths_outbox (f : Tab BoothSt → Tab BoothSt) (s : State) : (modBooths f s).outbox = s.outbox := rfl
@[simp] theorem modBooths_freeCount (f : Tab BoothSt → Tab BoothSt) (s : State) : (modBooths f s).freeCount = s.freeCount := rfl
@[simp] theorem modBooths_pending (f : Tab BoothSt → Tab BoothSt) (s : State) : (modBooths f s).pending = s.pending := rfl
@[simp] theorem modBanks_now (f : Tab Bank → Tab Bank) (s : State) : (modBanks f s).now = s.now := rfl
@[simp] theorem modBanks_power (f : Tab Bank → Tab Bank) (s : State) : (modBanks f s).power = s.power := rfl
@[simp] theorem modBanks_rig (f : Tab Bank → Tab Bank) (s : State) : (modBanks f s).rig = s.rig := rfl
@[simp] theorem modBanks_xlat (f : Tab Bank → Tab Bank) (s : State) : (modBanks f s).xlat = s.xlat := rfl
@[simp] theorem modBanks_mem (f : Tab Bank → Tab Bank) (s : State) : (modBanks f s).mem = s.mem := rfl
@[simp] theorem modBanks_integ (f : Tab Bank → Tab Bank) (s : State) : (modBanks f s).integ = s.integ := rfl
@[simp] theorem modBanks_home (f : Tab Bank → Tab Bank) (s : State) : (modBanks f s).home = s.home := rfl
@[simp] theorem modBanks_order (f : Tab Bank → Tab Bank) (s : State) : (modBanks f s).order = s.order := rfl
@[simp] theorem modBanks_qps (f : Tab Bank → Tab Bank) (s : State) : (modBanks f s).qps = s.qps := rfl
@[simp] theorem modBanks_cmds (f : Tab Bank → Tab Bank) (s : State) : (modBanks f s).cmds = s.cmds := rfl
@[simp] theorem modBanks_cmdStamp (f : Tab Bank → Tab Bank) (s : State) : (modBanks f s).cmdStamp = s.cmdStamp := rfl
@[simp] theorem modBanks_booths (f : Tab Bank → Tab Bank) (s : State) : (modBanks f s).booths = s.booths := rfl
@[simp] theorem modBanks_fab (f : Tab Bank → Tab Bank) (s : State) : (modBanks f s).fab = s.fab := rfl
@[simp] theorem modBanks_ucie (f : Tab Bank → Tab Bank) (s : State) : (modBanks f s).ucie = s.ucie := rfl
@[simp] theorem modBanks_parts (f : Tab Bank → Tab Bank) (s : State) : (modBanks f s).parts = s.parts := rfl
@[simp] theorem modBanks_barker (f : Tab Bank → Tab Bank) (s : State) : (modBanks f s).barker = s.barker := rfl
@[simp] theorem modBanks_banks (f : Tab Bank → Tab Bank) (s : State) : (modBanks f s).banks = f s.banks := rfl
@[simp] theorem modBanks_mgmt (f : Tab Bank → Tab Bank) (s : State) : (modBanks f s).mgmt = s.mgmt := rfl
@[simp] theorem modBanks_outbox (f : Tab Bank → Tab Bank) (s : State) : (modBanks f s).outbox = s.outbox := rfl
@[simp] theorem modBanks_freeCount (f : Tab Bank → Tab Bank) (s : State) : (modBanks f s).freeCount = s.freeCount := rfl
@[simp] theorem modBanks_pending (f : Tab Bank → Tab Bank) (s : State) : (modBanks f s).pending = s.pending := rfl

/-! ### What leaves the device -/

@[simp] theorem emit_now (x : Out) (s : State) : (emit x s).now = s.now := rfl
@[simp] theorem emit_power (x : Out) (s : State) : (emit x s).power = s.power := rfl
@[simp] theorem emit_rig (x : Out) (s : State) : (emit x s).rig = s.rig := rfl
@[simp] theorem emit_xlat (x : Out) (s : State) : (emit x s).xlat = s.xlat := rfl
@[simp] theorem emit_mem (x : Out) (s : State) : (emit x s).mem = s.mem := rfl
@[simp] theorem emit_integ (x : Out) (s : State) : (emit x s).integ = s.integ := rfl
@[simp] theorem emit_home (x : Out) (s : State) : (emit x s).home = s.home := rfl
@[simp] theorem emit_order (x : Out) (s : State) : (emit x s).order = s.order := rfl
@[simp] theorem emit_qps (x : Out) (s : State) : (emit x s).qps = s.qps := rfl
@[simp] theorem emit_cmds (x : Out) (s : State) : (emit x s).cmds = s.cmds := rfl
@[simp] theorem emit_cmdStamp (x : Out) (s : State) : (emit x s).cmdStamp = s.cmdStamp := rfl
@[simp] theorem emit_booths (x : Out) (s : State) : (emit x s).booths = s.booths := rfl
@[simp] theorem emit_fab (x : Out) (s : State) : (emit x s).fab = s.fab := rfl
@[simp] theorem emit_ucie (x : Out) (s : State) : (emit x s).ucie = s.ucie := rfl
@[simp] theorem emit_parts (x : Out) (s : State) : (emit x s).parts = s.parts := rfl
@[simp] theorem emit_barker (x : Out) (s : State) : (emit x s).barker = s.barker := rfl
@[simp] theorem emit_banks (x : Out) (s : State) : (emit x s).banks = s.banks := rfl
@[simp] theorem emit_mgmt (x : Out) (s : State) : (emit x s).mgmt = s.mgmt := rfl
@[simp] theorem emit_outbox (x : Out) (s : State) : (emit x s).outbox = s.outbox ++ [x] := rfl
@[simp] theorem emit_freeCount (x : Out) (s : State) : (emit x s).freeCount = s.freeCount := rfl
@[simp] theorem emit_pending (x : Out) (s : State) : (emit x s).pending = s.pending := rfl

/-! ### Updates of one entry: the other groups -/

@[simp] theorem modQp_now (i : Nat) (f : Qp → Qp) (s : State) : (modQp i f s).now = s.now := rfl
@[simp] theorem modQp_power (i : Nat) (f : Qp → Qp) (s : State) : (modQp i f s).power = s.power := rfl
@[simp] theorem modQp_rig (i : Nat) (f : Qp → Qp) (s : State) : (modQp i f s).rig = s.rig := rfl
@[simp] theorem modQp_xlat (i : Nat) (f : Qp → Qp) (s : State) : (modQp i f s).xlat = s.xlat := rfl
@[simp] theorem modQp_mem (i : Nat) (f : Qp → Qp) (s : State) : (modQp i f s).mem = s.mem := rfl
@[simp] theorem modQp_integ (i : Nat) (f : Qp → Qp) (s : State) : (modQp i f s).integ = s.integ := rfl
@[simp] theorem modQp_home (i : Nat) (f : Qp → Qp) (s : State) : (modQp i f s).home = s.home := rfl
@[simp] theorem modQp_order (i : Nat) (f : Qp → Qp) (s : State) : (modQp i f s).order = s.order := rfl
@[simp] theorem modQp_cmds (i : Nat) (f : Qp → Qp) (s : State) : (modQp i f s).cmds = s.cmds := rfl
@[simp] theorem modQp_cmdStamp (i : Nat) (f : Qp → Qp) (s : State) : (modQp i f s).cmdStamp = s.cmdStamp := rfl
@[simp] theorem modQp_booths (i : Nat) (f : Qp → Qp) (s : State) : (modQp i f s).booths = s.booths := rfl
@[simp] theorem modQp_fab (i : Nat) (f : Qp → Qp) (s : State) : (modQp i f s).fab = s.fab := rfl
@[simp] theorem modQp_ucie (i : Nat) (f : Qp → Qp) (s : State) : (modQp i f s).ucie = s.ucie := rfl
@[simp] theorem modQp_parts (i : Nat) (f : Qp → Qp) (s : State) : (modQp i f s).parts = s.parts := rfl
@[simp] theorem modQp_barker (i : Nat) (f : Qp → Qp) (s : State) : (modQp i f s).barker = s.barker := rfl
@[simp] theorem modQp_banks (i : Nat) (f : Qp → Qp) (s : State) : (modQp i f s).banks = s.banks := rfl
@[simp] theorem modQp_mgmt (i : Nat) (f : Qp → Qp) (s : State) : (modQp i f s).mgmt = s.mgmt := rfl
@[simp] theorem modQp_outbox (i : Nat) (f : Qp → Qp) (s : State) : (modQp i f s).outbox = s.outbox := rfl
@[simp] theorem modQp_freeCount (i : Nat) (f : Qp → Qp) (s : State) : (modQp i f s).freeCount = s.freeCount := rfl
@[simp] theorem modQp_pending (i : Nat) (f : Qp → Qp) (s : State) : (modQp i f s).pending = s.pending := rfl
@[simp] theorem modPart_now (i : Nat) (f : Part → Part) (s : State) : (modPart i f s).now = s.now := rfl
@[simp] theorem modPart_power (i : Nat) (f : Part → Part) (s : State) : (modPart i f s).power = s.power := rfl
@[simp] theorem modPart_rig (i : Nat) (f : Part → Part) (s : State) : (modPart i f s).rig = s.rig := rfl
@[simp] theorem modPart_xlat (i : Nat) (f : Part → Part) (s : State) : (modPart i f s).xlat = s.xlat := rfl
@[simp] theorem modPart_mem (i : Nat) (f : Part → Part) (s : State) : (modPart i f s).mem = s.mem := rfl
@[simp] theorem modPart_integ (i : Nat) (f : Part → Part) (s : State) : (modPart i f s).integ = s.integ := rfl
@[simp] theorem modPart_home (i : Nat) (f : Part → Part) (s : State) : (modPart i f s).home = s.home := rfl
@[simp] theorem modPart_order (i : Nat) (f : Part → Part) (s : State) : (modPart i f s).order = s.order := rfl
@[simp] theorem modPart_qps (i : Nat) (f : Part → Part) (s : State) : (modPart i f s).qps = s.qps := rfl
@[simp] theorem modPart_cmds (i : Nat) (f : Part → Part) (s : State) : (modPart i f s).cmds = s.cmds := rfl
@[simp] theorem modPart_cmdStamp (i : Nat) (f : Part → Part) (s : State) : (modPart i f s).cmdStamp = s.cmdStamp := rfl
@[simp] theorem modPart_booths (i : Nat) (f : Part → Part) (s : State) : (modPart i f s).booths = s.booths := rfl
@[simp] theorem modPart_fab (i : Nat) (f : Part → Part) (s : State) : (modPart i f s).fab = s.fab := rfl
@[simp] theorem modPart_ucie (i : Nat) (f : Part → Part) (s : State) : (modPart i f s).ucie = s.ucie := rfl
@[simp] theorem modPart_barker (i : Nat) (f : Part → Part) (s : State) : (modPart i f s).barker = s.barker := rfl
@[simp] theorem modPart_banks (i : Nat) (f : Part → Part) (s : State) : (modPart i f s).banks = s.banks := rfl
@[simp] theorem modPart_mgmt (i : Nat) (f : Part → Part) (s : State) : (modPart i f s).mgmt = s.mgmt := rfl
@[simp] theorem modPart_outbox (i : Nat) (f : Part → Part) (s : State) : (modPart i f s).outbox = s.outbox := rfl
@[simp] theorem modPart_freeCount (i : Nat) (f : Part → Part) (s : State) : (modPart i f s).freeCount = s.freeCount := rfl
@[simp] theorem modPart_pending (i : Nat) (f : Part → Part) (s : State) : (modPart i f s).pending = s.pending := rfl
@[simp] theorem modBooth_now (i : Nat) (f : BoothSt → BoothSt) (s : State) : (modBooth i f s).now = s.now := rfl
@[simp] theorem modBooth_power (i : Nat) (f : BoothSt → BoothSt) (s : State) : (modBooth i f s).power = s.power := rfl
@[simp] theorem modBooth_rig (i : Nat) (f : BoothSt → BoothSt) (s : State) : (modBooth i f s).rig = s.rig := rfl
@[simp] theorem modBooth_xlat (i : Nat) (f : BoothSt → BoothSt) (s : State) : (modBooth i f s).xlat = s.xlat := rfl
@[simp] theorem modBooth_mem (i : Nat) (f : BoothSt → BoothSt) (s : State) : (modBooth i f s).mem = s.mem := rfl
@[simp] theorem modBooth_integ (i : Nat) (f : BoothSt → BoothSt) (s : State) : (modBooth i f s).integ = s.integ := rfl
@[simp] theorem modBooth_home (i : Nat) (f : BoothSt → BoothSt) (s : State) : (modBooth i f s).home = s.home := rfl
@[simp] theorem modBooth_order (i : Nat) (f : BoothSt → BoothSt) (s : State) : (modBooth i f s).order = s.order := rfl
@[simp] theorem modBooth_qps (i : Nat) (f : BoothSt → BoothSt) (s : State) : (modBooth i f s).qps = s.qps := rfl
@[simp] theorem modBooth_cmds (i : Nat) (f : BoothSt → BoothSt) (s : State) : (modBooth i f s).cmds = s.cmds := rfl
@[simp] theorem modBooth_cmdStamp (i : Nat) (f : BoothSt → BoothSt) (s : State) : (modBooth i f s).cmdStamp = s.cmdStamp := rfl
@[simp] theorem modBooth_fab (i : Nat) (f : BoothSt → BoothSt) (s : State) : (modBooth i f s).fab = s.fab := rfl
@[simp] theorem modBooth_ucie (i : Nat) (f : BoothSt → BoothSt) (s : State) : (modBooth i f s).ucie = s.ucie := rfl
@[simp] theorem modBooth_parts (i : Nat) (f : BoothSt → BoothSt) (s : State) : (modBooth i f s).parts = s.parts := rfl
@[simp] theorem modBooth_barker (i : Nat) (f : BoothSt → BoothSt) (s : State) : (modBooth i f s).barker = s.barker := rfl
@[simp] theorem modBooth_banks (i : Nat) (f : BoothSt → BoothSt) (s : State) : (modBooth i f s).banks = s.banks := rfl
@[simp] theorem modBooth_mgmt (i : Nat) (f : BoothSt → BoothSt) (s : State) : (modBooth i f s).mgmt = s.mgmt := rfl
@[simp] theorem modBooth_outbox (i : Nat) (f : BoothSt → BoothSt) (s : State) : (modBooth i f s).outbox = s.outbox := rfl
@[simp] theorem modBooth_freeCount (i : Nat) (f : BoothSt → BoothSt) (s : State) : (modBooth i f s).freeCount = s.freeCount := rfl
@[simp] theorem modBooth_pending (i : Nat) (f : BoothSt → BoothSt) (s : State) : (modBooth i f s).pending = s.pending := rfl
@[simp] theorem modLink_now (i : Nat) (f : Link → Link) (s : State) : (modLink i f s).now = s.now := rfl
@[simp] theorem modLink_power (i : Nat) (f : Link → Link) (s : State) : (modLink i f s).power = s.power := rfl
@[simp] theorem modLink_rig (i : Nat) (f : Link → Link) (s : State) : (modLink i f s).rig = s.rig := rfl
@[simp] theorem modLink_xlat (i : Nat) (f : Link → Link) (s : State) : (modLink i f s).xlat = s.xlat := rfl
@[simp] theorem modLink_mem (i : Nat) (f : Link → Link) (s : State) : (modLink i f s).mem = s.mem := rfl
@[simp] theorem modLink_integ (i : Nat) (f : Link → Link) (s : State) : (modLink i f s).integ = s.integ := rfl
@[simp] theorem modLink_home (i : Nat) (f : Link → Link) (s : State) : (modLink i f s).home = s.home := rfl
@[simp] theorem modLink_order (i : Nat) (f : Link → Link) (s : State) : (modLink i f s).order = s.order := rfl
@[simp] theorem modLink_qps (i : Nat) (f : Link → Link) (s : State) : (modLink i f s).qps = s.qps := rfl
@[simp] theorem modLink_cmds (i : Nat) (f : Link → Link) (s : State) : (modLink i f s).cmds = s.cmds := rfl
@[simp] theorem modLink_cmdStamp (i : Nat) (f : Link → Link) (s : State) : (modLink i f s).cmdStamp = s.cmdStamp := rfl
@[simp] theorem modLink_booths (i : Nat) (f : Link → Link) (s : State) : (modLink i f s).booths = s.booths := rfl
@[simp] theorem modLink_ucie (i : Nat) (f : Link → Link) (s : State) : (modLink i f s).ucie = s.ucie := rfl
@[simp] theorem modLink_parts (i : Nat) (f : Link → Link) (s : State) : (modLink i f s).parts = s.parts := rfl
@[simp] theorem modLink_barker (i : Nat) (f : Link → Link) (s : State) : (modLink i f s).barker = s.barker := rfl
@[simp] theorem modLink_banks (i : Nat) (f : Link → Link) (s : State) : (modLink i f s).banks = s.banks := rfl
@[simp] theorem modLink_mgmt (i : Nat) (f : Link → Link) (s : State) : (modLink i f s).mgmt = s.mgmt := rfl
@[simp] theorem modLink_outbox (i : Nat) (f : Link → Link) (s : State) : (modLink i f s).outbox = s.outbox := rfl
@[simp] theorem modLink_freeCount (i : Nat) (f : Link → Link) (s : State) : (modLink i f s).freeCount = s.freeCount := rfl
@[simp] theorem modLink_pending (i : Nat) (f : Link → Link) (s : State) : (modLink i f s).pending = s.pending := rfl
@[simp] theorem modPort_now (i : Nat) (f : PortSt → PortSt) (s : State) : (modPort i f s).now = s.now := rfl
@[simp] theorem modPort_power (i : Nat) (f : PortSt → PortSt) (s : State) : (modPort i f s).power = s.power := rfl
@[simp] theorem modPort_rig (i : Nat) (f : PortSt → PortSt) (s : State) : (modPort i f s).rig = s.rig := rfl
@[simp] theorem modPort_xlat (i : Nat) (f : PortSt → PortSt) (s : State) : (modPort i f s).xlat = s.xlat := rfl
@[simp] theorem modPort_mem (i : Nat) (f : PortSt → PortSt) (s : State) : (modPort i f s).mem = s.mem := rfl
@[simp] theorem modPort_integ (i : Nat) (f : PortSt → PortSt) (s : State) : (modPort i f s).integ = s.integ := rfl
@[simp] theorem modPort_home (i : Nat) (f : PortSt → PortSt) (s : State) : (modPort i f s).home = s.home := rfl
@[simp] theorem modPort_order (i : Nat) (f : PortSt → PortSt) (s : State) : (modPort i f s).order = s.order := rfl
@[simp] theorem modPort_qps (i : Nat) (f : PortSt → PortSt) (s : State) : (modPort i f s).qps = s.qps := rfl
@[simp] theorem modPort_cmds (i : Nat) (f : PortSt → PortSt) (s : State) : (modPort i f s).cmds = s.cmds := rfl
@[simp] theorem modPort_cmdStamp (i : Nat) (f : PortSt → PortSt) (s : State) : (modPort i f s).cmdStamp = s.cmdStamp := rfl
@[simp] theorem modPort_booths (i : Nat) (f : PortSt → PortSt) (s : State) : (modPort i f s).booths = s.booths := rfl
@[simp] theorem modPort_ucie (i : Nat) (f : PortSt → PortSt) (s : State) : (modPort i f s).ucie = s.ucie := rfl
@[simp] theorem modPort_parts (i : Nat) (f : PortSt → PortSt) (s : State) : (modPort i f s).parts = s.parts := rfl
@[simp] theorem modPort_barker (i : Nat) (f : PortSt → PortSt) (s : State) : (modPort i f s).barker = s.barker := rfl
@[simp] theorem modPort_banks (i : Nat) (f : PortSt → PortSt) (s : State) : (modPort i f s).banks = s.banks := rfl
@[simp] theorem modPort_mgmt (i : Nat) (f : PortSt → PortSt) (s : State) : (modPort i f s).mgmt = s.mgmt := rfl
@[simp] theorem modPort_outbox (i : Nat) (f : PortSt → PortSt) (s : State) : (modPort i f s).outbox = s.outbox := rfl
@[simp] theorem modPort_freeCount (i : Nat) (f : PortSt → PortSt) (s : State) : (modPort i f s).freeCount = s.freeCount := rfl
@[simp] theorem modPort_pending (i : Nat) (f : PortSt → PortSt) (s : State) : (modPort i f s).pending = s.pending := rfl
@[simp] theorem modSite_now (i : Nat) (f : Site → Site) (s : State) : (modSite i f s).now = s.now := rfl
@[simp] theorem modSite_power (i : Nat) (f : Site → Site) (s : State) : (modSite i f s).power = s.power := rfl
@[simp] theorem modSite_rig (i : Nat) (f : Site → Site) (s : State) : (modSite i f s).rig = s.rig := rfl
@[simp] theorem modSite_xlat (i : Nat) (f : Site → Site) (s : State) : (modSite i f s).xlat = s.xlat := rfl
@[simp] theorem modSite_mem (i : Nat) (f : Site → Site) (s : State) : (modSite i f s).mem = s.mem := rfl
@[simp] theorem modSite_integ (i : Nat) (f : Site → Site) (s : State) : (modSite i f s).integ = s.integ := rfl
@[simp] theorem modSite_home (i : Nat) (f : Site → Site) (s : State) : (modSite i f s).home = s.home := rfl
@[simp] theorem modSite_order (i : Nat) (f : Site → Site) (s : State) : (modSite i f s).order = s.order := rfl
@[simp] theorem modSite_qps (i : Nat) (f : Site → Site) (s : State) : (modSite i f s).qps = s.qps := rfl
@[simp] theorem modSite_cmds (i : Nat) (f : Site → Site) (s : State) : (modSite i f s).cmds = s.cmds := rfl
@[simp] theorem modSite_cmdStamp (i : Nat) (f : Site → Site) (s : State) : (modSite i f s).cmdStamp = s.cmdStamp := rfl
@[simp] theorem modSite_booths (i : Nat) (f : Site → Site) (s : State) : (modSite i f s).booths = s.booths := rfl
@[simp] theorem modSite_fab (i : Nat) (f : Site → Site) (s : State) : (modSite i f s).fab = s.fab := rfl
@[simp] theorem modSite_parts (i : Nat) (f : Site → Site) (s : State) : (modSite i f s).parts = s.parts := rfl
@[simp] theorem modSite_barker (i : Nat) (f : Site → Site) (s : State) : (modSite i f s).barker = s.barker := rfl
@[simp] theorem modSite_banks (i : Nat) (f : Site → Site) (s : State) : (modSite i f s).banks = s.banks := rfl
@[simp] theorem modSite_mgmt (i : Nat) (f : Site → Site) (s : State) : (modSite i f s).mgmt = s.mgmt := rfl
@[simp] theorem modSite_outbox (i : Nat) (f : Site → Site) (s : State) : (modSite i f s).outbox = s.outbox := rfl
@[simp] theorem modSite_freeCount (i : Nat) (f : Site → Site) (s : State) : (modSite i f s).freeCount = s.freeCount := rfl
@[simp] theorem modSite_pending (i : Nat) (f : Site → Site) (s : State) : (modSite i f s).pending = s.pending := rfl
@[simp] theorem modBank_now (i : Nat) (f : Bank → Bank) (s : State) : (modBank i f s).now = s.now := rfl
@[simp] theorem modBank_power (i : Nat) (f : Bank → Bank) (s : State) : (modBank i f s).power = s.power := rfl
@[simp] theorem modBank_rig (i : Nat) (f : Bank → Bank) (s : State) : (modBank i f s).rig = s.rig := rfl
@[simp] theorem modBank_xlat (i : Nat) (f : Bank → Bank) (s : State) : (modBank i f s).xlat = s.xlat := rfl
@[simp] theorem modBank_mem (i : Nat) (f : Bank → Bank) (s : State) : (modBank i f s).mem = s.mem := rfl
@[simp] theorem modBank_integ (i : Nat) (f : Bank → Bank) (s : State) : (modBank i f s).integ = s.integ := rfl
@[simp] theorem modBank_home (i : Nat) (f : Bank → Bank) (s : State) : (modBank i f s).home = s.home := rfl
@[simp] theorem modBank_order (i : Nat) (f : Bank → Bank) (s : State) : (modBank i f s).order = s.order := rfl
@[simp] theorem modBank_qps (i : Nat) (f : Bank → Bank) (s : State) : (modBank i f s).qps = s.qps := rfl
@[simp] theorem modBank_cmds (i : Nat) (f : Bank → Bank) (s : State) : (modBank i f s).cmds = s.cmds := rfl
@[simp] theorem modBank_cmdStamp (i : Nat) (f : Bank → Bank) (s : State) : (modBank i f s).cmdStamp = s.cmdStamp := rfl
@[simp] theorem modBank_booths (i : Nat) (f : Bank → Bank) (s : State) : (modBank i f s).booths = s.booths := rfl
@[simp] theorem modBank_fab (i : Nat) (f : Bank → Bank) (s : State) : (modBank i f s).fab = s.fab := rfl
@[simp] theorem modBank_ucie (i : Nat) (f : Bank → Bank) (s : State) : (modBank i f s).ucie = s.ucie := rfl
@[simp] theorem modBank_parts (i : Nat) (f : Bank → Bank) (s : State) : (modBank i f s).parts = s.parts := rfl
@[simp] theorem modBank_barker (i : Nat) (f : Bank → Bank) (s : State) : (modBank i f s).barker = s.barker := rfl
@[simp] theorem modBank_mgmt (i : Nat) (f : Bank → Bank) (s : State) : (modBank i f s).mgmt = s.mgmt := rfl
@[simp] theorem modBank_outbox (i : Nat) (f : Bank → Bank) (s : State) : (modBank i f s).outbox = s.outbox := rfl
@[simp] theorem modBank_freeCount (i : Nat) (f : Bank → Bank) (s : State) : (modBank i f s).freeCount = s.freeCount := rfl
@[simp] theorem modBank_pending (i : Nat) (f : Bank → Bank) (s : State) : (modBank i f s).pending = s.pending := rfl
@[simp] theorem modStack_now (i : Nat) (f : MemStack → MemStack) (s : State) : (modStack i f s).now = s.now := rfl
@[simp] theorem modStack_power (i : Nat) (f : MemStack → MemStack) (s : State) : (modStack i f s).power = s.power := rfl
@[simp] theorem modStack_rig (i : Nat) (f : MemStack → MemStack) (s : State) : (modStack i f s).rig = s.rig := rfl
@[simp] theorem modStack_xlat (i : Nat) (f : MemStack → MemStack) (s : State) : (modStack i f s).xlat = s.xlat := rfl
@[simp] theorem modStack_integ (i : Nat) (f : MemStack → MemStack) (s : State) : (modStack i f s).integ = s.integ := rfl
@[simp] theorem modStack_home (i : Nat) (f : MemStack → MemStack) (s : State) : (modStack i f s).home = s.home := rfl
@[simp] theorem modStack_order (i : Nat) (f : MemStack → MemStack) (s : State) : (modStack i f s).order = s.order := rfl
@[simp] theorem modStack_qps (i : Nat) (f : MemStack → MemStack) (s : State) : (modStack i f s).qps = s.qps := rfl
@[simp] theorem modStack_cmds (i : Nat) (f : MemStack → MemStack) (s : State) : (modStack i f s).cmds = s.cmds := rfl
@[simp] theorem modStack_cmdStamp (i : Nat) (f : MemStack → MemStack) (s : State) : (modStack i f s).cmdStamp = s.cmdStamp := rfl
@[simp] theorem modStack_booths (i : Nat) (f : MemStack → MemStack) (s : State) : (modStack i f s).booths = s.booths := rfl
@[simp] theorem modStack_fab (i : Nat) (f : MemStack → MemStack) (s : State) : (modStack i f s).fab = s.fab := rfl
@[simp] theorem modStack_ucie (i : Nat) (f : MemStack → MemStack) (s : State) : (modStack i f s).ucie = s.ucie := rfl
@[simp] theorem modStack_parts (i : Nat) (f : MemStack → MemStack) (s : State) : (modStack i f s).parts = s.parts := rfl
@[simp] theorem modStack_barker (i : Nat) (f : MemStack → MemStack) (s : State) : (modStack i f s).barker = s.barker := rfl
@[simp] theorem modStack_banks (i : Nat) (f : MemStack → MemStack) (s : State) : (modStack i f s).banks = s.banks := rfl
@[simp] theorem modStack_mgmt (i : Nat) (f : MemStack → MemStack) (s : State) : (modStack i f s).mgmt = s.mgmt := rfl
@[simp] theorem modStack_outbox (i : Nat) (f : MemStack → MemStack) (s : State) : (modStack i f s).outbox = s.outbox := rfl
@[simp] theorem modStack_freeCount (i : Nat) (f : MemStack → MemStack) (s : State) : (modStack i f s).freeCount = s.freeCount := rfl
@[simp] theorem modStack_pending (i : Nat) (f : MemStack → MemStack) (s : State) : (modStack i f s).pending = s.pending := rfl
@[simp] theorem modMirror_now (i : Nat) (f : Mirror → Mirror) (s : State) : (modMirror i f s).now = s.now := rfl
@[simp] theorem modMirror_power (i : Nat) (f : Mirror → Mirror) (s : State) : (modMirror i f s).power = s.power := rfl
@[simp] theorem modMirror_rig (i : Nat) (f : Mirror → Mirror) (s : State) : (modMirror i f s).rig = s.rig := rfl
@[simp] theorem modMirror_xlat (i : Nat) (f : Mirror → Mirror) (s : State) : (modMirror i f s).xlat = s.xlat := rfl
@[simp] theorem modMirror_mem (i : Nat) (f : Mirror → Mirror) (s : State) : (modMirror i f s).mem = s.mem := rfl
@[simp] theorem modMirror_home (i : Nat) (f : Mirror → Mirror) (s : State) : (modMirror i f s).home = s.home := rfl
@[simp] theorem modMirror_order (i : Nat) (f : Mirror → Mirror) (s : State) : (modMirror i f s).order = s.order := rfl
@[simp] theorem modMirror_qps (i : Nat) (f : Mirror → Mirror) (s : State) : (modMirror i f s).qps = s.qps := rfl
@[simp] theorem modMirror_cmds (i : Nat) (f : Mirror → Mirror) (s : State) : (modMirror i f s).cmds = s.cmds := rfl
@[simp] theorem modMirror_cmdStamp (i : Nat) (f : Mirror → Mirror) (s : State) : (modMirror i f s).cmdStamp = s.cmdStamp := rfl
@[simp] theorem modMirror_booths (i : Nat) (f : Mirror → Mirror) (s : State) : (modMirror i f s).booths = s.booths := rfl
@[simp] theorem modMirror_fab (i : Nat) (f : Mirror → Mirror) (s : State) : (modMirror i f s).fab = s.fab := rfl
@[simp] theorem modMirror_ucie (i : Nat) (f : Mirror → Mirror) (s : State) : (modMirror i f s).ucie = s.ucie := rfl
@[simp] theorem modMirror_parts (i : Nat) (f : Mirror → Mirror) (s : State) : (modMirror i f s).parts = s.parts := rfl
@[simp] theorem modMirror_barker (i : Nat) (f : Mirror → Mirror) (s : State) : (modMirror i f s).barker = s.barker := rfl
@[simp] theorem modMirror_banks (i : Nat) (f : Mirror → Mirror) (s : State) : (modMirror i f s).banks = s.banks := rfl
@[simp] theorem modMirror_mgmt (i : Nat) (f : Mirror → Mirror) (s : State) : (modMirror i f s).mgmt = s.mgmt := rfl
@[simp] theorem modMirror_outbox (i : Nat) (f : Mirror → Mirror) (s : State) : (modMirror i f s).outbox = s.outbox := rfl
@[simp] theorem modMirror_freeCount (i : Nat) (f : Mirror → Mirror) (s : State) : (modMirror i f s).freeCount = s.freeCount := rfl
@[simp] theorem modMirror_pending (i : Nat) (f : Mirror → Mirror) (s : State) : (modMirror i f s).pending = s.pending := rfl
@[simp] theorem modStack_lines (i : Nat) (f : MemStack → MemStack) (s : State) : (modStack i f s).mem.lines = s.mem.lines := rfl
@[simp] theorem setCtr_now (n : Nat) (v : Word) (s : State) : (setCtr n v s).now = s.now := rfl
@[simp] theorem setCtr_power (n : Nat) (v : Word) (s : State) : (setCtr n v s).power = s.power := rfl
@[simp] theorem setCtr_rig (n : Nat) (v : Word) (s : State) : (setCtr n v s).rig = s.rig := rfl
@[simp] theorem setCtr_xlat (n : Nat) (v : Word) (s : State) : (setCtr n v s).xlat = s.xlat := rfl
@[simp] theorem setCtr_mem (n : Nat) (v : Word) (s : State) : (setCtr n v s).mem = s.mem := rfl
@[simp] theorem setCtr_integ (n : Nat) (v : Word) (s : State) : (setCtr n v s).integ = s.integ := rfl
@[simp] theorem setCtr_home (n : Nat) (v : Word) (s : State) : (setCtr n v s).home = s.home := rfl
@[simp] theorem setCtr_qps (n : Nat) (v : Word) (s : State) : (setCtr n v s).qps = s.qps := rfl
@[simp] theorem setCtr_cmds (n : Nat) (v : Word) (s : State) : (setCtr n v s).cmds = s.cmds := rfl
@[simp] theorem setCtr_cmdStamp (n : Nat) (v : Word) (s : State) : (setCtr n v s).cmdStamp = s.cmdStamp := rfl
@[simp] theorem setCtr_booths (n : Nat) (v : Word) (s : State) : (setCtr n v s).booths = s.booths := rfl
@[simp] theorem setCtr_fab (n : Nat) (v : Word) (s : State) : (setCtr n v s).fab = s.fab := rfl
@[simp] theorem setCtr_ucie (n : Nat) (v : Word) (s : State) : (setCtr n v s).ucie = s.ucie := rfl
@[simp] theorem setCtr_parts (n : Nat) (v : Word) (s : State) : (setCtr n v s).parts = s.parts := rfl
@[simp] theorem setCtr_barker (n : Nat) (v : Word) (s : State) : (setCtr n v s).barker = s.barker := rfl
@[simp] theorem setCtr_banks (n : Nat) (v : Word) (s : State) : (setCtr n v s).banks = s.banks := rfl
@[simp] theorem setCtr_mgmt (n : Nat) (v : Word) (s : State) : (setCtr n v s).mgmt = s.mgmt := rfl
@[simp] theorem setCtr_outbox (n : Nat) (v : Word) (s : State) : (setCtr n v s).outbox = s.outbox := rfl
@[simp] theorem setCtr_freeCount (n : Nat) (v : Word) (s : State) : (setCtr n v s).freeCount = s.freeCount := rfl
@[simp] theorem setCtr_pending (n : Nat) (v : Word) (s : State) : (setCtr n v s).pending = s.pending := rfl

/-! ### Updates of one entry: that entry and the others -/

/-- The entry after its update. -/
@[simp] theorem getQp_modQp_self (i : Nat) (f : Qp → Qp) (s : State) : getQp (modQp i f s) i = f (getQp s i) := by
  simp [getQp, modQp, modQps]
/-- Another entry after an update. -/
@[simp] theorem getQp_modQp_ne {i j : Nat} (f : Qp → Qp) (s : State) (h : j ≠ i) : getQp (modQp i f s) j = getQp s j := by
  simp [getQp, modQp, modQps, h]
/-- The entry after its update. -/
@[simp] theorem getPart_modPart_self (i : Nat) (f : Part → Part) (s : State) : getPart (modPart i f s) i = f (getPart s i) := by
  simp [getPart, modPart, modParts]
/-- Another entry after an update. -/
@[simp] theorem getPart_modPart_ne {i j : Nat} (f : Part → Part) (s : State) (h : j ≠ i) : getPart (modPart i f s) j = getPart s j := by
  simp [getPart, modPart, modParts, h]
/-- The entry after its update. -/
@[simp] theorem getBooth_modBooth_self (i : Nat) (f : BoothSt → BoothSt) (s : State) : getBooth (modBooth i f s) i = f (getBooth s i) := by
  simp [getBooth, modBooth, modBooths]
/-- Another entry after an update. -/
@[simp] theorem getBooth_modBooth_ne {i j : Nat} (f : BoothSt → BoothSt) (s : State) (h : j ≠ i) : getBooth (modBooth i f s) j = getBooth s j := by
  simp [getBooth, modBooth, modBooths, h]
/-- The entry after its update. -/
@[simp] theorem getLink_modLink_self (i : Nat) (f : Link → Link) (s : State) : getLink (modLink i f s) i = f (getLink s i) := by
  simp [getLink, modLink, modFab]
/-- Another entry after an update. -/
@[simp] theorem getLink_modLink_ne {i j : Nat} (f : Link → Link) (s : State) (h : j ≠ i) : getLink (modLink i f s) j = getLink s j := by
  simp [getLink, modLink, modFab, h]
/-- The entry after its update. -/
@[simp] theorem getPort_modPort_self (i : Nat) (f : PortSt → PortSt) (s : State) : getPort (modPort i f s) i = f (getPort s i) := by
  simp [getPort, modPort, modFab]
/-- Another entry after an update. -/
@[simp] theorem getPort_modPort_ne {i j : Nat} (f : PortSt → PortSt) (s : State) (h : j ≠ i) : getPort (modPort i f s) j = getPort s j := by
  simp [getPort, modPort, modFab, h]
/-- The entry after its update. -/
@[simp] theorem getSite_modSite_self (i : Nat) (f : Site → Site) (s : State) : getSite (modSite i f s) i = f (getSite s i) := by
  simp [getSite, modSite, modUcie]
/-- Another entry after an update. -/
@[simp] theorem getSite_modSite_ne {i j : Nat} (f : Site → Site) (s : State) (h : j ≠ i) : getSite (modSite i f s) j = getSite s j := by
  simp [getSite, modSite, modUcie, h]
/-- The entry after its update. -/
@[simp] theorem getBank_modBank_self (i : Nat) (f : Bank → Bank) (s : State) : getBank (modBank i f s) i = f (getBank s i) := by
  simp [getBank, modBank, modBanks]
/-- Another entry after an update. -/
@[simp] theorem getBank_modBank_ne {i j : Nat} (f : Bank → Bank) (s : State) (h : j ≠ i) : getBank (modBank i f s) j = getBank s j := by
  simp [getBank, modBank, modBanks, h]
/-- The entry after its update. -/
@[simp] theorem getStack_modStack_self (i : Nat) (f : MemStack → MemStack) (s : State) : getStack (modStack i f s) i = f (getStack s i) := by
  simp [getStack, modStack, modMem]
/-- Another entry after an update. -/
@[simp] theorem getStack_modStack_ne {i j : Nat} (f : MemStack → MemStack) (s : State) (h : j ≠ i) : getStack (modStack i f s) j = getStack s j := by
  simp [getStack, modStack, modMem, h]
/-- The entry after its update. -/
@[simp] theorem getMirror_modMirror_self (i : Nat) (f : Mirror → Mirror) (s : State) : getMirror (modMirror i f s) i = f (getMirror s i) := by
  simp [getMirror, modMirror, modInteg]
/-- Another entry after an update. -/
@[simp] theorem getMirror_modMirror_ne {i j : Nat} (f : Mirror → Mirror) (s : State) (h : j ≠ i) : getMirror (modMirror i f s) j = getMirror s j := by
  simp [getMirror, modMirror, modInteg, h]
/-- A counter just set. -/
@[simp] theorem getCtr_setCtr_self (n : Nat) (v : Word) (s : State) : getCtr (setCtr n v s) n = v := by
  simp [getCtr, setCtr, modOrder]
/-- Another counter after a set. -/
@[simp] theorem getCtr_setCtr_ne {n m : Nat} (v : Word) (s : State) (h : m ≠ n) : getCtr (setCtr n v s) m = getCtr s m := by
  simp [getCtr, setCtr, modOrder, h]

/-! ### Entries after updates of other groups -/

@[simp] theorem getQp_modPower (f : Power → Power) (s : State) (i : Nat) : getQp (modPower f s) i = getQp s i := rfl
@[simp] theorem getQp_modRig (f : Rig → Rig) (s : State) (i : Nat) : getQp (modRig f s) i = getQp s i := rfl
@[simp] theorem getQp_modXlat (f : Xlat → Xlat) (s : State) (i : Nat) : getQp (modXlat f s) i = getQp s i := rfl
@[simp] theorem getQp_modMem (f : Mem → Mem) (s : State) (i : Nat) : getQp (modMem f s) i = getQp s i := rfl
@[simp] theorem getQp_modInteg (f : Integ → Integ) (s : State) (i : Nat) : getQp (modInteg f s) i = getQp s i := rfl
@[simp] theorem getQp_modHome (f : Home → Home) (s : State) (i : Nat) : getQp (modHome f s) i = getQp s i := rfl
@[simp] theorem getQp_modOrder (f : Order → Order) (s : State) (i : Nat) : getQp (modOrder f s) i = getQp s i := rfl
@[simp] theorem getQp_modFab (f : Fab → Fab) (s : State) (i : Nat) : getQp (modFab f s) i = getQp s i := rfl
@[simp] theorem getQp_modUcie (f : Ucie → Ucie) (s : State) (i : Nat) : getQp (modUcie f s) i = getQp s i := rfl
@[simp] theorem getQp_modBarker (f : Barker → Barker) (s : State) (i : Nat) : getQp (modBarker f s) i = getQp s i := rfl
@[simp] theorem getQp_modMgmt (f : Mgmt → Mgmt) (s : State) (i : Nat) : getQp (modMgmt f s) i = getQp s i := rfl
@[simp] theorem getQp_modCmds (f : List Cmd → List Cmd) (s : State) (i : Nat) : getQp (modCmds f s) i = getQp s i := rfl
@[simp] theorem getQp_modParts (f : Tab Part → Tab Part) (s : State) (i : Nat) : getQp (modParts f s) i = getQp s i := rfl
@[simp] theorem getQp_modBooths (f : Tab BoothSt → Tab BoothSt) (s : State) (i : Nat) : getQp (modBooths f s) i = getQp s i := rfl
@[simp] theorem getQp_modBanks (f : Tab Bank → Tab Bank) (s : State) (i : Nat) : getQp (modBanks f s) i = getQp s i := rfl
@[simp] theorem getQp_modPart (j : Nat) (f : Part → Part) (s : State) (i : Nat) : getQp (modPart j f s) i = getQp s i := rfl
@[simp] theorem getQp_modBooth (j : Nat) (f : BoothSt → BoothSt) (s : State) (i : Nat) : getQp (modBooth j f s) i = getQp s i := rfl
@[simp] theorem getQp_modLink (j : Nat) (f : Link → Link) (s : State) (i : Nat) : getQp (modLink j f s) i = getQp s i := rfl
@[simp] theorem getQp_modPort (j : Nat) (f : PortSt → PortSt) (s : State) (i : Nat) : getQp (modPort j f s) i = getQp s i := rfl
@[simp] theorem getQp_modSite (j : Nat) (f : Site → Site) (s : State) (i : Nat) : getQp (modSite j f s) i = getQp s i := rfl
@[simp] theorem getQp_modBank (j : Nat) (f : Bank → Bank) (s : State) (i : Nat) : getQp (modBank j f s) i = getQp s i := rfl
@[simp] theorem getQp_modStack (j : Nat) (f : MemStack → MemStack) (s : State) (i : Nat) : getQp (modStack j f s) i = getQp s i := rfl
@[simp] theorem getQp_modMirror (j : Nat) (f : Mirror → Mirror) (s : State) (i : Nat) : getQp (modMirror j f s) i = getQp s i := rfl
@[simp] theorem getQp_emit (x : Out) (s : State) (i : Nat) : getQp (emit x s) i = getQp s i := rfl
@[simp] theorem getPart_modPower (f : Power → Power) (s : State) (i : Nat) : getPart (modPower f s) i = getPart s i := rfl
@[simp] theorem getPart_modRig (f : Rig → Rig) (s : State) (i : Nat) : getPart (modRig f s) i = getPart s i := rfl
@[simp] theorem getPart_modXlat (f : Xlat → Xlat) (s : State) (i : Nat) : getPart (modXlat f s) i = getPart s i := rfl
@[simp] theorem getPart_modMem (f : Mem → Mem) (s : State) (i : Nat) : getPart (modMem f s) i = getPart s i := rfl
@[simp] theorem getPart_modInteg (f : Integ → Integ) (s : State) (i : Nat) : getPart (modInteg f s) i = getPart s i := rfl
@[simp] theorem getPart_modHome (f : Home → Home) (s : State) (i : Nat) : getPart (modHome f s) i = getPart s i := rfl
@[simp] theorem getPart_modOrder (f : Order → Order) (s : State) (i : Nat) : getPart (modOrder f s) i = getPart s i := rfl
@[simp] theorem getPart_modFab (f : Fab → Fab) (s : State) (i : Nat) : getPart (modFab f s) i = getPart s i := rfl
@[simp] theorem getPart_modUcie (f : Ucie → Ucie) (s : State) (i : Nat) : getPart (modUcie f s) i = getPart s i := rfl
@[simp] theorem getPart_modBarker (f : Barker → Barker) (s : State) (i : Nat) : getPart (modBarker f s) i = getPart s i := rfl
@[simp] theorem getPart_modMgmt (f : Mgmt → Mgmt) (s : State) (i : Nat) : getPart (modMgmt f s) i = getPart s i := rfl
@[simp] theorem getPart_modCmds (f : List Cmd → List Cmd) (s : State) (i : Nat) : getPart (modCmds f s) i = getPart s i := rfl
@[simp] theorem getPart_modQps (f : Tab Qp → Tab Qp) (s : State) (i : Nat) : getPart (modQps f s) i = getPart s i := rfl
@[simp] theorem getPart_modBooths (f : Tab BoothSt → Tab BoothSt) (s : State) (i : Nat) : getPart (modBooths f s) i = getPart s i := rfl
@[simp] theorem getPart_modBanks (f : Tab Bank → Tab Bank) (s : State) (i : Nat) : getPart (modBanks f s) i = getPart s i := rfl
@[simp] theorem getPart_modQp (j : Nat) (f : Qp → Qp) (s : State) (i : Nat) : getPart (modQp j f s) i = getPart s i := rfl
@[simp] theorem getPart_modBooth (j : Nat) (f : BoothSt → BoothSt) (s : State) (i : Nat) : getPart (modBooth j f s) i = getPart s i := rfl
@[simp] theorem getPart_modLink (j : Nat) (f : Link → Link) (s : State) (i : Nat) : getPart (modLink j f s) i = getPart s i := rfl
@[simp] theorem getPart_modPort (j : Nat) (f : PortSt → PortSt) (s : State) (i : Nat) : getPart (modPort j f s) i = getPart s i := rfl
@[simp] theorem getPart_modSite (j : Nat) (f : Site → Site) (s : State) (i : Nat) : getPart (modSite j f s) i = getPart s i := rfl
@[simp] theorem getPart_modBank (j : Nat) (f : Bank → Bank) (s : State) (i : Nat) : getPart (modBank j f s) i = getPart s i := rfl
@[simp] theorem getPart_modStack (j : Nat) (f : MemStack → MemStack) (s : State) (i : Nat) : getPart (modStack j f s) i = getPart s i := rfl
@[simp] theorem getPart_modMirror (j : Nat) (f : Mirror → Mirror) (s : State) (i : Nat) : getPart (modMirror j f s) i = getPart s i := rfl
@[simp] theorem getPart_emit (x : Out) (s : State) (i : Nat) : getPart (emit x s) i = getPart s i := rfl
@[simp] theorem getBooth_modPower (f : Power → Power) (s : State) (i : Nat) : getBooth (modPower f s) i = getBooth s i := rfl
@[simp] theorem getBooth_modRig (f : Rig → Rig) (s : State) (i : Nat) : getBooth (modRig f s) i = getBooth s i := rfl
@[simp] theorem getBooth_modXlat (f : Xlat → Xlat) (s : State) (i : Nat) : getBooth (modXlat f s) i = getBooth s i := rfl
@[simp] theorem getBooth_modMem (f : Mem → Mem) (s : State) (i : Nat) : getBooth (modMem f s) i = getBooth s i := rfl
@[simp] theorem getBooth_modInteg (f : Integ → Integ) (s : State) (i : Nat) : getBooth (modInteg f s) i = getBooth s i := rfl
@[simp] theorem getBooth_modHome (f : Home → Home) (s : State) (i : Nat) : getBooth (modHome f s) i = getBooth s i := rfl
@[simp] theorem getBooth_modOrder (f : Order → Order) (s : State) (i : Nat) : getBooth (modOrder f s) i = getBooth s i := rfl
@[simp] theorem getBooth_modFab (f : Fab → Fab) (s : State) (i : Nat) : getBooth (modFab f s) i = getBooth s i := rfl
@[simp] theorem getBooth_modUcie (f : Ucie → Ucie) (s : State) (i : Nat) : getBooth (modUcie f s) i = getBooth s i := rfl
@[simp] theorem getBooth_modBarker (f : Barker → Barker) (s : State) (i : Nat) : getBooth (modBarker f s) i = getBooth s i := rfl
@[simp] theorem getBooth_modMgmt (f : Mgmt → Mgmt) (s : State) (i : Nat) : getBooth (modMgmt f s) i = getBooth s i := rfl
@[simp] theorem getBooth_modCmds (f : List Cmd → List Cmd) (s : State) (i : Nat) : getBooth (modCmds f s) i = getBooth s i := rfl
@[simp] theorem getBooth_modQps (f : Tab Qp → Tab Qp) (s : State) (i : Nat) : getBooth (modQps f s) i = getBooth s i := rfl
@[simp] theorem getBooth_modParts (f : Tab Part → Tab Part) (s : State) (i : Nat) : getBooth (modParts f s) i = getBooth s i := rfl
@[simp] theorem getBooth_modBanks (f : Tab Bank → Tab Bank) (s : State) (i : Nat) : getBooth (modBanks f s) i = getBooth s i := rfl
@[simp] theorem getBooth_modQp (j : Nat) (f : Qp → Qp) (s : State) (i : Nat) : getBooth (modQp j f s) i = getBooth s i := rfl
@[simp] theorem getBooth_modPart (j : Nat) (f : Part → Part) (s : State) (i : Nat) : getBooth (modPart j f s) i = getBooth s i := rfl
@[simp] theorem getBooth_modLink (j : Nat) (f : Link → Link) (s : State) (i : Nat) : getBooth (modLink j f s) i = getBooth s i := rfl
@[simp] theorem getBooth_modPort (j : Nat) (f : PortSt → PortSt) (s : State) (i : Nat) : getBooth (modPort j f s) i = getBooth s i := rfl
@[simp] theorem getBooth_modSite (j : Nat) (f : Site → Site) (s : State) (i : Nat) : getBooth (modSite j f s) i = getBooth s i := rfl
@[simp] theorem getBooth_modBank (j : Nat) (f : Bank → Bank) (s : State) (i : Nat) : getBooth (modBank j f s) i = getBooth s i := rfl
@[simp] theorem getBooth_modStack (j : Nat) (f : MemStack → MemStack) (s : State) (i : Nat) : getBooth (modStack j f s) i = getBooth s i := rfl
@[simp] theorem getBooth_modMirror (j : Nat) (f : Mirror → Mirror) (s : State) (i : Nat) : getBooth (modMirror j f s) i = getBooth s i := rfl
@[simp] theorem getBooth_emit (x : Out) (s : State) (i : Nat) : getBooth (emit x s) i = getBooth s i := rfl
@[simp] theorem getLink_modPower (f : Power → Power) (s : State) (i : Nat) : getLink (modPower f s) i = getLink s i := rfl
@[simp] theorem getLink_modRig (f : Rig → Rig) (s : State) (i : Nat) : getLink (modRig f s) i = getLink s i := rfl
@[simp] theorem getLink_modXlat (f : Xlat → Xlat) (s : State) (i : Nat) : getLink (modXlat f s) i = getLink s i := rfl
@[simp] theorem getLink_modMem (f : Mem → Mem) (s : State) (i : Nat) : getLink (modMem f s) i = getLink s i := rfl
@[simp] theorem getLink_modInteg (f : Integ → Integ) (s : State) (i : Nat) : getLink (modInteg f s) i = getLink s i := rfl
@[simp] theorem getLink_modHome (f : Home → Home) (s : State) (i : Nat) : getLink (modHome f s) i = getLink s i := rfl
@[simp] theorem getLink_modOrder (f : Order → Order) (s : State) (i : Nat) : getLink (modOrder f s) i = getLink s i := rfl
@[simp] theorem getLink_modUcie (f : Ucie → Ucie) (s : State) (i : Nat) : getLink (modUcie f s) i = getLink s i := rfl
@[simp] theorem getLink_modBarker (f : Barker → Barker) (s : State) (i : Nat) : getLink (modBarker f s) i = getLink s i := rfl
@[simp] theorem getLink_modMgmt (f : Mgmt → Mgmt) (s : State) (i : Nat) : getLink (modMgmt f s) i = getLink s i := rfl
@[simp] theorem getLink_modCmds (f : List Cmd → List Cmd) (s : State) (i : Nat) : getLink (modCmds f s) i = getLink s i := rfl
@[simp] theorem getLink_modQps (f : Tab Qp → Tab Qp) (s : State) (i : Nat) : getLink (modQps f s) i = getLink s i := rfl
@[simp] theorem getLink_modParts (f : Tab Part → Tab Part) (s : State) (i : Nat) : getLink (modParts f s) i = getLink s i := rfl
@[simp] theorem getLink_modBooths (f : Tab BoothSt → Tab BoothSt) (s : State) (i : Nat) : getLink (modBooths f s) i = getLink s i := rfl
@[simp] theorem getLink_modBanks (f : Tab Bank → Tab Bank) (s : State) (i : Nat) : getLink (modBanks f s) i = getLink s i := rfl
@[simp] theorem getLink_modQp (j : Nat) (f : Qp → Qp) (s : State) (i : Nat) : getLink (modQp j f s) i = getLink s i := rfl
@[simp] theorem getLink_modPart (j : Nat) (f : Part → Part) (s : State) (i : Nat) : getLink (modPart j f s) i = getLink s i := rfl
@[simp] theorem getLink_modBooth (j : Nat) (f : BoothSt → BoothSt) (s : State) (i : Nat) : getLink (modBooth j f s) i = getLink s i := rfl
@[simp] theorem getLink_modPort (j : Nat) (f : PortSt → PortSt) (s : State) (i : Nat) : getLink (modPort j f s) i = getLink s i := rfl
@[simp] theorem getLink_modSite (j : Nat) (f : Site → Site) (s : State) (i : Nat) : getLink (modSite j f s) i = getLink s i := rfl
@[simp] theorem getLink_modBank (j : Nat) (f : Bank → Bank) (s : State) (i : Nat) : getLink (modBank j f s) i = getLink s i := rfl
@[simp] theorem getLink_modStack (j : Nat) (f : MemStack → MemStack) (s : State) (i : Nat) : getLink (modStack j f s) i = getLink s i := rfl
@[simp] theorem getLink_modMirror (j : Nat) (f : Mirror → Mirror) (s : State) (i : Nat) : getLink (modMirror j f s) i = getLink s i := rfl
@[simp] theorem getLink_emit (x : Out) (s : State) (i : Nat) : getLink (emit x s) i = getLink s i := rfl
@[simp] theorem getPort_modPower (f : Power → Power) (s : State) (i : Nat) : getPort (modPower f s) i = getPort s i := rfl
@[simp] theorem getPort_modRig (f : Rig → Rig) (s : State) (i : Nat) : getPort (modRig f s) i = getPort s i := rfl
@[simp] theorem getPort_modXlat (f : Xlat → Xlat) (s : State) (i : Nat) : getPort (modXlat f s) i = getPort s i := rfl
@[simp] theorem getPort_modMem (f : Mem → Mem) (s : State) (i : Nat) : getPort (modMem f s) i = getPort s i := rfl
@[simp] theorem getPort_modInteg (f : Integ → Integ) (s : State) (i : Nat) : getPort (modInteg f s) i = getPort s i := rfl
@[simp] theorem getPort_modHome (f : Home → Home) (s : State) (i : Nat) : getPort (modHome f s) i = getPort s i := rfl
@[simp] theorem getPort_modOrder (f : Order → Order) (s : State) (i : Nat) : getPort (modOrder f s) i = getPort s i := rfl
@[simp] theorem getPort_modUcie (f : Ucie → Ucie) (s : State) (i : Nat) : getPort (modUcie f s) i = getPort s i := rfl
@[simp] theorem getPort_modBarker (f : Barker → Barker) (s : State) (i : Nat) : getPort (modBarker f s) i = getPort s i := rfl
@[simp] theorem getPort_modMgmt (f : Mgmt → Mgmt) (s : State) (i : Nat) : getPort (modMgmt f s) i = getPort s i := rfl
@[simp] theorem getPort_modCmds (f : List Cmd → List Cmd) (s : State) (i : Nat) : getPort (modCmds f s) i = getPort s i := rfl
@[simp] theorem getPort_modQps (f : Tab Qp → Tab Qp) (s : State) (i : Nat) : getPort (modQps f s) i = getPort s i := rfl
@[simp] theorem getPort_modParts (f : Tab Part → Tab Part) (s : State) (i : Nat) : getPort (modParts f s) i = getPort s i := rfl
@[simp] theorem getPort_modBooths (f : Tab BoothSt → Tab BoothSt) (s : State) (i : Nat) : getPort (modBooths f s) i = getPort s i := rfl
@[simp] theorem getPort_modBanks (f : Tab Bank → Tab Bank) (s : State) (i : Nat) : getPort (modBanks f s) i = getPort s i := rfl
@[simp] theorem getPort_modQp (j : Nat) (f : Qp → Qp) (s : State) (i : Nat) : getPort (modQp j f s) i = getPort s i := rfl
@[simp] theorem getPort_modPart (j : Nat) (f : Part → Part) (s : State) (i : Nat) : getPort (modPart j f s) i = getPort s i := rfl
@[simp] theorem getPort_modBooth (j : Nat) (f : BoothSt → BoothSt) (s : State) (i : Nat) : getPort (modBooth j f s) i = getPort s i := rfl
@[simp] theorem getPort_modLink (j : Nat) (f : Link → Link) (s : State) (i : Nat) : getPort (modLink j f s) i = getPort s i := rfl
@[simp] theorem getPort_modSite (j : Nat) (f : Site → Site) (s : State) (i : Nat) : getPort (modSite j f s) i = getPort s i := rfl
@[simp] theorem getPort_modBank (j : Nat) (f : Bank → Bank) (s : State) (i : Nat) : getPort (modBank j f s) i = getPort s i := rfl
@[simp] theorem getPort_modStack (j : Nat) (f : MemStack → MemStack) (s : State) (i : Nat) : getPort (modStack j f s) i = getPort s i := rfl
@[simp] theorem getPort_modMirror (j : Nat) (f : Mirror → Mirror) (s : State) (i : Nat) : getPort (modMirror j f s) i = getPort s i := rfl
@[simp] theorem getPort_emit (x : Out) (s : State) (i : Nat) : getPort (emit x s) i = getPort s i := rfl
@[simp] theorem getSite_modPower (f : Power → Power) (s : State) (i : Nat) : getSite (modPower f s) i = getSite s i := rfl
@[simp] theorem getSite_modRig (f : Rig → Rig) (s : State) (i : Nat) : getSite (modRig f s) i = getSite s i := rfl
@[simp] theorem getSite_modXlat (f : Xlat → Xlat) (s : State) (i : Nat) : getSite (modXlat f s) i = getSite s i := rfl
@[simp] theorem getSite_modMem (f : Mem → Mem) (s : State) (i : Nat) : getSite (modMem f s) i = getSite s i := rfl
@[simp] theorem getSite_modInteg (f : Integ → Integ) (s : State) (i : Nat) : getSite (modInteg f s) i = getSite s i := rfl
@[simp] theorem getSite_modHome (f : Home → Home) (s : State) (i : Nat) : getSite (modHome f s) i = getSite s i := rfl
@[simp] theorem getSite_modOrder (f : Order → Order) (s : State) (i : Nat) : getSite (modOrder f s) i = getSite s i := rfl
@[simp] theorem getSite_modFab (f : Fab → Fab) (s : State) (i : Nat) : getSite (modFab f s) i = getSite s i := rfl
@[simp] theorem getSite_modBarker (f : Barker → Barker) (s : State) (i : Nat) : getSite (modBarker f s) i = getSite s i := rfl
@[simp] theorem getSite_modMgmt (f : Mgmt → Mgmt) (s : State) (i : Nat) : getSite (modMgmt f s) i = getSite s i := rfl
@[simp] theorem getSite_modCmds (f : List Cmd → List Cmd) (s : State) (i : Nat) : getSite (modCmds f s) i = getSite s i := rfl
@[simp] theorem getSite_modQps (f : Tab Qp → Tab Qp) (s : State) (i : Nat) : getSite (modQps f s) i = getSite s i := rfl
@[simp] theorem getSite_modParts (f : Tab Part → Tab Part) (s : State) (i : Nat) : getSite (modParts f s) i = getSite s i := rfl
@[simp] theorem getSite_modBooths (f : Tab BoothSt → Tab BoothSt) (s : State) (i : Nat) : getSite (modBooths f s) i = getSite s i := rfl
@[simp] theorem getSite_modBanks (f : Tab Bank → Tab Bank) (s : State) (i : Nat) : getSite (modBanks f s) i = getSite s i := rfl
@[simp] theorem getSite_modQp (j : Nat) (f : Qp → Qp) (s : State) (i : Nat) : getSite (modQp j f s) i = getSite s i := rfl
@[simp] theorem getSite_modPart (j : Nat) (f : Part → Part) (s : State) (i : Nat) : getSite (modPart j f s) i = getSite s i := rfl
@[simp] theorem getSite_modBooth (j : Nat) (f : BoothSt → BoothSt) (s : State) (i : Nat) : getSite (modBooth j f s) i = getSite s i := rfl
@[simp] theorem getSite_modLink (j : Nat) (f : Link → Link) (s : State) (i : Nat) : getSite (modLink j f s) i = getSite s i := rfl
@[simp] theorem getSite_modPort (j : Nat) (f : PortSt → PortSt) (s : State) (i : Nat) : getSite (modPort j f s) i = getSite s i := rfl
@[simp] theorem getSite_modBank (j : Nat) (f : Bank → Bank) (s : State) (i : Nat) : getSite (modBank j f s) i = getSite s i := rfl
@[simp] theorem getSite_modStack (j : Nat) (f : MemStack → MemStack) (s : State) (i : Nat) : getSite (modStack j f s) i = getSite s i := rfl
@[simp] theorem getSite_modMirror (j : Nat) (f : Mirror → Mirror) (s : State) (i : Nat) : getSite (modMirror j f s) i = getSite s i := rfl
@[simp] theorem getSite_emit (x : Out) (s : State) (i : Nat) : getSite (emit x s) i = getSite s i := rfl
@[simp] theorem getBank_modPower (f : Power → Power) (s : State) (i : Nat) : getBank (modPower f s) i = getBank s i := rfl
@[simp] theorem getBank_modRig (f : Rig → Rig) (s : State) (i : Nat) : getBank (modRig f s) i = getBank s i := rfl
@[simp] theorem getBank_modXlat (f : Xlat → Xlat) (s : State) (i : Nat) : getBank (modXlat f s) i = getBank s i := rfl
@[simp] theorem getBank_modMem (f : Mem → Mem) (s : State) (i : Nat) : getBank (modMem f s) i = getBank s i := rfl
@[simp] theorem getBank_modInteg (f : Integ → Integ) (s : State) (i : Nat) : getBank (modInteg f s) i = getBank s i := rfl
@[simp] theorem getBank_modHome (f : Home → Home) (s : State) (i : Nat) : getBank (modHome f s) i = getBank s i := rfl
@[simp] theorem getBank_modOrder (f : Order → Order) (s : State) (i : Nat) : getBank (modOrder f s) i = getBank s i := rfl
@[simp] theorem getBank_modFab (f : Fab → Fab) (s : State) (i : Nat) : getBank (modFab f s) i = getBank s i := rfl
@[simp] theorem getBank_modUcie (f : Ucie → Ucie) (s : State) (i : Nat) : getBank (modUcie f s) i = getBank s i := rfl
@[simp] theorem getBank_modBarker (f : Barker → Barker) (s : State) (i : Nat) : getBank (modBarker f s) i = getBank s i := rfl
@[simp] theorem getBank_modMgmt (f : Mgmt → Mgmt) (s : State) (i : Nat) : getBank (modMgmt f s) i = getBank s i := rfl
@[simp] theorem getBank_modCmds (f : List Cmd → List Cmd) (s : State) (i : Nat) : getBank (modCmds f s) i = getBank s i := rfl
@[simp] theorem getBank_modQps (f : Tab Qp → Tab Qp) (s : State) (i : Nat) : getBank (modQps f s) i = getBank s i := rfl
@[simp] theorem getBank_modParts (f : Tab Part → Tab Part) (s : State) (i : Nat) : getBank (modParts f s) i = getBank s i := rfl
@[simp] theorem getBank_modBooths (f : Tab BoothSt → Tab BoothSt) (s : State) (i : Nat) : getBank (modBooths f s) i = getBank s i := rfl
@[simp] theorem getBank_modQp (j : Nat) (f : Qp → Qp) (s : State) (i : Nat) : getBank (modQp j f s) i = getBank s i := rfl
@[simp] theorem getBank_modPart (j : Nat) (f : Part → Part) (s : State) (i : Nat) : getBank (modPart j f s) i = getBank s i := rfl
@[simp] theorem getBank_modBooth (j : Nat) (f : BoothSt → BoothSt) (s : State) (i : Nat) : getBank (modBooth j f s) i = getBank s i := rfl
@[simp] theorem getBank_modLink (j : Nat) (f : Link → Link) (s : State) (i : Nat) : getBank (modLink j f s) i = getBank s i := rfl
@[simp] theorem getBank_modPort (j : Nat) (f : PortSt → PortSt) (s : State) (i : Nat) : getBank (modPort j f s) i = getBank s i := rfl
@[simp] theorem getBank_modSite (j : Nat) (f : Site → Site) (s : State) (i : Nat) : getBank (modSite j f s) i = getBank s i := rfl
@[simp] theorem getBank_modStack (j : Nat) (f : MemStack → MemStack) (s : State) (i : Nat) : getBank (modStack j f s) i = getBank s i := rfl
@[simp] theorem getBank_modMirror (j : Nat) (f : Mirror → Mirror) (s : State) (i : Nat) : getBank (modMirror j f s) i = getBank s i := rfl
@[simp] theorem getBank_emit (x : Out) (s : State) (i : Nat) : getBank (emit x s) i = getBank s i := rfl
@[simp] theorem getStack_modPower (f : Power → Power) (s : State) (i : Nat) : getStack (modPower f s) i = getStack s i := rfl
@[simp] theorem getStack_modRig (f : Rig → Rig) (s : State) (i : Nat) : getStack (modRig f s) i = getStack s i := rfl
@[simp] theorem getStack_modXlat (f : Xlat → Xlat) (s : State) (i : Nat) : getStack (modXlat f s) i = getStack s i := rfl
@[simp] theorem getStack_modInteg (f : Integ → Integ) (s : State) (i : Nat) : getStack (modInteg f s) i = getStack s i := rfl
@[simp] theorem getStack_modHome (f : Home → Home) (s : State) (i : Nat) : getStack (modHome f s) i = getStack s i := rfl
@[simp] theorem getStack_modOrder (f : Order → Order) (s : State) (i : Nat) : getStack (modOrder f s) i = getStack s i := rfl
@[simp] theorem getStack_modFab (f : Fab → Fab) (s : State) (i : Nat) : getStack (modFab f s) i = getStack s i := rfl
@[simp] theorem getStack_modUcie (f : Ucie → Ucie) (s : State) (i : Nat) : getStack (modUcie f s) i = getStack s i := rfl
@[simp] theorem getStack_modBarker (f : Barker → Barker) (s : State) (i : Nat) : getStack (modBarker f s) i = getStack s i := rfl
@[simp] theorem getStack_modMgmt (f : Mgmt → Mgmt) (s : State) (i : Nat) : getStack (modMgmt f s) i = getStack s i := rfl
@[simp] theorem getStack_modCmds (f : List Cmd → List Cmd) (s : State) (i : Nat) : getStack (modCmds f s) i = getStack s i := rfl
@[simp] theorem getStack_modQps (f : Tab Qp → Tab Qp) (s : State) (i : Nat) : getStack (modQps f s) i = getStack s i := rfl
@[simp] theorem getStack_modParts (f : Tab Part → Tab Part) (s : State) (i : Nat) : getStack (modParts f s) i = getStack s i := rfl
@[simp] theorem getStack_modBooths (f : Tab BoothSt → Tab BoothSt) (s : State) (i : Nat) : getStack (modBooths f s) i = getStack s i := rfl
@[simp] theorem getStack_modBanks (f : Tab Bank → Tab Bank) (s : State) (i : Nat) : getStack (modBanks f s) i = getStack s i := rfl
@[simp] theorem getStack_modQp (j : Nat) (f : Qp → Qp) (s : State) (i : Nat) : getStack (modQp j f s) i = getStack s i := rfl
@[simp] theorem getStack_modPart (j : Nat) (f : Part → Part) (s : State) (i : Nat) : getStack (modPart j f s) i = getStack s i := rfl
@[simp] theorem getStack_modBooth (j : Nat) (f : BoothSt → BoothSt) (s : State) (i : Nat) : getStack (modBooth j f s) i = getStack s i := rfl
@[simp] theorem getStack_modLink (j : Nat) (f : Link → Link) (s : State) (i : Nat) : getStack (modLink j f s) i = getStack s i := rfl
@[simp] theorem getStack_modPort (j : Nat) (f : PortSt → PortSt) (s : State) (i : Nat) : getStack (modPort j f s) i = getStack s i := rfl
@[simp] theorem getStack_modSite (j : Nat) (f : Site → Site) (s : State) (i : Nat) : getStack (modSite j f s) i = getStack s i := rfl
@[simp] theorem getStack_modBank (j : Nat) (f : Bank → Bank) (s : State) (i : Nat) : getStack (modBank j f s) i = getStack s i := rfl
@[simp] theorem getStack_modMirror (j : Nat) (f : Mirror → Mirror) (s : State) (i : Nat) : getStack (modMirror j f s) i = getStack s i := rfl
@[simp] theorem getStack_emit (x : Out) (s : State) (i : Nat) : getStack (emit x s) i = getStack s i := rfl
@[simp] theorem getMirror_modPower (f : Power → Power) (s : State) (i : Nat) : getMirror (modPower f s) i = getMirror s i := rfl
@[simp] theorem getMirror_modRig (f : Rig → Rig) (s : State) (i : Nat) : getMirror (modRig f s) i = getMirror s i := rfl
@[simp] theorem getMirror_modXlat (f : Xlat → Xlat) (s : State) (i : Nat) : getMirror (modXlat f s) i = getMirror s i := rfl
@[simp] theorem getMirror_modMem (f : Mem → Mem) (s : State) (i : Nat) : getMirror (modMem f s) i = getMirror s i := rfl
@[simp] theorem getMirror_modHome (f : Home → Home) (s : State) (i : Nat) : getMirror (modHome f s) i = getMirror s i := rfl
@[simp] theorem getMirror_modOrder (f : Order → Order) (s : State) (i : Nat) : getMirror (modOrder f s) i = getMirror s i := rfl
@[simp] theorem getMirror_modFab (f : Fab → Fab) (s : State) (i : Nat) : getMirror (modFab f s) i = getMirror s i := rfl
@[simp] theorem getMirror_modUcie (f : Ucie → Ucie) (s : State) (i : Nat) : getMirror (modUcie f s) i = getMirror s i := rfl
@[simp] theorem getMirror_modBarker (f : Barker → Barker) (s : State) (i : Nat) : getMirror (modBarker f s) i = getMirror s i := rfl
@[simp] theorem getMirror_modMgmt (f : Mgmt → Mgmt) (s : State) (i : Nat) : getMirror (modMgmt f s) i = getMirror s i := rfl
@[simp] theorem getMirror_modCmds (f : List Cmd → List Cmd) (s : State) (i : Nat) : getMirror (modCmds f s) i = getMirror s i := rfl
@[simp] theorem getMirror_modQps (f : Tab Qp → Tab Qp) (s : State) (i : Nat) : getMirror (modQps f s) i = getMirror s i := rfl
@[simp] theorem getMirror_modParts (f : Tab Part → Tab Part) (s : State) (i : Nat) : getMirror (modParts f s) i = getMirror s i := rfl
@[simp] theorem getMirror_modBooths (f : Tab BoothSt → Tab BoothSt) (s : State) (i : Nat) : getMirror (modBooths f s) i = getMirror s i := rfl
@[simp] theorem getMirror_modBanks (f : Tab Bank → Tab Bank) (s : State) (i : Nat) : getMirror (modBanks f s) i = getMirror s i := rfl
@[simp] theorem getMirror_modQp (j : Nat) (f : Qp → Qp) (s : State) (i : Nat) : getMirror (modQp j f s) i = getMirror s i := rfl
@[simp] theorem getMirror_modPart (j : Nat) (f : Part → Part) (s : State) (i : Nat) : getMirror (modPart j f s) i = getMirror s i := rfl
@[simp] theorem getMirror_modBooth (j : Nat) (f : BoothSt → BoothSt) (s : State) (i : Nat) : getMirror (modBooth j f s) i = getMirror s i := rfl
@[simp] theorem getMirror_modLink (j : Nat) (f : Link → Link) (s : State) (i : Nat) : getMirror (modLink j f s) i = getMirror s i := rfl
@[simp] theorem getMirror_modPort (j : Nat) (f : PortSt → PortSt) (s : State) (i : Nat) : getMirror (modPort j f s) i = getMirror s i := rfl
@[simp] theorem getMirror_modSite (j : Nat) (f : Site → Site) (s : State) (i : Nat) : getMirror (modSite j f s) i = getMirror s i := rfl
@[simp] theorem getMirror_modBank (j : Nat) (f : Bank → Bank) (s : State) (i : Nat) : getMirror (modBank j f s) i = getMirror s i := rfl
@[simp] theorem getMirror_modStack (j : Nat) (f : MemStack → MemStack) (s : State) (i : Nat) : getMirror (modStack j f s) i = getMirror s i := rfl
@[simp] theorem getMirror_emit (x : Out) (s : State) (i : Nat) : getMirror (emit x s) i = getMirror s i := rfl

end Sys2Proof.Machine
end

