-- ==== Sys2Proof/Laws/Kept.lean ====
section
/-! SUPPORT. What every operation of the device keeps: the queue of commands, what has left the device, and the canonical form of the
store. Each lemma `kept_f` says that the operation `f` keeps them, from any state that kept them so far. -/

namespace Sys2Proof.Machine

set_option linter.all false

/-- The state `t` has the queue of `s`, has let out what `s` had let out and perhaps more, and has a canonical store if `s` has. -/
structure Kept (s t : State) : Prop where
  pending : t.pending = s.pending
  outbox : ∃ more, t.outbox = s.outbox ++ more
  store : Memory.wf s.mem = true → Memory.wf t.mem = true

/-- Nothing done keeps everything. -/
theorem Kept.same (s : State) : Kept s s := ⟨rfl, ⟨[], by simp⟩, id⟩

/-- A change of the other groups keeps everything. -/
theorem Kept.of_eq {s0 s t : State} (h : Kept s0 s) (hp : t.pending = s.pending) (ho : t.outbox = s.outbox) (hm : t.mem.lines = s.mem.lines)
    (hb : t.mem.blank = s.mem.blank := by rfl) (hv : t.mem.moves = s.mem.moves := by rfl) : Kept s0 t := by
  refine ⟨hp.trans h.pending, ?_, fun w => ?_⟩
  · rw [ho]
    exact h.outbox
  · have := h.store w
    have e : Memory.blank t.mem = Memory.blank s.mem := by
      funext l
      simp only [Memory.blank, hb, hv]
    unfold Memory.wf at *
    rw [hm, e]
    exact this

/-- One after another. -/
theorem Kept.trans {s t u : State} (h : Kept s t) (k : Kept t u) : Kept s u := by
  obtain ⟨a, ha⟩ := h.outbox
  obtain ⟨b, hb⟩ := k.outbox
  exact ⟨k.pending.trans h.pending, ⟨a ++ b, by rw [hb, ha, List.append_assoc]⟩, fun w => k.store (h.store w)⟩

/-- A state on the way that keeps everything may be taken as any such state. -/
theorem Kept.cut {s0 : State} (x : State) {P : Prop} (a : Kept s0 x) (b : Kept s0 x → P) : P := b a

/-- The same for a function of the state. -/
theorem Kept.cutF {s0 : State} (x : State → State) {P : Prop} (a : ∀ {u : State}, Kept s0 u → Kept s0 (x u))
    (b : (∀ u : State, Kept s0 u → Kept s0 (x u)) → P) : P := b fun _ h => a h

/-- What such a function gives. -/
theorem Kept.app {s0 u : State} {x : State → State} (k : ∀ u : State, Kept s0 u → Kept s0 (x u)) (h : Kept s0 u) : Kept s0 (x u) := k u h

theorem Kept.cutF1 {α : Type} {s0 : State} (x : α → State → State) {P : Prop} (a : ∀ (i : α) {u : State}, Kept s0 u → Kept s0 (x i u))
    (b : (∀ (i : α) (u : State), Kept s0 u → Kept s0 (x i u)) → P) : P := b fun i _ h => a i h

theorem Kept.app1 {α : Type} {s0 u : State} {x : α → State → State} {i : α} (k : ∀ (i : α) (u : State), Kept s0 u → Kept s0 (x i u))
    (h : Kept s0 u) : Kept s0 (x i u) := k i u h

theorem Kept.cutF2 {α β : Type} {s0 : State} (x : α → β → State → State) {P : Prop}
    (a : ∀ (i : α) (j : β) {u : State}, Kept s0 u → Kept s0 (x i j u))
    (b : (∀ (i : α) (j : β) (u : State), Kept s0 u → Kept s0 (x i j u)) → P) : P := b fun i j _ h => a i j h

theorem Kept.app2 {α β : Type} {s0 u : State} {x : α → β → State → State} {i : α} {j : β}
    (k : ∀ (i : α) (j : β) (u : State), Kept s0 u → Kept s0 (x i j u)) (h : Kept s0 u) : Kept s0 (x i j u) := k i j u h

theorem kept_modPower {s0 : State} (f : Power → Power) {s : State} (h : Kept s0 s) : Kept s0 (modPower f s) := h.of_eq rfl rfl rfl
theorem kept_modRig {s0 : State} (f : Rig → Rig) {s : State} (h : Kept s0 s) : Kept s0 (modRig f s) := h.of_eq rfl rfl rfl
theorem kept_modXlat {s0 : State} (f : Xlat → Xlat) {s : State} (h : Kept s0 s) : Kept s0 (modXlat f s) := h.of_eq rfl rfl rfl
theorem kept_modInteg {s0 : State} (f : Integ → Integ) {s : State} (h : Kept s0 s) : Kept s0 (modInteg f s) := h.of_eq rfl rfl rfl
theorem kept_modHome {s0 : State} (f : Home → Home) {s : State} (h : Kept s0 s) : Kept s0 (modHome f s) := h.of_eq rfl rfl rfl
theorem kept_modOrder {s0 : State} (f : Order → Order) {s : State} (h : Kept s0 s) : Kept s0 (modOrder f s) := h.of_eq rfl rfl rfl
theorem kept_modFab {s0 : State} (f : Fab → Fab) {s : State} (h : Kept s0 s) : Kept s0 (modFab f s) := h.of_eq rfl rfl rfl
theorem kept_modUcie {s0 : State} (f : Ucie → Ucie) {s : State} (h : Kept s0 s) : Kept s0 (modUcie f s) := h.of_eq rfl rfl rfl
theorem kept_modBarker {s0 : State} (f : Barker → Barker) {s : State} (h : Kept s0 s) : Kept s0 (modBarker f s) := h.of_eq rfl rfl rfl
theorem kept_modMgmt {s0 : State} (f : Mgmt → Mgmt) {s : State} (h : Kept s0 s) : Kept s0 (modMgmt f s) := h.of_eq rfl rfl rfl
theorem kept_modCmds {s0 : State} (f : List Cmd → List Cmd) {s : State} (h : Kept s0 s) : Kept s0 (modCmds f s) := h.of_eq rfl rfl rfl
theorem kept_modQps {s0 : State} (f : Tab Qp → Tab Qp) {s : State} (h : Kept s0 s) : Kept s0 (modQps f s) := h.of_eq rfl rfl rfl
theorem kept_modParts {s0 : State} (f : Tab Part → Tab Part) {s : State} (h : Kept s0 s) : Kept s0 (modParts f s) := h.of_eq rfl rfl rfl
theorem kept_modBooths {s0 : State} (f : Tab BoothSt → Tab BoothSt) {s : State} (h : Kept s0 s) : Kept s0 (modBooths f s) := h.of_eq rfl rfl rfl
theorem kept_modBanks {s0 : State} (f : Tab Bank → Tab Bank) {s : State} (h : Kept s0 s) : Kept s0 (modBanks f s) := h.of_eq rfl rfl rfl
theorem kept_modMem {s0 : State} (f : Mem → Mem) {s : State} (hf : ∀ m, (f m).lines = m.lines) (h : Kept s0 s)
    (hb : ∀ m, (f m).blank = m.blank := by intro m; rfl) (hv : ∀ m, (f m).moves = m.moves := by intro m; rfl) : Kept s0 (modMem f s) :=
  h.of_eq rfl rfl (hf s.mem) (hb s.mem) (hv s.mem)
theorem kept_modQp {s0 : State} (i : Nat) (f : Qp → Qp) {s : State} (h : Kept s0 s) : Kept s0 (modQp i f s) := h.of_eq rfl rfl rfl
theorem kept_modPart {s0 : State} (i : Nat) (f : Part → Part) {s : State} (h : Kept s0 s) : Kept s0 (modPart i f s) := h.of_eq rfl rfl rfl
theorem kept_modBooth {s0 : State} (i : Nat) (f : BoothSt → BoothSt) {s : State} (h : Kept s0 s) : Kept s0 (modBooth i f s) := h.of_eq rfl rfl rfl
theorem kept_modLink {s0 : State} (i : Nat) (f : Link → Link) {s : State} (h : Kept s0 s) : Kept s0 (modLink i f s) := h.of_eq rfl rfl rfl
theorem kept_modPort {s0 : State} (i : Nat) (f : PortSt → PortSt) {s : State} (h : Kept s0 s) : Kept s0 (modPort i f s) := h.of_eq rfl rfl rfl
theorem kept_modSite {s0 : State} (i : Nat) (f : Site → Site) {s : State} (h : Kept s0 s) : Kept s0 (modSite i f s) := h.of_eq rfl rfl rfl
theorem kept_modBank {s0 : State} (i : Nat) (f : Bank → Bank) {s : State} (h : Kept s0 s) : Kept s0 (modBank i f s) := h.of_eq rfl rfl rfl
theorem kept_modStack {s0 : State} (i : Nat) (f : MemStack → MemStack) {s : State} (h : Kept s0 s) : Kept s0 (modStack i f s) := h.of_eq rfl rfl rfl
theorem kept_modMirror {s0 : State} (i : Nat) (f : Mirror → Mirror) {s : State} (h : Kept s0 s) : Kept s0 (modMirror i f s) := h.of_eq rfl rfl rfl
theorem kept_setCtr {s0 : State} (n : Nat) (v : Word) {s : State} (h : Kept s0 s) : Kept s0 (setCtr n v s) := h.of_eq rfl rfl rfl

theorem kept_emit {s0 : State} (o : Out) {s : State} (h : Kept s0 s) : Kept s0 (emit o s) := by
  obtain ⟨a, ha⟩ := h.outbox
  exact ⟨h.pending, ⟨a ++ [o], by simp [ha]⟩, h.store⟩

theorem kept_drawFree {s0 : State} {s : State} (h : Kept s0 s) : Kept s0 (drawFree s).2 := h.of_eq rfl rfl rfl
/-- A line's write keeps the store canonical. -/
theorem kept_putLine {s0 : State} (l : Nat) (v : Line) {s : State} (h : Kept s0 s) : Kept s0 (putLine l v s) := by
  refine ⟨h.pending, h.outbox, fun w => ?_⟩
  have := h.store w
  simp only [Memory.wf, Bool.and_eq_true] at this ⊢
  exact ⟨Tab.wf_put _ l v this.1, Tab.lean_put (Memory.blank s.mem) l v this.2⟩

/-- A change of what an unlisted line reads as keeps the store canonical: with `putLine` the one operation that changes the list of lines. -/
theorem kept_modForms {s0 : State} (f : Mem → Mem) {s : State} (h : Kept s0 s) (hf : ∀ m, (f m).lines = m.lines := by intro m; rfl) :
    Kept s0 (modForms f s) := by
  refine ⟨h.pending, h.outbox, fun w => ?_⟩
  have := h.store w
  simp only [Memory.wf, Bool.and_eq_true] at this ⊢
  refine ⟨Tab.wf_trim _ ?_, Tab.lean_trim (Memory.blank (f s.mem)) _⟩
  rw [hf]
  exact this.1

/-- A change of the move records keeps the store canonical. -/
theorem kept_modMoves {s0 : State} (f : List MoveRec → List MoveRec) {s : State} (h : Kept s0 s) : Kept s0 (modMoves f s) := kept_modForms _ h

theorem kept_whenS {s0 : State} (b : Bool) (f : State → State) {s : State} (hf : ∀ {u : State}, Kept s0 u → Kept s0 (f u)) (h : Kept s0 s) :
    Kept s0 (whenS b f s) := by
  unfold whenS
  split
  · exact hf h
  · exact h

theorem kept_eachS {s0 : State} {α : Type} (l : List α) (f : α → State → State) {s : State} (hf : ∀ (a : α) {u : State}, Kept s0 u → Kept s0 (f a u))
    (h : Kept s0 s) : Kept s0 (eachS l f s) := by
  unfold eachS
  induction l generalizing s with
  | nil => exact h
  | cons a l ih => exact ih (hf a h)

end Sys2Proof.Machine
end

