-- ==== Sys2Proof/Laws/KeptOps.lean ====
section
/-! SUPPORT. What the operations of Machine/Ops.lean keep (Kept). -/

namespace Sys2Proof.Machine

set_option linter.all false
set_option Elab.async false

theorem kept_charge {s0 : State} (p epoch e amount time : Nat) {s : State}  (hK : Kept s0 s) : Kept s0 (charge p epoch e amount time s) := by
  unfold charge
  repeat' first
    | with_reducible assumption
    | (intro x; refine Kept.cut (s0 := s0) x ?_ (fun k => ?_); rotate_left; clear_value x; rotate_left; subst x)
    | (intro x; clear_value x)
    | (intro x)
    | with_reducible apply kept_modBank
    | split

theorem kept_chargeCycle {s0 : State} {s : State}  (hK : Kept s0 s) : Kept s0 (chargeCycle s) := by
  unfold chargeCycle
  repeat' first
    | with_reducible assumption
    | (intro x; refine Kept.cut (s0 := s0) x ?_ (fun k => ?_); rotate_left; clear_value x; rotate_left; subst x)
    | (intro x; clear_value x)
    | (intro x)
    | with_reducible apply kept_eachS
    | with_reducible apply kept_charge
    | lift_lets -underBinder

theorem kept_slotCycle {s0 : State} {s : State}  (hK : Kept s0 s) : Kept s0 (slotCycle s) := by
  unfold slotCycle
  repeat' first
    | with_reducible assumption
    | (intro x; refine Kept.cut (s0 := s0) x ?_ (fun k => ?_); rotate_left; clear_value x; rotate_left; subst x)
    | (intro x; clear_value x)
    | (intro x)
    | with_reducible apply kept_eachS
    | with_reducible apply kept_modStack
    | with_reducible apply kept_drawFree

theorem kept_replayCycle {s0 : State} {s : State}  (hK : Kept s0 s) : Kept s0 (replayCycle s) := by
  unfold replayCycle
  repeat' first
    | with_reducible assumption
    | (intro x; refine Kept.cut (s0 := s0) x ?_ (fun k => ?_); rotate_left; clear_value x; rotate_left; subst x)
    | (intro x; clear_value x)
    | (intro x)
    | with_reducible apply kept_eachS
    | with_reducible apply kept_modSite
    | with_reducible apply kept_drawFree

theorem kept_chargeReq {s0 : State} (r : Req) (e amount : Nat) {s : State}  (hK : Kept s0 s) : Kept s0 (chargeReq r e amount s) := by
  unfold chargeReq
  repeat' first
    | with_reducible assumption
    | with_reducible apply kept_charge

theorem kept_openBank {s0 : State} (n : Nat) (r : MeterRec) {s : State}  (hK : Kept s0 s) : Kept s0 (openBank n r s) := by
  unfold openBank
  repeat' first
    | with_reducible assumption
    | (intro x; refine Kept.cut (s0 := s0) x ?_ (fun k => ?_); rotate_left; clear_value x; rotate_left; subst x)
    | (intro x; clear_value x)
    | (intro x)
    | with_reducible apply kept_modBank
    | split
    | lift_lets -underBinder

theorem kept_putFlit {s0 : State} (l : Nat) (f : Nat × List Byte) {s : State}  (hK : Kept s0 s) : Kept s0 (putFlit l f s) := by
  unfold putFlit
  repeat' first
    | with_reducible assumption
    | (intro x; refine Kept.cut (s0 := s0) x ?_ (fun k => ?_); rotate_left; clear_value x; rotate_left; subst x)
    | (intro x; clear_value x)
    | (intro x)
    | with_reducible apply kept_emit
    | with_reducible apply kept_modLink
    | lift_lets -underBinder

theorem kept_sendFlit {s0 : State} (l : Nat) (payload : List Byte) {s : State}  (hK : Kept s0 s) : Kept s0 (sendFlit l payload s) := by
  unfold sendFlit
  repeat' first
    | with_reducible assumption
    | (intro x; refine Kept.cut (s0 := s0) x ?_ (fun k => ?_); rotate_left; clear_value x; rotate_left; subst x)
    | (intro x; clear_value x)
    | (intro x)
    | with_reducible apply kept_modLink
    | with_reducible apply kept_whenS
    | with_reducible apply kept_putFlit
    | split
    | lift_lets -underBinder

theorem kept_idleFlits {s0 : State} {s : State}  (hK : Kept s0 s) : Kept s0 (idleFlits s) := by
  unfold idleFlits
  repeat' first
    | with_reducible assumption
    | (intro x; refine Kept.cut (s0 := s0) x ?_ (fun k => ?_); rotate_left; clear_value x; rotate_left; subst x)
    | (intro x; clear_value x)
    | (intro x)
    | with_reducible apply kept_eachS
    | with_reducible apply kept_sendFlit

theorem kept_tick {s0 : State} {s : State}  (hK : Kept s0 s) : Kept s0 (tick s) := by
  unfold tick
  repeat' first
    | with_reducible assumption
    | (intro x; refine Kept.cut (s0 := s0) x ?_ (fun k => ?_); rotate_left; clear_value x; rotate_left; subst x)
    | (intro x; clear_value x)
    | (intro x)
    | with_reducible apply kept_idleFlits
    | with_reducible apply kept_replayCycle
    | with_reducible apply kept_slotCycle
    | with_reducible apply kept_whenS
    | with_reducible apply kept_chargeCycle
    | split
    | lift_lets -underBinder
    | with_reducible exact Kept.of_eq k rfl rfl rfl
    | with_reducible exact Kept.of_eq hK rfl rfl rfl

theorem kept_markSent {s0 : State} (p : Packet) {s : State}  (hK : Kept s0 s) : Kept s0 (markSent p s) := by
  unfold markSent
  repeat' first
    | with_reducible assumption
    | (intro x; refine Kept.cut (s0 := s0) x ?_ (fun k => ?_); rotate_left; clear_value x; rotate_left; subst x)
    | (intro x; clear_value x)
    | (intro x)
    | with_reducible apply kept_modFab
    | with_reducible apply kept_modInteg
    | split
    | lift_lets -underBinder

theorem kept_transmit {s0 : State} (l : Nat) (p : Packet) {s : State}  (hK : Kept s0 s) : Kept s0 (transmit l p s) := by
  unfold transmit
  repeat' first
    | with_reducible assumption
    | (intro x; refine Kept.cut (s0 := s0) x ?_ (fun k => ?_); rotate_left; clear_value x; rotate_left; subst x)
    | (intro x; clear_value x)
    | (intro x)
    | with_reducible apply kept_eachS
    | with_reducible apply kept_sendFlit
    | with_reducible apply kept_markSent
    | with_reducible apply kept_emit
    | with_reducible apply kept_whenS
    | with_reducible apply kept_modLink
    | lift_lets -underBinder

theorem kept_sendOn {s0 : State} (l : Nat) (p : Packet) {s : State}  (hK : Kept s0 s) : Kept s0 (sendOn l p s) := by
  unfold sendOn
  repeat' first
    | with_reducible assumption
    | (intro x; refine Kept.cut (s0 := s0) x ?_ (fun k => ?_); rotate_left; clear_value x; rotate_left; subst x)
    | (intro x; clear_value x)
    | (intro x)
    | with_reducible apply kept_modLink
    | with_reducible apply kept_transmit
    | split
    | lift_lets -underBinder

theorem kept_pumpCredits {s0 : State} (z0 : Nat) (z1 : Nat) {s : State}  (hK : Kept s0 s) : Kept s0 (pumpCredits z0 z1 s) := by
  induction z0 generalizing z1 s with
  | zero => exact hK
  | succ n ih =>
  unfold pumpCredits
  repeat' first
    | with_reducible assumption
    | (intro x; refine Kept.cut (s0 := s0) x ?_ (fun k => ?_); rotate_left; clear_value x; rotate_left; subst x)
    | (intro x; clear_value x)
    | (intro x)
    | with_reducible apply kept_transmit
    | with_reducible apply kept_modLink
    | with_reducible apply ih
    | split

theorem kept_leaveSite {s0 : State} (k : Nat) (p : Packet) {s : State}  (hK : Kept s0 s) : Kept s0 (leaveSite k p s) := by
  unfold leaveSite
  repeat' first
    | with_reducible assumption
    | (intro x; refine Kept.cut (s0 := s0) x ?_ (fun k => ?_); rotate_left; clear_value x; rotate_left; subst x)
    | (intro x; clear_value x)
    | (intro x)
    | with_reducible apply kept_modXlat
    | with_reducible apply kept_emit
    | split
    | lift_lets -underBinder

theorem kept_toSite {s0 : State} (k : Nat) (p : Packet) {s : State}  (hK : Kept s0 s) : Kept s0 (toSite k p s) := by
  unfold toSite
  repeat' first
    | with_reducible assumption
    | (intro x; refine Kept.cut (s0 := s0) x ?_ (fun k => ?_); rotate_left; clear_value x; rotate_left; subst x)
    | (intro x; clear_value x)
    | (intro x)
    | with_reducible apply kept_modSite
    | with_reducible apply kept_leaveSite
    | split
    | lift_lets -underBinder

theorem kept_pumpSite {s0 : State} (z0 : Nat) (z1 : Nat) {s : State}  (hK : Kept s0 s) : Kept s0 (pumpSite z0 z1 s) := by
  induction z0 generalizing z1 s with
  | zero => exact hK
  | succ n ih =>
  unfold pumpSite
  repeat' first
    | with_reducible assumption
    | (intro x; refine Kept.cut (s0 := s0) x ?_ (fun k => ?_); rotate_left; clear_value x; rotate_left; subst x)
    | (intro x; clear_value x)
    | (intro x)
    | with_reducible apply kept_leaveSite
    | with_reducible apply kept_modSite
    | with_reducible apply ih
    | split
    | lift_lets -underBinder

theorem kept_siteCredit {s0 : State} (k : Nat) {s : State}  (hK : Kept s0 s) : Kept s0 (siteCredit k s) := by
  unfold siteCredit
  repeat' first
    | with_reducible assumption
    | (intro x; refine Kept.cut (s0 := s0) x ?_ (fun k => ?_); rotate_left; clear_value x; rotate_left; subst x)
    | (intro x; clear_value x)
    | (intro x)
    | with_reducible apply kept_toSite
    | with_reducible apply kept_modSite
    | lift_lets -underBinder

theorem kept_oweSite {s0 : State} (k t n : Nat) {s : State}  (hK : Kept s0 s) : Kept s0 (oweSite k t n s) := by
  unfold oweSite
  repeat' first
    | with_reducible assumption
    | (intro x; refine Kept.cut (s0 := s0) x ?_ (fun k => ?_); rotate_left; clear_value x; rotate_left; subst x)
    | (intro x; clear_value x)
    | (intro x)
    | with_reducible apply kept_modSite
    | with_reducible apply kept_whenS
    | with_reducible apply kept_siteCredit
    | lift_lets -underBinder

theorem kept_under {s0 : State} (epoch : Nat) (f : State → State) {s : State} (hf : ∀  {u : State}, Kept s0 u → Kept s0 (f  u)) (hK : Kept s0 s) : Kept s0 (under epoch f s) := by
  unfold under
  repeat' first
    | with_reducible assumption
    | (intro x; refine Kept.cut (s0 := s0) x ?_ (fun k => ?_); rotate_left; clear_value x; rotate_left; subst x)
    | (intro x; clear_value x)
    | (intro x)
    | with_reducible apply kept_modRig
    | with_reducible apply hf

theorem kept_rewriteBlock {s0 : State} (l : Nat) {s : State} (hK : Kept s0 s) : Kept s0 (rewriteBlock l s) := by
  have put (ls : List (Nat × Line)) {u : State} (h : Kept s0 u) : Kept s0 (eachS ls (fun e s => putLine e.1 e.2 s) u) :=
    kept_eachS _ _ (fun _ {_} k => kept_putLine _ _ k) h
  unfold rewriteBlock
  dsimp only
  split
  · exact put _ hK
  · split
    · exact kept_modStack _ _ (put _ hK)
    · exact kept_modStack _ _ (put _ hK)

theorem kept_plainBlock {s0 : State} (l : Nat) {s : State}  (hK : Kept s0 s) : Kept s0 (plainBlock l s) := by
  unfold plainBlock
  repeat' first
    | with_reducible assumption
    | (intro x; refine Kept.cut (s0 := s0) x ?_ (fun k => ?_); rotate_left; clear_value x; rotate_left; subst x)
    | (intro x; clear_value x)
    | (intro x)
    | with_reducible apply kept_eachS
    | with_reducible apply kept_putLine
    | split

theorem kept_storeLine {s0 : State} (l : Nat) (d : LineData) {s : State}  (hK : Kept s0 s) : Kept s0 (storeLine l d s) := by
  unfold storeLine
  repeat' first
    | with_reducible assumption
    | (intro x; refine Kept.cut (s0 := s0) x ?_ (fun k => ?_); rotate_left; clear_value x; rotate_left; subst x)
    | (intro x; clear_value x)
    | (intro x)
    | with_reducible apply kept_plainBlock
    | with_reducible apply kept_rewriteBlock
    | with_reducible apply kept_putLine
    | split
    | lift_lets -underBinder

theorem kept_storeBurst {s0 : State} (l : Nat) (ds : List LineData) {s : State}  (hK : Kept s0 s) : Kept s0 (storeBurst l ds s) := by
  unfold storeBurst
  repeat' first
    | with_reducible assumption
    | (intro x; refine Kept.cut (s0 := s0) x ?_ (fun k => ?_); rotate_left; clear_value x; rotate_left; subst x)
    | (intro x; clear_value x)
    | (intro x)
    | with_reducible apply kept_eachS
    | with_reducible apply kept_putLine
    | with_reducible apply kept_whenS
    | with_reducible apply kept_rewriteBlock
    | lift_lets -underBinder

theorem kept_setPoison {s0 : State} (l reason : Nat) {s : State}  (hK : Kept s0 s) : Kept s0 (setPoison l reason s) := by
  unfold setPoison
  repeat' first
    | with_reducible assumption
    | (intro x; refine Kept.cut (s0 := s0) x ?_ (fun k => ?_); rotate_left; clear_value x; rotate_left; subst x)
    | (intro x; clear_value x)
    | (intro x)
    | with_reducible apply kept_whenS
    | with_reducible apply kept_putLine

theorem kept_acceptFull {s0 : State} (l : Nat) (d : LineData) {s : State}  (hK : Kept s0 s) : Kept s0 (acceptFull l d s).2 := by
  unfold acceptFull
  repeat' first
    | with_reducible assumption
    | with_reducible apply kept_storeLine
    | split

theorem kept_acceptFull_eq {s0 t : State} {cc} {l : Nat} {d : LineData} {s : State}  (hK : Kept s0 s) (eqn : acceptFull l d s = (cc, t)) : Kept s0 t := by
  have k := kept_acceptFull (s0 := s0) l d  hK
  rw [eqn] at k
  exact k

theorem kept_sendMirror {s0 : State} (g : Nat) (kind : MirrorKind) (lines : List Nat) (p : Packet) (reqs : List Req) (status : Status) (cmd : Option (Nat × Nat × Nat)) {s : State}  (hK : Kept s0 s) : Kept s0 (sendMirror g kind lines p reqs status cmd s) := by
  unfold sendMirror
  repeat' first
    | with_reducible assumption
    | (intro x; refine Kept.cut (s0 := s0) x ?_ (fun k => ?_); rotate_left; clear_value x; rotate_left; subst x)
    | (intro x; clear_value x)
    | (intro x)
    | with_reducible apply kept_modFab
    | with_reducible apply kept_modInteg
    | with_reducible apply kept_whenS
    | with_reducible apply kept_sendOn
    | split
    | lift_lets -underBinder

theorem kept_pumpMirror {s0 : State} {s : State}  (hK : Kept s0 s) : Kept s0 (pumpMirror s) := by
  unfold pumpMirror
  repeat' first
    | with_reducible assumption
    | (intro x; refine Kept.cut (s0 := s0) x ?_ (fun k => ?_); rotate_left; clear_value x; rotate_left; subst x)
    | (intro x; clear_value x)
    | (intro x)
    | with_reducible apply kept_eachS
    | with_reducible apply kept_modInteg
    | with_reducible apply kept_sendOn
    | split
    | lift_lets -underBinder

theorem kept_resendMirror {s0 : State} (o : MirrorOp) (p : Packet) {s : State}  (hK : Kept s0 s) : Kept s0 (resendMirror o p s) := by
  unfold resendMirror
  repeat' first
    | with_reducible assumption
    | (intro x; refine Kept.cut (s0 := s0) x ?_ (fun k => ?_); rotate_left; clear_value x; rotate_left; subst x)
    | (intro x; clear_value x)
    | (intro x)
    | with_reducible apply kept_pumpMirror
    | with_reducible apply kept_modInteg
    | split

theorem kept_holdLine {s0 : State} (l : Nat) (h : Hold) {s : State}  (hK : Kept s0 s) : Kept s0 (holdLine l h s) := by
  unfold holdLine
  repeat' first
    | with_reducible assumption
    | exact fun _ => rfl
    | (intro x; refine Kept.cut (s0 := s0) x ?_ (fun k => ?_); rotate_left; clear_value x; rotate_left; subst x)
    | (intro x; clear_value x)
    | (intro x)
    | with_reducible apply kept_modMem

theorem kept_freeLine {s0 : State} (l : Nat) {s : State}  (hK : Kept s0 s) : Kept s0 (freeLine l s) := by
  unfold freeLine
  repeat' first
    | with_reducible assumption
    | exact fun _ => rfl
    | (intro x; refine Kept.cut (s0 := s0) x ?_ (fun k => ?_); rotate_left; clear_value x; rotate_left; subst x)
    | (intro x; clear_value x)
    | (intro x)
    | with_reducible apply kept_modMem

theorem kept_mirrorPoison {s0 : State} (l : Nat) {s : State}  (hK : Kept s0 s) : Kept s0 (mirrorPoison l s) := by
  unfold mirrorPoison
  repeat' first
    | with_reducible assumption
    | (intro x; refine Kept.cut (s0 := s0) x ?_ (fun k => ?_); rotate_left; clear_value x; rotate_left; subst x)
    | (intro x; clear_value x)
    | (intro x)
    | with_reducible apply kept_holdLine
    | with_reducible apply kept_sendMirror
    | split
    | lift_lets -underBinder

theorem kept_poisonLine {s0 : State} (l reason : Nat) {s : State}  (hK : Kept s0 s) : Kept s0 (poisonLine l reason s) := by
  unfold poisonLine
  repeat' first
    | with_reducible assumption
    | (intro x; refine Kept.cut (s0 := s0) x ?_ (fun k => ?_); rotate_left; clear_value x; rotate_left; subst x)
    | (intro x; clear_value x)
    | (intro x)
    | with_reducible apply kept_whenS
    | with_reducible apply kept_mirrorPoison
    | with_reducible apply kept_setPoison

theorem kept_emptyBoothBuf {s0 : State} (b : Nat) {s : State}  (hK : Kept s0 s) : Kept s0 (emptyBoothBuf b s) := by
  unfold emptyBoothBuf
  repeat' first
    | with_reducible assumption
    | (intro x; refine Kept.cut (s0 := s0) x ?_ (fun k => ?_); rotate_left; clear_value x; rotate_left; subst x)
    | (intro x; clear_value x)
    | (intro x)
    | with_reducible apply kept_modCmds
    | with_reducible apply kept_modOrder
    | split

theorem kept_emptySiteBuf {s0 : State} (k : Nat) {s : State}  (hK : Kept s0 s) : Kept s0 (emptySiteBuf k s) := by
  unfold emptySiteBuf
  repeat' first
    | with_reducible assumption
    | (intro x; refine Kept.cut (s0 := s0) x ?_ (fun k => ?_); rotate_left; clear_value x; rotate_left; subst x)
    | (intro x; clear_value x)
    | (intro x)
    | with_reducible apply kept_modFab
    | with_reducible apply kept_modOrder
    | split

theorem kept_pushCompl {s0 : State} (q : Nat) (c : Compl) {s : State}  (hK : Kept s0 s) : Kept s0 (pushCompl q c s) := by
  unfold pushCompl
  repeat' first
    | with_reducible assumption
    | (intro x; refine Kept.cut (s0 := s0) x ?_ (fun k => ?_); rotate_left; clear_value x; rotate_left; subst x)
    | (intro x; clear_value x)
    | (intro x)
    | with_reducible apply kept_modQp
    | split
    | lift_lets -underBinder

theorem kept_modCmd {s0 : State} (q n : Nat) (f : Cmd → Cmd) {s : State}  (hK : Kept s0 s) : Kept s0 (modCmd q n f s) := by
  unfold modCmd
  repeat' first
    | with_reducible assumption
    | (intro x; refine Kept.cut (s0 := s0) x ?_ (fun k => ?_); rotate_left; clear_value x; rotate_left; subst x)
    | (intro x; clear_value x)
    | (intro x)
    | with_reducible apply kept_modCmds
    | split

theorem kept_releaseCmd {s0 : State} (c : Cmd) {s : State}  (hK : Kept s0 s) : Kept s0 (releaseCmd c s) := by
  unfold releaseCmd
  repeat' first
    | with_reducible assumption
    | exact fun _ => rfl
    | (intro x; refine Kept.cut (s0 := s0) x ?_ (fun k => ?_); rotate_left; clear_value x; rotate_left; subst x)
    | (intro x; clear_value x)
    | (intro x)
    | with_reducible apply kept_modXlat
    | with_reducible apply kept_modMem
    | with_reducible apply kept_modMoves
    | with_reducible apply kept_modInteg
    | split
    | lift_lets -underBinder

theorem kept_endCmd {s0 : State} (c : Cmd) (d : Done) {s : State}  (hK : Kept s0 s) : Kept s0 (endCmd c d s) := by
  unfold endCmd
  repeat' first
    | with_reducible assumption
    | (intro x; refine Kept.cut (s0 := s0) x ?_ (fun k => ?_); rotate_left; clear_value x; rotate_left; subst x)
    | (intro x; clear_value x)
    | (intro x)
    | with_reducible apply kept_releaseCmd
    | with_reducible apply kept_modCmds
    | with_reducible apply kept_modBooth
    | with_reducible apply kept_charge
    | with_reducible apply kept_drawFree
    | with_reducible apply kept_pushCompl
    | split
    | lift_lets -underBinder

theorem kept_endWait {s0 : State} (c : Cmd) {s : State}  (hK : Kept s0 s) : Kept s0 (endWait c s) := by
  unfold endWait
  repeat' first
    | with_reducible assumption
    | (intro x; refine Kept.cut (s0 := s0) x ?_ (fun k => ?_); rotate_left; clear_value x; rotate_left; subst x)
    | (intro x; clear_value x)
    | (intro x)
    | with_reducible apply kept_drawFree
    | with_reducible apply kept_endCmd
    | with_reducible apply kept_emptyBoothBuf
    | lift_lets -underBinder

theorem kept_waitDone {s0 : State} (w : CtrWait) {s : State}  (hK : Kept s0 s) : Kept s0 (waitDone w s) := by
  unfold waitDone
  repeat' first
    | with_reducible assumption
    | with_reducible apply kept_endWait
    | with_reducible apply kept_toSite
    | with_reducible apply kept_emptySiteBuf
    | split

theorem kept_settleWaits {s0 : State} (z0 : Nat) {s : State}  (hK : Kept s0 s) : Kept s0 (settleWaits z0 s) := by
  induction z0 generalizing s with
  | zero => exact hK
  | succ n ih =>
  unfold settleWaits
  repeat' first
    | with_reducible assumption
    | (intro x; refine Kept.cut (s0 := s0) x ?_ (fun k => ?_); rotate_left; clear_value x; rotate_left; subst x)
    | (intro x; clear_value x)
    | (intro x)
    | with_reducible apply kept_modOrder
    | with_reducible apply kept_whenS
    | with_reducible apply kept_setCtr
    | with_reducible apply kept_waitDone
    | with_reducible apply ih
    | split
    | lift_lets -underBinder

theorem kept_settleDue {s0 : State} {s : State}  (hK : Kept s0 s) : Kept s0 (settleDue s) := by
  unfold settleDue
  repeat' first
    | with_reducible assumption
    | (intro x; refine Kept.cut (s0 := s0) x ?_ (fun k => ?_); rotate_left; clear_value x; rotate_left; subst x)
    | (intro x; clear_value x)
    | (intro x)
    | with_reducible apply kept_modOrder

theorem kept_settleCtr {s0 : State} {s : State}  (hK : Kept s0 s) : Kept s0 (settleCtr s) := by
  unfold settleCtr
  repeat' first
    | with_reducible assumption
    | with_reducible apply kept_settleDue
    | with_reducible apply kept_settleWaits

theorem kept_arrive {s0 : State} (n bytes : Nat) {s : State}  (hK : Kept s0 s) : Kept s0 (arrive n bytes s) := by
  unfold arrive
  repeat' first
    | with_reducible assumption
    | with_reducible apply kept_settleCtr
    | with_reducible apply kept_setCtr
    | split

theorem kept_logEntry {s0 : State} (e : LogEntry) {s : State}  (hK : Kept s0 s) : Kept s0 (logEntry e s) := by
  unfold logEntry
  repeat' first
    | with_reducible assumption
    | (intro x; refine Kept.cut (s0 := s0) x ?_ (fun k => ?_); rotate_left; clear_value x; rotate_left; subst x)
    | (intro x; clear_value x)
    | (intro x)
    | with_reducible apply kept_modInteg
    | split
    | lift_lets -underBinder

theorem kept_numbered {s0 : State} (r : Req) (go : Req → State → State) {s : State} (hgo : ∀ (y0 : Req) {u : State}, Kept s0 u → Kept s0 (go y0 u)) (hK : Kept s0 s) : Kept s0 (numbered r go s) := by
  unfold numbered
  repeat' first
    | with_reducible assumption
    | exact fun _ => rfl
    | (intro x; refine Kept.cut (s0 := s0) x ?_ (fun k => ?_); rotate_left; clear_value x; rotate_left; subst x)
    | (intro x; clear_value x)
    | (intro x)
    | with_reducible apply kept_modMem
    | with_reducible apply hgo
    | split

theorem kept_inOrder {s0 : State} (f : Nat → State → State) {s : State} (hf : ∀ (y0 : Nat) {u : State}, Kept s0 u → Kept s0 (f y0 u)) (hK : Kept s0 s) : Kept s0 (inOrder f s) := by
  unfold inOrder
  repeat' first
    | with_reducible assumption
    | exact fun _ => rfl
    | (intro x; refine Kept.cut (s0 := s0) x ?_ (fun k => ?_); rotate_left; clear_value x; rotate_left; subst x)
    | (intro x; clear_value x)
    | (intro x)
    | with_reducible apply kept_modMem
    | with_reducible apply hf

theorem kept_park {s0 : State} (r : Req) (w : Wait) {s : State}  (hK : Kept s0 s) : Kept s0 (park r w s) := by
  unfold park
  repeat' first
    | with_reducible assumption
    | exact fun _ => rfl
    | (intro x; refine Kept.cut (s0 := s0) x ?_ (fun k => ?_); rotate_left; clear_value x; rotate_left; subst x)
    | (intro x; clear_value x)
    | (intro x)
    | with_reducible apply kept_numbered
    | with_reducible apply kept_modMem
    | split
    | lift_lets -underBinder

theorem kept_admitTo {s0 : State} (goal : Wait) (r : Req) (go : Req → State → State) {s : State} (hgo : ∀ (y0 : Req) {u : State}, Kept s0 u → Kept s0 (go y0 u)) (hK : Kept s0 s) : Kept s0 (admitTo goal r go s) := by
  unfold admitTo
  repeat' first
    | with_reducible assumption
    | exact fun _ => rfl
    | (intro x; refine Kept.cut (s0 := s0) x ?_ (fun k => ?_); rotate_left; clear_value x; rotate_left; subst x)
    | (intro x; clear_value x)
    | (intro x)
    | with_reducible apply kept_park
    | with_reducible apply kept_modMem
    | with_reducible apply hgo
    | split
    | lift_lets -underBinder

theorem kept_forwardHead {s0 : State} {s : State}  (hK : Kept s0 s) : Kept s0 (forwardHead s) := by
  unfold forwardHead
  repeat' first
    | with_reducible assumption
    | (intro x; refine Kept.cut (s0 := s0) x ?_ (fun k => ?_); rotate_left; clear_value x; rotate_left; subst x)
    | (intro x; clear_value x)
    | (intro x)
    | with_reducible apply kept_emit
    | split
    | lift_lets -underBinder

theorem kept_toMgmt {s0 : State} (r : Rec) {s : State}  (hK : Kept s0 s) : Kept s0 (toMgmt r s) := by
  unfold toMgmt
  repeat' first
    | with_reducible assumption
    | (intro x; refine Kept.cut (s0 := s0) x ?_ (fun k => ?_); rotate_left; clear_value x; rotate_left; subst x)
    | (intro x; clear_value x)
    | (intro x)
    | with_reducible apply kept_whenS
    | with_reducible apply kept_forwardHead
    | with_reducible apply kept_modBarker
    | split
    | lift_lets -underBinder

theorem kept_ringDone {s0 : State} (p : Nat) (good : Bool) {s : State}  (hK : Kept s0 s) : Kept s0 (ringDone p good s) := by
  unfold ringDone
  repeat' first
    | with_reducible assumption
    | (intro x; refine Kept.cut (s0 := s0) x ?_ (fun k => ?_); rotate_left; clear_value x; rotate_left; subst x)
    | (intro x; clear_value x)
    | (intro x)
    | with_reducible apply kept_modPart
    | with_reducible apply kept_eachS
    | with_reducible apply kept_toMgmt
    | split
    | lift_lets -underBinder

theorem kept_pumpRing {s0 : State} (z0 : Nat) (z1 : Nat) {s : State}  (hK : Kept s0 s) : Kept s0 (pumpRing z0 z1 s) := by
  induction z0 generalizing z1 s with
  | zero => exact hK
  | succ n ih =>
  unfold pumpRing
  repeat' first
    | with_reducible assumption
    | (intro x; refine Kept.cut (s0 := s0) x ?_ (fun k => ?_); rotate_left; clear_value x; rotate_left; subst x)
    | (intro x; clear_value x)
    | (intro x)
    | with_reducible apply kept_modPart
    | with_reducible apply kept_ringDone
    | with_reducible apply kept_park
    | with_reducible apply kept_acceptFull
    | with_reducible refine kept_acceptFull_eq ?_ ‹_›
    | with_reducible apply kept_holdLine
    | with_reducible apply kept_sendMirror
    | with_reducible apply kept_whenS
    | with_reducible apply kept_arrive
    | with_reducible apply ih
    | split
    | lift_lets -underBinder

theorem kept_toRing {s0 : State} (p : Nat) (r : Rec) {s : State}  (hK : Kept s0 s) : Kept s0 (toRing p r s) := by
  unfold toRing
  repeat' first
    | with_reducible assumption
    | (intro x; refine Kept.cut (s0 := s0) x ?_ (fun k => ?_); rotate_left; clear_value x; rotate_left; subst x)
    | (intro x; clear_value x)
    | (intro x)
    | with_reducible apply kept_modPart
    | with_reducible apply kept_pumpRing
    | lift_lets -underBinder

theorem kept_deliver {s0 : State} (r : Rec) {s : State}  (hK : Kept s0 s) : Kept s0 (deliver r s) := by
  unfold deliver
  repeat' first
    | with_reducible assumption
    | (intro x; refine Kept.cut (s0 := s0) x ?_ (fun k => ?_); rotate_left; clear_value x; rotate_left; subst x)
    | (intro x; clear_value x)
    | (intro x)
    | with_reducible apply kept_eachS
    | with_reducible apply kept_toRing
    | with_reducible apply kept_whenS
    | with_reducible apply kept_toMgmt
    | split
    | lift_lets -underBinder

theorem kept_post {s0 : State} (r : Rec) {s : State}  (hK : Kept s0 s) : Kept s0 (post r s) := by
  unfold post
  repeat' first
    | with_reducible assumption
    | (intro x; refine Kept.cut (s0 := s0) x ?_ (fun k => ?_); rotate_left; clear_value x; rotate_left; subst x)
    | (intro x; clear_value x)
    | (intro x)
    | with_reducible apply kept_deliver
    | with_reducible apply kept_modBarker
    | split
    | lift_lets -underBinder

theorem kept_strike {s0 : State} (f : Upset → Bool) {s : State}  (hK : Kept s0 s) : Kept s0 (strike f s).2 := by
  unfold strike
  repeat' first
    | with_reducible assumption
    | split
    | with_reducible exact Kept.of_eq k rfl rfl rfl
    | with_reducible exact Kept.of_eq hK rfl rfl rfl

theorem kept_strike_eq {s0 t : State} {cc} {f : Upset → Bool} {s : State}  (hK : Kept s0 s) (eqn : strike f s = (cc, t)) : Kept s0 t := by
  have k := kept_strike (s0 := s0) f  hK
  rw [eqn] at k
  exact k

theorem kept_doubleCheck {s0 : State} (part node n l : Nat) {s : State}  (hK : Kept s0 s) : Kept s0 (doubleCheck part node n l s).2 := by
  unfold doubleCheck
  repeat' first
    | with_reducible assumption
    | (intro x; refine Kept.cut (s0 := s0) x ?_ (fun k => ?_); rotate_left; clear_value x; rotate_left; subst x)
    | (intro x; clear_value x)
    | (intro x)
    | with_reducible apply kept_strike
    | with_reducible refine kept_strike_eq ?_ ‹_›
    | with_reducible apply kept_modStack
    | with_reducible apply kept_post
    | split
    | lift_lets -underBinder

theorem kept_doubleCheck_eq {s0 t : State} {cc} {part node n l : Nat} {s : State}  (hK : Kept s0 s) (eqn : doubleCheck part node n l s = (cc, t)) : Kept s0 t := by
  have k := kept_doubleCheck (s0 := s0) part node n l  hK
  rw [eqn] at k
  exact k

theorem kept_acceptMerge {s0 : State} (part node n l : Nat) (image : LineData) (good : Status) {s : State}  (hK : Kept s0 s) : Kept s0 (acceptMerge part node n l image good s).2 := by
  unfold acceptMerge
  repeat' first
    | with_reducible assumption
    | (intro x; refine Kept.cut (s0 := s0) x ?_ (fun k => ?_); rotate_left; clear_value x; rotate_left; subst x)
    | (intro x; clear_value x)
    | (intro x)
    | with_reducible apply kept_doubleCheck
    | with_reducible refine kept_doubleCheck_eq ?_ ‹_›
    | with_reducible apply kept_modStack
    | with_reducible apply kept_storeLine
    | split

theorem kept_acceptMerge_eq {s0 t : State} {cc} {part node n l : Nat} {image : LineData} {good : Status} {s : State}  (hK : Kept s0 s) (eqn : acceptMerge part node n l image good s = (cc, t)) : Kept s0 t := by
  have k := kept_acceptMerge (s0 := s0) part node n l image good  hK
  rw [eqn] at k
  exact k

theorem kept_setPartSt {s0 : State} (p : Nat) (st : PartSt) {s : State}  (hK : Kept s0 s) : Kept s0 (setPartSt p st s) := by
  unfold setPartSt
  repeat' first
    | with_reducible assumption
    | (intro x; refine Kept.cut (s0 := s0) x ?_ (fun k => ?_); rotate_left; clear_value x; rotate_left; subst x)
    | (intro x; clear_value x)
    | (intro x)
    | with_reducible apply kept_modPart
    | with_reducible apply kept_post
    | split
    | lift_lets -underBinder

theorem kept_startExit {s0 : State} (w : Wake) {s : State}  (hK : Kept s0 s) : Kept s0 (startExit w s) := by
  unfold startExit
  repeat' first
    | with_reducible assumption
    | (intro x; refine Kept.cutF (s0 := s0) x ?_ (fun k => ?_); rotate_left; clear_value x; rotate_left; subst x; intro u hu; try dsimp only)
    | (intro x; refine Kept.cutF1 (s0 := s0) x ?_ (fun k => ?_); rotate_left; clear_value x; rotate_left; subst x; intro a u hu; try dsimp only)
    | (intro x; refine Kept.cutF2 (s0 := s0) x ?_ (fun k => ?_); rotate_left; clear_value x; rotate_left; subst x; intro a b u hu; try dsimp only)
    | (intro x; refine Kept.cut (s0 := s0) x ?_ (fun k => ?_); rotate_left; clear_value x; rotate_left; subst x)
    | (intro x; clear_value x)
    | (intro x)
    | with_reducible apply kept_modPart
    | with_reducible apply kept_setPartSt
    | with_reducible apply kept_modPower
    | split
    | lift_lets -underBinder
    | refine Kept.app (by assumption) ?_
    | refine Kept.app1 (by assumption) ?_
    | refine Kept.app2 (by assumption) ?_

theorem kept_admitQueue {s0 : State} (z0 : Nat) {s : State}  (hK : Kept s0 s) : Kept s0 (admitQueue z0 s) := by
  induction z0 generalizing s with
  | zero => exact hK
  | succ n ih =>
  unfold admitQueue
  repeat' first
    | with_reducible assumption
    | (intro x; refine Kept.cut (s0 := s0) x ?_ (fun k => ?_); rotate_left; clear_value x; rotate_left; subst x)
    | (intro x; clear_value x)
    | (intro x)
    | with_reducible apply kept_modPower
    | with_reducible apply kept_startExit
    | with_reducible apply ih
    | split
    | lift_lets -underBinder

theorem kept_beginSlot {s0 : State} {s : State}  (hK : Kept s0 s) : Kept s0 (beginSlot s) := by
  unfold beginSlot
  repeat' first
    | with_reducible assumption
    | (intro x; refine Kept.cut (s0 := s0) x ?_ (fun k => ?_); rotate_left; clear_value x; rotate_left; subst x)
    | (intro x; clear_value x)
    | (intro x)
    | with_reducible apply kept_modPower
    | split

theorem kept_admitWakes {s0 : State} {s : State}  (hK : Kept s0 s) : Kept s0 (admitWakes s) := by
  unfold admitWakes
  repeat' first
    | with_reducible assumption
    | (intro x; refine Kept.cut (s0 := s0) x ?_ (fun k => ?_); rotate_left; clear_value x; rotate_left; subst x)
    | (intro x; clear_value x)
    | (intro x)
    | with_reducible apply kept_beginSlot
    | with_reducible apply kept_admitQueue
    | lift_lets -underBinder

theorem kept_queueWake {s0 : State} (w : Wake) {s : State}  (hK : Kept s0 s) : Kept s0 (queueWake w s) := by
  unfold queueWake
  repeat' first
    | with_reducible assumption
    | (intro x; refine Kept.cut (s0 := s0) x ?_ (fun k => ?_); rotate_left; clear_value x; rotate_left; subst x)
    | (intro x; clear_value x)
    | (intro x)
    | with_reducible apply kept_admitWakes
    | with_reducible apply kept_modPower
    | split

theorem kept_wakePart {s0 : State} (p time : Nat) {s : State}  (hK : Kept s0 s) : Kept s0 (wakePart p time s) := by
  unfold wakePart
  repeat' first
    | with_reducible assumption
    | (intro x; refine Kept.cut (s0 := s0) x ?_ (fun k => ?_); rotate_left; clear_value x; rotate_left; subst x)
    | (intro x; clear_value x)
    | (intro x)
    | with_reducible apply kept_queueWake
    | with_reducible apply kept_modPart
    | split
    | lift_lets -underBinder

theorem kept_accessViolation {s0 : State} (w : Writer) (part addr v : Nat) {s : State}  (hK : Kept s0 s) : Kept s0 (accessViolation w part addr v s) := by
  unfold accessViolation
  repeat' first
    | with_reducible assumption
    | with_reducible apply kept_post

end Sys2Proof.Machine
end

