-- ==== Sys2Proof/Laws/KeptServe.lean ====
section
/-! SUPPORT. What the operations of Machine/Serve.lean keep (Kept). -/

namespace Sys2Proof.Machine

set_option linter.all false
set_option Elab.async false

theorem kept_checkFailed {s0 : State} (r : Req) (order : Nat) (c : Status) {s : State}  (hK : Kept s0 s) : Kept s0 (checkFailed r order c s) := by
  unfold checkFailed
  repeat' first
    | with_reducible assumption
    | (intro x; refine Kept.cut (s0 := s0) x ?_ (fun k => ?_); rotate_left; clear_value x; rotate_left; subst x)
    | (intro x; clear_value x)
    | (intro x)
    | with_reducible apply kept_post
    | with_reducible apply kept_whenS
    | with_reducible apply kept_chargeReq
    | lift_lets -underBinder

theorem kept_keyMissingOf {s0 : State} (loc qp node l : Nat) {s : State}  (hK : Kept s0 s) : Kept s0 (keyMissingOf loc qp node l s) := by
  unfold keyMissingOf
  repeat' first
    | with_reducible assumption
    | (intro x; refine Kept.cut (s0 := s0) x ?_ (fun k => ?_); rotate_left; clear_value x; rotate_left; subst x)
    | (intro x; clear_value x)
    | (intro x)
    | with_reducible apply kept_post
    | split
    | lift_lets -underBinder

theorem kept_postKeyMissing {s0 : State} (r : Req) (l : Nat) {s : State}  (hK : Kept s0 s) : Kept s0 (postKeyMissing r l s) := by
  unfold postKeyMissing
  repeat' first
    | with_reducible assumption
    | with_reducible apply kept_keyMissingOf

theorem kept_postLine {s0 : State} (l outcome : Nat) (c : Status) {s : State}  (hK : Kept s0 s) : Kept s0 (postLine l outcome c s) := by
  unfold postLine
  repeat' first
    | with_reducible assumption
    | with_reducible apply kept_post

theorem kept_fillSiteBuf {s0 : State} (k : Nat) (addr : Word) (ds : List LineData) {s : State}  (hK : Kept s0 s) : Kept s0 (fillSiteBuf k addr ds s) := by
  unfold fillSiteBuf
  repeat' first
    | with_reducible assumption
    | (intro x; refine Kept.cut (s0 := s0) x ?_ (fun k => ?_); rotate_left; clear_value x; rotate_left; subst x)
    | (intro x; clear_value x)
    | (intro x)
    | with_reducible apply kept_whenS
    | with_reducible apply kept_modOrder
    | split

theorem kept_sendAnswer {s0 : State} (l : Nat) (r : Req) (p : Packet) {s : State}  (hK : Kept s0 s) : Kept s0 (sendAnswer l r p s) := by
  unfold sendAnswer
  repeat' first
    | with_reducible assumption
    | with_reducible apply kept_sendOn
    | with_reducible apply kept_chargeReq
    | split

theorem kept_toAsker {s0 : State} (r : Req) (k : Nat) (p : Packet) {s : State}  (hK : Kept s0 s) : Kept s0 (toAsker r k p s) := by
  unfold toAsker
  repeat' first
    | with_reducible assumption
    | (intro x; refine Kept.cut (s0 := s0) x ?_ (fun k => ?_); rotate_left; clear_value x; rotate_left; subst x)
    | (intro x; clear_value x)
    | (intro x)
    | with_reducible apply kept_whenS
    | with_reducible apply kept_toSite

theorem kept_fillBoothBuf {s0 : State} (b addr : Nat) (d : LineData) {s : State}  (hK : Kept s0 s) : Kept s0 (fillBoothBuf b addr d s) := by
  unfold fillBoothBuf
  repeat' first
    | with_reducible assumption
    | (intro x; refine Kept.cut (s0 := s0) x ?_ (fun k => ?_); rotate_left; clear_value x; rotate_left; subst x)
    | (intro x; clear_value x)
    | (intro x)
    | with_reducible apply kept_whenS
    | with_reducible apply kept_modOrder

theorem kept_countRows {s0 : State} (q n : Nat) {s : State}  (hK : Kept s0 s) : Kept s0 (countRows q n s) := by
  unfold countRows
  repeat' first
    | with_reducible assumption
    | (intro x; refine Kept.cut (s0 := s0) x ?_ (fun k => ?_); rotate_left; clear_value x; rotate_left; subst x)
    | (intro x; clear_value x)
    | (intro x)
    | with_reducible apply kept_modBooth
    | with_reducible apply kept_modCmd
    | split
    | lift_lets -underBinder

theorem kept_shareLine {s0 : State} (c : Cmd) (list va : Nat) (d : LineData) {s : State}  (hK : Kept s0 s) : Kept s0 (shareLine c list va d s) := by
  unfold shareLine
  repeat' first
    | with_reducible assumption
    | (intro x; refine Kept.cut (s0 := s0) x ?_ (fun k => ?_); rotate_left; clear_value x; rotate_left; subst x)
    | (intro x; clear_value x)
    | (intro x)
    | with_reducible apply kept_modBooth
    | split
    | lift_lets -underBinder

theorem kept_boothAnswer {s0 : State} (q n id : Nat) (a : Answer) {s : State}  (hK : Kept s0 s) : Kept s0 (boothAnswer q n id a s) := by
  unfold boothAnswer
  repeat' first
    | with_reducible assumption
    | (intro x; refine Kept.cut (s0 := s0) x ?_ (fun k => ?_); rotate_left; clear_value x; rotate_left; subst x)
    | (intro x; clear_value x)
    | (intro x)
    | with_reducible apply kept_modQp
    | with_reducible apply kept_whenS
    | with_reducible apply kept_fillBoothBuf
    | with_reducible apply kept_shareLine
    | with_reducible apply kept_countRows
    | with_reducible apply kept_modCmd
    | split
    | lift_lets -underBinder

theorem kept_recordReplay {s0 : State} (r : Req) (results : List (BitVec 128)) (a : Answer) {s : State}  (hK : Kept s0 s) : Kept s0 (recordReplay r results a s) := by
  unfold recordReplay
  repeat' first
    | with_reducible assumption
    | (intro x; refine Kept.cut (s0 := s0) x ?_ (fun k => ?_); rotate_left; clear_value x; rotate_left; subst x)
    | (intro x; clear_value x)
    | (intro x)
    | with_reducible apply kept_modOrder
    | with_reducible apply kept_eachS
    | with_reducible apply kept_sendAnswer
    | split
    | lift_lets -underBinder

theorem kept_finish {s0 : State} (r : Req) (a : Answer) {s : State}  (hK : Kept s0 s) : Kept s0 (finish r a s) := by
  unfold finish
  repeat' first
    | with_reducible assumption
    | (intro x; refine Kept.cut (s0 := s0) x ?_ (fun k => ?_); rotate_left; clear_value x; rotate_left; subst x)
    | (intro x; clear_value x)
    | (intro x)
    | with_reducible apply kept_whenS
    | with_reducible apply kept_chargeReq
    | with_reducible apply kept_fillSiteBuf
    | with_reducible apply kept_toAsker
    | with_reducible apply kept_recordReplay
    | with_reducible apply kept_sendAnswer
    | with_reducible apply kept_boothAnswer
    | with_reducible apply kept_ringDone
    | with_reducible apply kept_pumpRing
    | split
    | lift_lets -underBinder

theorem kept_refuse {s0 : State} (r : Req) (c : Status) {s : State}  (hK : Kept s0 s) : Kept s0 (refuse r c s) := by
  unfold refuse
  repeat' first
    | with_reducible assumption
    | with_reducible apply kept_sendAnswer
    | with_reducible apply kept_toAsker
    | with_reducible apply kept_boothAnswer
    | split

theorem kept_writeDone {s0 : State} (r : Req) (c : Status) {s : State}  (hK : Kept s0 s) : Kept s0 (writeDone r c s) := by
  unfold writeDone
  repeat' first
    | with_reducible assumption
    | (intro x; refine Kept.cut (s0 := s0) x ?_ (fun k => ?_); rotate_left; clear_value x; rotate_left; subst x)
    | (intro x; clear_value x)
    | (intro x)
    | with_reducible apply kept_whenS
    | with_reducible apply kept_chargeReq
    | with_reducible apply kept_arrive
    | with_reducible apply kept_finish
    | split
    | lift_lets -underBinder

theorem kept_askPartner {s0 : State} (l : Nat) (kind : MirrorKind) (reqs : List Req) (cmd : Option (Nat × Nat × Nat)) {s : State}  (hK : Kept s0 s) : Kept s0 (askPartner l kind reqs cmd s) := by
  unfold askPartner
  repeat' first
    | with_reducible assumption
    | (intro x; refine Kept.cut (s0 := s0) x ?_ (fun k => ?_); rotate_left; clear_value x; rotate_left; subst x)
    | (intro x; clear_value x)
    | (intro x)
    | with_reducible apply kept_sendMirror
    | lift_lets -underBinder

theorem kept_settlePoisoned {s0 : State} (l : Nat) (found : BitVec 32) {s : State}  (hK : Kept s0 s) : Kept s0 (settlePoisoned l found s) := by
  unfold settlePoisoned
  repeat' first
    | with_reducible assumption
    | (intro x; refine Kept.cut (s0 := s0) x ?_ (fun k => ?_); rotate_left; clear_value x; rotate_left; subst x)
    | (intro x; clear_value x)
    | (intro x)
    | with_reducible apply kept_modInteg
    | with_reducible apply kept_postLine
    | with_reducible apply kept_logEntry
    | with_reducible apply kept_poisonLine
    | lift_lets -underBinder

theorem kept_noteFound {s0 : State} (l : Nat) (found : BitVec 32) {s : State}  (hK : Kept s0 s) : Kept s0 (noteFound l found s) := by
  unfold noteFound
  repeat' first
    | with_reducible assumption
    | (intro x; refine Kept.cut (s0 := s0) x ?_ (fun k => ?_); rotate_left; clear_value x; rotate_left; subst x)
    | (intro x; clear_value x)
    | (intro x)
    | with_reducible apply kept_modInteg
    | split

theorem kept_settleLasting {s0 : State} (l : Nat) (found : BitVec 32) {s : State}  (hK : Kept s0 s) : Kept s0 (settleLasting l found s) := by
  unfold settleLasting
  repeat' first
    | with_reducible assumption
    | (intro x; refine Kept.cut (s0 := s0) x ?_ (fun k => ?_); rotate_left; clear_value x; rotate_left; subst x)
    | (intro x; clear_value x)
    | (intro x)
    | with_reducible apply kept_modInteg
    | with_reducible apply kept_holdLine
    | with_reducible apply kept_noteFound
    | with_reducible apply kept_askPartner
    | with_reducible apply kept_settlePoisoned
    | split
    | lift_lets -underBinder

theorem kept_lineTransient {s0 : State} (l : Nat) (found : BitVec 32) {s : State}  (hK : Kept s0 s) : Kept s0 (lineTransient l found s) := by
  unfold lineTransient
  repeat' first
    | with_reducible assumption
    | (intro x; refine Kept.cut (s0 := s0) x ?_ (fun k => ?_); rotate_left; clear_value x; rotate_left; subst x)
    | (intro x; clear_value x)
    | (intro x)
    | with_reducible apply kept_logEntry
    | with_reducible apply kept_modInteg

theorem kept_settleRead {s0 : State} (ls : List Nat) (fix : Bool) (lasting : Nat → BitVec 32 → State → State) {s : State} (hlasting : ∀ (y0 : Nat) (y1 : BitVec 32) {u : State}, Kept s0 u → Kept s0 (lasting y0 y1 u)) (hK : Kept s0 s) : Kept s0 (settleRead ls fix lasting s) := by
  unfold settleRead
  repeat' first
    | with_reducible assumption
    | (intro x; refine Kept.cut (s0 := s0) x ?_ (fun k => ?_); rotate_left; clear_value x; rotate_left; subst x)
    | (intro x; clear_value x)
    | (intro x)
    | with_reducible apply kept_plainBlock
    | with_reducible apply kept_eachS
    | with_reducible apply kept_lineTransient
    | with_reducible apply hlasting
    | split
    | lift_lets -underBinder
    | with_reducible exact Kept.of_eq k rfl rfl rfl
    | with_reducible exact Kept.of_eq hK rfl rfl rfl

theorem kept_settleBad {s0 : State} (l : Nat) {s : State}  (hK : Kept s0 s) : Kept s0 (settleBad l s) := by
  unfold settleBad
  repeat' first
    | with_reducible assumption
    | with_reducible apply kept_settleRead
    | with_reducible apply kept_settleLasting

theorem kept_lastingLeft {s0 : State} (l : Nat) (found : BitVec 32) {s : State}  (hK : Kept s0 s) : Kept s0 (lastingLeft l found s) := by
  unfold lastingLeft
  repeat' first
    | with_reducible assumption
    | (intro x; refine Kept.cut (s0 := s0) x ?_ (fun k => ?_); rotate_left; clear_value x; rotate_left; subst x)
    | (intro x; clear_value x)
    | (intro x)
    | with_reducible apply kept_modInteg
    | with_reducible apply kept_postLine
    | with_reducible apply kept_logEntry
    | lift_lets -underBinder

theorem kept_settleOthers {s0 : State} (l : Nat) {s : State}  (hK : Kept s0 s) : Kept s0 (settleOthers l s) := by
  unfold settleOthers
  repeat' first
    | with_reducible assumption
    | (intro x; refine Kept.cutF (s0 := s0) x ?_ (fun k => ?_); rotate_left; clear_value x; rotate_left; subst x; intro u hu; try dsimp only)
    | (intro x; refine Kept.cutF1 (s0 := s0) x ?_ (fun k => ?_); rotate_left; clear_value x; rotate_left; subst x; intro a u hu; try dsimp only)
    | (intro x; refine Kept.cutF2 (s0 := s0) x ?_ (fun k => ?_); rotate_left; clear_value x; rotate_left; subst x; intro a b u hu; try dsimp only)
    | (intro x; refine Kept.cut (s0 := s0) x ?_ (fun k => ?_); rotate_left; clear_value x; rotate_left; subst x)
    | (intro x; clear_value x)
    | (intro x)
    | with_reducible apply kept_lastingLeft
    | with_reducible apply kept_settleLasting
    | with_reducible apply kept_whenS
    | with_reducible apply kept_settleRead
    | split
    | lift_lets -underBinder
    | refine Kept.app (by assumption) ?_
    | refine Kept.app1 (by assumption) ?_
    | refine Kept.app2 (by assumption) ?_

theorem kept_handPass {s0 : State} (r : Req) {s : State}  (hK : Kept s0 s) : Kept s0 (handPass r s).2 := by
  unfold handPass
  repeat' first
    | with_reducible assumption
    | (intro x; refine Kept.cut (s0 := s0) x ?_ (fun k => ?_); rotate_left; clear_value x; rotate_left; subst x)
    | (intro x; clear_value x)
    | (intro x)
    | with_reducible apply kept_strike
    | with_reducible refine kept_strike_eq ?_ ‹_›
    | with_reducible apply kept_modInteg
    | with_reducible apply kept_post
    | with_reducible apply kept_logEntry
    | split
    | lift_lets -underBinder

theorem kept_handPass_eq {s0 t : State} {cc} {r : Req} {s : State}  (hK : Kept s0 s) (eqn : handPass r s = (cc, t)) : Kept s0 t := by
  have k := kept_handPass (s0 := s0) r  hK
  rw [eqn] at k
  exact k

theorem kept_handOver {s0 : State} (go : Req → State → State) (r : Req) {s : State} (hgo : ∀ (y0 : Req) {u : State}, Kept s0 u → Kept s0 (go y0 u)) (hK : Kept s0 s) : Kept s0 (handOver go r s) := by
  unfold handOver
  repeat' first
    | with_reducible assumption
    | (intro x; refine Kept.cut (s0 := s0) x ?_ (fun k => ?_); rotate_left; clear_value x; rotate_left; subst x)
    | (intro x; clear_value x)
    | (intro x)
    | with_reducible apply kept_handPass
    | with_reducible refine kept_handPass_eq ?_ ‹_›
    | with_reducible apply kept_finish
    | with_reducible apply hgo
    | split

theorem kept_noteKey {s0 : State} (r : Req) (ls : List Nat) (c : Status) {s : State}  (hK : Kept s0 s) : Kept s0 (noteKey r ls c s) := by
  unfold noteKey
  repeat' first
    | with_reducible assumption
    | (intro x; refine Kept.cut (s0 := s0) x ?_ (fun k => ?_); rotate_left; clear_value x; rotate_left; subst x)
    | (intro x; clear_value x)
    | (intro x)
    | with_reducible apply kept_whenS
    | with_reducible apply kept_postKeyMissing
    | split

theorem kept_entryStatuses {s0 : State} (r : Req) (cs : List Status) {s : State}  (hK : Kept s0 s) : Kept s0 (entryStatuses r cs s) := by
  unfold entryStatuses
  repeat' first
    | with_reducible assumption
    | (intro x; refine Kept.cut (s0 := s0) x ?_ (fun k => ?_); rotate_left; clear_value x; rotate_left; subst x)
    | (intro x; clear_value x)
    | (intro x)
    | with_reducible apply kept_modCmd
    | split

theorem kept_serveRead {s0 : State} (z0 : Nat) (z1 : Req) {s : State}  (hK : Kept s0 s) : Kept s0 (serveRead z0 z1 s) := by
  induction z0 generalizing z1 s with
  | zero => exact hK
  | succ n ih =>
  unfold serveRead
  repeat' first
    | with_reducible assumption
    | (intro x; refine Kept.cut (s0 := s0) x ?_ (fun k => ?_); rotate_left; clear_value x; rotate_left; subst x)
    | (intro x; clear_value x)
    | (intro x)
    | with_reducible apply kept_settleBad
    | with_reducible apply kept_park
    | with_reducible apply kept_askPartner
    | with_reducible apply kept_noteKey
    | with_reducible apply kept_entryStatuses
    | with_reducible apply kept_finish
    | with_reducible apply ih
    | split
    | lift_lets -underBinder

theorem kept_mirrorWrite {s0 : State} (rs : List Req) (c : Status) (l : Nat) {s : State}  (hK : Kept s0 s) : Kept s0 (mirrorWrite rs c l s) := by
  unfold mirrorWrite
  repeat' first
    | with_reducible assumption
    | with_reducible apply kept_holdLine
    | with_reducible apply kept_sendMirror

theorem kept_afterAccept {s0 : State} (rs : List Req) (c : Status) (ls : List Nat) {s : State}  (hK : Kept s0 s) : Kept s0 (afterAccept rs c ls s) := by
  unfold afterAccept
  repeat' first
    | with_reducible assumption
    | (intro x; refine Kept.cut (s0 := s0) x ?_ (fun k => ?_); rotate_left; clear_value x; rotate_left; subst x)
    | (intro x; clear_value x)
    | (intro x)
    | with_reducible apply kept_eachS
    | with_reducible apply kept_mirrorWrite
    | with_reducible apply kept_writeDone
    | split
    | lift_lets -underBinder

theorem kept_serveFull {s0 : State} (r : Req) {s : State}  (hK : Kept s0 s) : Kept s0 (serveFull r s) := by
  unfold serveFull
  repeat' first
    | with_reducible assumption
    | (intro x; refine Kept.cut (s0 := s0) x ?_ (fun k => ?_); rotate_left; clear_value x; rotate_left; subst x)
    | (intro x; clear_value x)
    | (intro x)
    | with_reducible apply kept_writeDone
    | with_reducible apply kept_noteKey
    | with_reducible apply kept_storeLine
    | with_reducible apply kept_settleOthers
    | with_reducible apply kept_eachS
    | with_reducible apply kept_storeBurst
    | with_reducible apply kept_afterAccept
    | split
    | lift_lets -underBinder

theorem kept_parkLine {s0 : State} (r : Req) {s : State}  (hK : Kept s0 s) : Kept s0 (parkLine r s) := by
  unfold parkLine
  repeat' first
    | with_reducible assumption
    | (intro x; refine Kept.cut (s0 := s0) x ?_ (fun k => ?_); rotate_left; clear_value x; rotate_left; subst x)
    | (intro x; clear_value x)
    | (intro x)
    | with_reducible apply kept_park
    | with_reducible apply kept_modStack
    | split
    | lift_lets -underBinder

theorem kept_mergeDone {s0 : State} (c : Status) (r : Req) {s : State}  (hK : Kept s0 s) : Kept s0 (mergeDone c r s) := by
  unfold mergeDone
  repeat' first
    | with_reducible assumption
    | with_reducible apply kept_finish
    | with_reducible apply kept_chargeReq
    | with_reducible apply kept_writeDone
    | split

theorem kept_mergeInto {s0 : State} (rs : List Req) (l : Nat) (base : LineData) (c : Status) {s : State}  (hK : Kept s0 s) : Kept s0 (mergeInto rs l base c s) := by
  unfold mergeInto
  repeat' first
    | with_reducible assumption
    | (intro x; refine Kept.cut (s0 := s0) x ?_ (fun k => ?_); rotate_left; clear_value x; rotate_left; subst x)
    | (intro x; clear_value x)
    | (intro x)
    | with_reducible apply kept_eachS
    | with_reducible apply kept_mergeDone
    | with_reducible apply kept_acceptMerge
    | with_reducible refine kept_acceptMerge_eq ?_ ‹_›
    | with_reducible apply kept_settleOthers
    | with_reducible apply kept_mirrorWrite
    | split
    | lift_lets -underBinder

theorem kept_serveNarrow {s0 : State} (z0 : Nat) (z1 : Req) {s : State}  (hK : Kept s0 s) : Kept s0 (serveNarrow z0 z1 s) := by
  induction z0 generalizing z1 s with
  | zero => exact hK
  | succ n ih =>
  unfold serveNarrow
  repeat' first
    | with_reducible assumption
    | exact fun _ => rfl
    | (intro x; refine Kept.cutF (s0 := s0) x ?_ (fun k => ?_); rotate_left; clear_value x; rotate_left; subst x; intro u hu; try dsimp only)
    | (intro x; refine Kept.cutF1 (s0 := s0) x ?_ (fun k => ?_); rotate_left; clear_value x; rotate_left; subst x; intro a u hu; try dsimp only)
    | (intro x; refine Kept.cutF2 (s0 := s0) x ?_ (fun k => ?_); rotate_left; clear_value x; rotate_left; subst x; intro a b u hu; try dsimp only)
    | (intro x; refine Kept.cut (s0 := s0) x ?_ (fun k => ?_); rotate_left; clear_value x; rotate_left; subst x)
    | (intro x; clear_value x)
    | (intro x)
    | with_reducible apply kept_modMem
    | with_reducible apply kept_eachS
    | with_reducible apply kept_writeDone
    | with_reducible apply kept_noteKey
    | with_reducible apply kept_park
    | with_reducible apply kept_settleBad
    | with_reducible apply kept_mergeInto
    | with_reducible apply ih
    | split
    | lift_lets -underBinder
    | refine Kept.app (by assumption) ?_
    | refine Kept.app1 (by assumption) ?_
    | refine Kept.app2 (by assumption) ?_

theorem kept_serveCommit {s0 : State} (z0 : Nat) (z1 : Req) {s : State}  (hK : Kept s0 s) : Kept s0 (serveCommit z0 z1 s) := by
  induction z0 generalizing z1 s with
  | zero => exact hK
  | succ n ih =>
  unfold serveCommit
  repeat' first
    | with_reducible assumption
    | (intro x; refine Kept.cut (s0 := s0) x ?_ (fun k => ?_); rotate_left; clear_value x; rotate_left; subst x)
    | (intro x; clear_value x)
    | (intro x)
    | with_reducible apply kept_writeDone
    | with_reducible apply kept_noteKey
    | with_reducible apply kept_finish
    | with_reducible apply kept_settleBad
    | with_reducible apply kept_park
    | with_reducible apply kept_acceptFull
    | with_reducible refine kept_acceptFull_eq ?_ ‹_›
    | with_reducible apply kept_settleOthers
    | with_reducible apply kept_afterAccept
    | with_reducible apply ih
    | split
    | lift_lets -underBinder

theorem kept_perform {s0 : State} (r : Req) {s : State}  (hK : Kept s0 s) : Kept s0 (perform r s) := by
  unfold perform
  repeat' first
    | with_reducible assumption
    | (intro x; refine Kept.cut (s0 := s0) x ?_ (fun k => ?_); rotate_left; clear_value x; rotate_left; subst x)
    | (intro x; clear_value x)
    | (intro x)
    | with_reducible apply kept_serveRead
    | with_reducible apply kept_serveNarrow
    | with_reducible apply kept_serveCommit
    | with_reducible apply kept_serveFull
    | split
    | lift_lets -underBinder

end Sys2Proof.Machine
end

