-- ==== Sys2Proof/Laws/KeptHome.lean ====
section
/-! SUPPORT. What the operations of Machine/Home.lean keep (Kept). -/

namespace Sys2Proof.Machine

set_option linter.all false
set_option Elab.async false

theorem kept_writeDir {s0 : State} (l : Nat) (d : BitVec 12) {s : State}  (hK : Kept s0 s) : Kept s0 (writeDir l d s) := by
  unfold writeDir
  repeat' first
    | with_reducible assumption
    | (intro x; refine Kept.cut (s0 := s0) x ?_ (fun k => ?_); rotate_left; clear_value x; rotate_left; subst x)
    | (intro x; clear_value x)
    | (intro x)
    | with_reducible apply kept_whenS
    | with_reducible apply kept_putLine

theorem kept_setDir {s0 : State} (l : Nat) (d : Dir) {s : State}  (hK : Kept s0 s) : Kept s0 (setDir l d s) := by
  unfold setDir
  repeat' first
    | with_reducible assumption
    | (intro x; refine Kept.cut (s0 := s0) x ?_ (fun k => ?_); rotate_left; clear_value x; rotate_left; subst x)
    | (intro x; clear_value x)
    | (intro x)
    | with_reducible apply kept_modHome
    | with_reducible apply kept_whenS
    | with_reducible apply kept_writeDir
    | split
    | lift_lets -underBinder

theorem kept_allocEnt {s0 : State} (l : Nat) {s : State}  (hK : Kept s0 s) : Kept s0 (allocEnt l s) := by
  unfold allocEnt
  repeat' first
    | with_reducible assumption
    | (intro x; refine Kept.cut (s0 := s0) x ?_ (fun k => ?_); rotate_left; clear_value x; rotate_left; subst x)
    | (intro x; clear_value x)
    | (intro x)
    | with_reducible apply kept_modHome
    | with_reducible apply kept_writeDir
    | split
    | lift_lets -underBinder

theorem kept_pinEnt {s0 : State} (l : Nat) (b : Bool) {s : State}  (hK : Kept s0 s) : Kept s0 (pinEnt l b s) := by
  unfold pinEnt
  repeat' first
    | with_reducible assumption
    | (intro x; refine Kept.cut (s0 := s0) x ?_ (fun k => ?_); rotate_left; clear_value x; rotate_left; subst x)
    | (intro x; clear_value x)
    | (intro x)
    | with_reducible apply kept_modHome
    | split

theorem kept_toAgent {s0 : State} (a : Nat) (p : Packet) {s : State}  (hK : Kept s0 s) : Kept s0 (toAgent a p s) := by
  unfold toAgent
  repeat' first
    | with_reducible assumption
    | (intro x; refine Kept.cut (s0 := s0) x ?_ (fun k => ?_); rotate_left; clear_value x; rotate_left; subst x)
    | (intro x; clear_value x)
    | (intro x)
    | with_reducible apply kept_toSite
    | with_reducible apply kept_sendOn
    | split
    | lift_lets -underBinder

theorem kept_toRequester {s0 : State} (r : Req) (p : Packet) {s : State}  (hK : Kept s0 s) : Kept s0 (toRequester r p s) := by
  unfold toRequester
  repeat' first
    | with_reducible assumption
    | (intro x; refine Kept.cut (s0 := s0) x ?_ (fun k => ?_); rotate_left; clear_value x; rotate_left; subst x)
    | (intro x; clear_value x)
    | (intro x)
    | with_reducible apply kept_toAsker
    | with_reducible apply kept_sendOn
    | split
    | lift_lets -underBinder

theorem kept_cohError {s0 : State} (r : Req) (c : Status) {s : State}  (hK : Kept s0 s) : Kept s0 (cohError r c s) := by
  unfold cohError
  repeat' first
    | with_reducible assumption
    | with_reducible apply kept_toRequester

theorem kept_modTxn {s0 : State} (l : Nat) (f : Txn → Txn) {s : State}  (hK : Kept s0 s) : Kept s0 (modTxn l f s) := by
  unfold modTxn
  repeat' first
    | with_reducible assumption
    | (intro x; refine Kept.cut (s0 := s0) x ?_ (fun k => ?_); rotate_left; clear_value x; rotate_left; subst x)
    | (intro x; clear_value x)
    | (intro x)
    | with_reducible apply kept_modHome
    | split

theorem kept_sendProbes {s0 : State} (t : Nat) (addr : Word) (req : Option Nat) (tag : BitVec 32) (masked : Nat) (ps : List Probe) {s : State}  (hK : Kept s0 s) : Kept s0 (sendProbes t addr req tag masked ps s) := by
  unfold sendProbes
  repeat' first
    | with_reducible assumption
    | (intro x; refine Kept.cut (s0 := s0) x ?_ (fun k => ?_); rotate_left; clear_value x; rotate_left; subst x)
    | (intro x; clear_value x)
    | (intro x)
    | with_reducible apply kept_eachS
    | with_reducible apply kept_toAgent
    | split
    | lift_lets -underBinder

theorem kept_openTxn {s0 : State} (l : Nat) (coh : Coh) (agent : Option Nat) (r : Req) (probe : Nat) (agents : List Nat) (after : Dir) (owner : Option Nat) {s : State}  (hK : Kept s0 s) : Kept s0 (openTxn l coh agent r probe agents after owner s) := by
  unfold openTxn
  repeat' first
    | with_reducible assumption
    | (intro x; refine Kept.cut (s0 := s0) x ?_ (fun k => ?_); rotate_left; clear_value x; rotate_left; subst x)
    | (intro x; clear_value x)
    | (intro x)
    | with_reducible apply kept_modHome
    | with_reducible apply kept_pinEnt
    | with_reducible apply kept_whenS
    | with_reducible apply kept_writeDir
    | with_reducible apply kept_sendProbes
    | split
    | lift_lets -underBinder

theorem kept_recordWaiter {s0 : State} (l : Nat) (w : Waiter) {s : State}  (hK : Kept s0 s) : Kept s0 (recordWaiter l w s) := by
  unfold recordWaiter
  repeat' first
    | with_reducible assumption
    | (intro x; refine Kept.cut (s0 := s0) x ?_ (fun k => ?_); rotate_left; clear_value x; rotate_left; subst x)
    | (intro x; clear_value x)
    | (intro x)
    | with_reducible apply kept_modTxn
    | with_reducible apply kept_modHome
    | split
    | lift_lets -underBinder

theorem kept_noteResend {s0 : State} (r : Req) {s : State}  (hK : Kept s0 s) : Kept s0 (noteResend r s) := by
  unfold noteResend
  repeat' first
    | with_reducible assumption
    | (intro x; refine Kept.cut (s0 := s0) x ?_ (fun k => ?_); rotate_left; clear_value x; rotate_left; subst x)
    | (intro x; clear_value x)
    | (intro x)
    | with_reducible apply kept_modHome
    | lift_lets -underBinder

theorem kept_asRetry {s0 : State} (go : Req → State → State) (r : Req) {s : State} (hgo : ∀ (y0 : Req) {u : State}, Kept s0 u → Kept s0 (go y0 u)) (hK : Kept s0 s) : Kept s0 (asRetry go r s) := by
  unfold asRetry
  repeat' first
    | with_reducible assumption
    | (intro x; refine Kept.cut (s0 := s0) x ?_ (fun k => ?_); rotate_left; clear_value x; rotate_left; subst x)
    | (intro x; clear_value x)
    | (intro x)
    | with_reducible apply kept_modHome
    | with_reducible apply hgo
    | split

theorem kept_meetRetry {s0 : State} (l : Nat) (r : Req) {s : State}  (hK : Kept s0 s) : Kept s0 (meetRetry l r s) := by
  unfold meetRetry
  repeat' first
    | with_reducible assumption
    | (intro x; refine Kept.cut (s0 := s0) x ?_ (fun k => ?_); rotate_left; clear_value x; rotate_left; subst x)
    | (intro x; clear_value x)
    | (intro x)
    | with_reducible apply kept_modHome
    | with_reducible apply kept_recordWaiter
    | with_reducible apply kept_toRequester
    | with_reducible apply kept_noteResend
    | with_reducible apply kept_toAsker
    | with_reducible apply kept_park
    | split
    | lift_lets -underBinder

theorem kept_passReserve {s0 : State} (l : Nat) (w : Waiter) {s : State}  (hK : Kept s0 s) : Kept s0 (passReserve l w s) := by
  unfold passReserve
  repeat' first
    | with_reducible assumption
    | (intro x; refine Kept.cut (s0 := s0) x ?_ (fun k => ?_); rotate_left; clear_value x; rotate_left; subst x)
    | (intro x; clear_value x)
    | (intro x)
    | with_reducible apply kept_modHome
    | split
    | lift_lets -underBinder

theorem kept_closeTxn {s0 : State} (l : Nat) {s : State}  (hK : Kept s0 s) : Kept s0 (closeTxn l s) := by
  unfold closeTxn
  repeat' first
    | with_reducible assumption
    | (intro x; refine Kept.cut (s0 := s0) x ?_ (fun k => ?_); rotate_left; clear_value x; rotate_left; subst x)
    | (intro x; clear_value x)
    | (intro x)
    | with_reducible apply kept_modHome
    | with_reducible apply kept_pinEnt
    | with_reducible apply kept_setDir
    | split
    | lift_lets -underBinder

theorem kept_ownerLost {s0 : State} (l : Nat) {s : State}  (hK : Kept s0 s) : Kept s0 (ownerLost l s) := by
  unfold ownerLost
  repeat' first
    | with_reducible assumption
    | (intro x; refine Kept.cut (s0 := s0) x ?_ (fun k => ?_); rotate_left; clear_value x; rotate_left; subst x)
    | (intro x; clear_value x)
    | (intro x)
    | with_reducible apply kept_modHome
    | with_reducible apply kept_setDir
    | with_reducible apply kept_poisonLine
    | lift_lets -underBinder

theorem kept_ownerCheck {s0 : State} (l : Nat) {s : State}  (hK : Kept s0 s) : Kept s0 (ownerCheck l s) := by
  unfold ownerCheck
  repeat' first
    | with_reducible assumption
    | (intro x; refine Kept.cut (s0 := s0) x ?_ (fun k => ?_); rotate_left; clear_value x; rotate_left; subst x)
    | (intro x; clear_value x)
    | (intro x)
    | with_reducible apply kept_whenS
    | with_reducible apply kept_ownerLost
    | split

theorem kept_hotStore {s0 : State} (l : Nat) (r : Req) {s : State}  (hK : Kept s0 s) : Kept s0 (hotStore l r s) := by
  unfold hotStore
  repeat' first
    | with_reducible assumption
    | (intro x; refine Kept.cut (s0 := s0) x ?_ (fun k => ?_); rotate_left; clear_value x; rotate_left; subst x)
    | (intro x; clear_value x)
    | (intro x)
    | with_reducible apply kept_writeDone
    | with_reducible apply kept_noteKey
    | with_reducible apply kept_modHome
    | split
    | lift_lets -underBinder

theorem kept_hotMerge {s0 : State} (z0 : Nat) (z1 : Nat) {s : State}  (hK : Kept s0 s) : Kept s0 (hotMerge z0 z1 s) := by
  induction z0 generalizing z1 s with
  | zero => exact hK
  | succ n ih =>
  unfold hotMerge
  repeat' first
    | with_reducible assumption
    | (intro x; refine Kept.cutF (s0 := s0) x ?_ (fun k => ?_); rotate_left; clear_value x; rotate_left; subst x; intro u hu; try dsimp only)
    | (intro x; refine Kept.cutF1 (s0 := s0) x ?_ (fun k => ?_); rotate_left; clear_value x; rotate_left; subst x; intro a u hu; try dsimp only)
    | (intro x; refine Kept.cutF2 (s0 := s0) x ?_ (fun k => ?_); rotate_left; clear_value x; rotate_left; subst x; intro a b u hu; try dsimp only)
    | (intro x; refine Kept.cut (s0 := s0) x ?_ (fun k => ?_); rotate_left; clear_value x; rotate_left; subst x)
    | (intro x; clear_value x)
    | (intro x)
    | with_reducible apply kept_modHome
    | with_reducible apply kept_eachS
    | with_reducible apply kept_writeDone
    | with_reducible apply kept_handPass
    | with_reducible refine kept_handPass_eq ?_ ‹_›
    | with_reducible apply kept_settleBad
    | with_reducible apply kept_whenS
    | with_reducible apply kept_postKeyMissing
    | with_reducible apply kept_acceptMerge
    | with_reducible refine kept_acceptMerge_eq ?_ ‹_›
    | with_reducible apply kept_settleOthers
    | with_reducible apply kept_mirrorWrite
    | with_reducible apply ih
    | split
    | lift_lets -underBinder
    | refine Kept.app (by assumption) ?_
    | refine Kept.app1 (by assumption) ?_
    | refine Kept.app2 (by assumption) ?_

theorem kept_hotFlush {s0 : State} (l : Nat) {s : State}  (hK : Kept s0 s) : Kept s0 (hotFlush l s) := by
  unfold hotFlush
  repeat' first
    | with_reducible assumption
    | (intro x; refine Kept.cut (s0 := s0) x ?_ (fun k => ?_); rotate_left; clear_value x; rotate_left; subst x)
    | (intro x; clear_value x)
    | (intro x)
    | with_reducible apply kept_under
    | with_reducible apply kept_hotMerge
    | split

theorem kept_hotClose {s0 : State} (l : Nat) {s : State}  (hK : Kept s0 s) : Kept s0 (hotClose l s) := by
  unfold hotClose
  repeat' first
    | with_reducible assumption
    | (intro x; refine Kept.cut (s0 := s0) x ?_ (fun k => ?_); rotate_left; clear_value x; rotate_left; subst x)
    | (intro x; clear_value x)
    | (intro x)
    | with_reducible apply kept_hotFlush
    | with_reducible apply kept_modHome
    | lift_lets -underBinder

theorem kept_openGate {s0 : State} (rd : Bool) (r : Req) (ls : List Nat) {s : State}  (hK : Kept s0 s) : Kept s0 (openGate rd r ls s) := by
  unfold openGate
  repeat' first
    | with_reducible assumption
    | (intro x; refine Kept.cut (s0 := s0) x ?_ (fun k => ?_); rotate_left; clear_value x; rotate_left; subst x)
    | (intro x; clear_value x)
    | (intro x)
    | with_reducible apply kept_eachS
    | with_reducible apply kept_openTxn
    | split
    | lift_lets -underBinder

theorem kept_comeTo {s0 : State} (goal : Wait) (r : Req) (go : Req → State → State) {s : State} (hgo : ∀ (y0 : Req) {u : State}, Kept s0 u → Kept s0 (go y0 u)) (hK : Kept s0 s) : Kept s0 (comeTo goal r go s) := by
  unfold comeTo
  repeat' first
    | with_reducible assumption
    | (intro x; refine Kept.cut (s0 := s0) x ?_ (fun k => ?_); rotate_left; clear_value x; rotate_left; subst x)
    | (intro x; clear_value x)
    | (intro x)
    | with_reducible apply kept_park
    | with_reducible apply kept_admitTo
    | with_reducible apply hgo
    | split
    | lift_lets -underBinder

theorem kept_applyNow {s0 : State} (r : Req) {s : State}  (hK : Kept s0 s) : Kept s0 (applyNow r s) := by
  unfold applyNow
  repeat' first
    | with_reducible assumption
    | (intro x; refine Kept.cutF (s0 := s0) x ?_ (fun k => ?_); rotate_left; clear_value x; rotate_left; subst x; intro u hu; try dsimp only)
    | (intro x; refine Kept.cutF1 (s0 := s0) x ?_ (fun k => ?_); rotate_left; clear_value x; rotate_left; subst x; intro a u hu; try dsimp only)
    | (intro x; refine Kept.cutF2 (s0 := s0) x ?_ (fun k => ?_); rotate_left; clear_value x; rotate_left; subst x; intro a b u hu; try dsimp only)
    | (intro x; refine Kept.cut (s0 := s0) x ?_ (fun k => ?_); rotate_left; clear_value x; rotate_left; subst x)
    | (intro x; clear_value x)
    | (intro x)
    | with_reducible apply kept_eachS
    | with_reducible apply kept_passReserve
    | with_reducible apply kept_hotStore
    | with_reducible apply kept_admitTo
    | with_reducible apply kept_perform
    | with_reducible apply kept_hotClose
    | with_reducible apply kept_parkLine
    | split
    | lift_lets -underBinder
    | refine Kept.app (by assumption) ?_
    | refine Kept.app1 (by assumption) ?_
    | refine Kept.app2 (by assumption) ?_

theorem kept_atHome {s0 : State} (r : Req) (go : Req → State → State) {s : State} (hgo : ∀ (y0 : Req) {u : State}, Kept s0 u → Kept s0 (go y0 u)) (hK : Kept s0 s) : Kept s0 (atHome r go s) := by
  unfold atHome
  repeat' first
    | with_reducible assumption
    | (intro x; refine Kept.cut (s0 := s0) x ?_ (fun k => ?_); rotate_left; clear_value x; rotate_left; subst x)
    | (intro x; clear_value x)
    | (intro x)
    | with_reducible apply kept_finish
    | with_reducible apply kept_admitTo
    | with_reducible apply kept_parkLine
    | with_reducible apply kept_park
    | with_reducible apply kept_wakePart
    | with_reducible apply hgo
    | split
    | lift_lets -underBinder

theorem kept_homeTurn {s0 : State} (r : Req) {s : State}  (hK : Kept s0 s) : Kept s0 (homeTurn r s) := by
  unfold homeTurn
  repeat' first
    | with_reducible assumption
    | (intro x; refine Kept.cut (s0 := s0) x ?_ (fun k => ?_); rotate_left; clear_value x; rotate_left; subst x)
    | (intro x; clear_value x)
    | (intro x)
    | with_reducible apply kept_eachS
    | with_reducible apply kept_ownerCheck
    | with_reducible apply kept_perform
    | with_reducible apply kept_meetRetry
    | with_reducible apply kept_applyNow
    | with_reducible apply kept_hotClose
    | with_reducible apply kept_admitTo
    | with_reducible apply kept_park
    | with_reducible apply kept_openGate
    | split
    | lift_lets -underBinder

theorem kept_directTurn {s0 : State} (r : Req) {s : State}  (hK : Kept s0 s) : Kept s0 (directTurn r s) := by
  unfold directTurn
  repeat' first
    | with_reducible assumption
    | (intro x; refine Kept.cut (s0 := s0) x ?_ (fun k => ?_); rotate_left; clear_value x; rotate_left; subst x)
    | (intro x; clear_value x)
    | (intro x)
    | with_reducible apply kept_applyNow
    | with_reducible apply kept_comeTo
    | with_reducible apply kept_atHome
    | with_reducible apply kept_homeTurn
    | split

theorem kept_serveHome {s0 : State} (r : Req) {s : State}  (hK : Kept s0 s) : Kept s0 (serveHome r s) := by
  unfold serveHome
  repeat' first
    | with_reducible assumption
    | (intro x; refine Kept.cut (s0 := s0) x ?_ (fun k => ?_); rotate_left; clear_value x; rotate_left; subst x)
    | (intro x; clear_value x)
    | (intro x)
    | with_reducible apply kept_finish
    | with_reducible apply kept_comeTo
    | with_reducible apply kept_atHome
    | with_reducible apply kept_directTurn
    | with_reducible apply kept_homeTurn
    | split

theorem kept_serve {s0 : State} (r : Req) {s : State}  (hK : Kept s0 s) : Kept s0 (serve r s) := by
  unfold serve
  repeat' first
    | with_reducible assumption
    | (intro x; refine Kept.cut (s0 := s0) x ?_ (fun k => ?_); rotate_left; clear_value x; rotate_left; subst x)
    | (intro x; clear_value x)
    | (intro x)
    | with_reducible apply kept_numbered
    | with_reducible apply kept_under
    | with_reducible apply kept_handOver
    | with_reducible apply kept_serveHome

theorem kept_cohRead {s0 : State} (n : Nat) (r : Req) (l : Nat) {s : State} (hK : Kept s0 s) : Kept s0 (cohRead n r l s).2 := by
  induction n generalizing r s with
  | zero => exact hK
  | succ n ih =>
    unfold cohRead
    split
    · dsimp only
      split
      · exact kept_whenS _ _ (fun {_} h => kept_park _ _ h) (kept_modTxn _ _ (kept_settleBad _ hK))
      · exact ih _ (kept_settleBad _ hK)
    · exact kept_askPartner _ _ _ _ hK
    · exact hK

theorem kept_cohRead_eq {s0 t : State} {cc} {n : Nat} {r : Req} {l : Nat} {s : State} (hK : Kept s0 s) (eqn : cohRead n r l s = (cc, t)) :
    Kept s0 t := by
  have k := kept_cohRead (s0 := s0) n r l hK
  rw [eqn] at k
  exact k

theorem kept_grantTo {s0 : State} (l : Nat) (after : Dir) (r : Req) (p : Packet) {s : State}  (hK : Kept s0 s) : Kept s0 (grantTo l after r p s) := by
  unfold grantTo
  repeat' first
    | with_reducible assumption
    | (intro x; refine Kept.cut (s0 := s0) x ?_ (fun k => ?_); rotate_left; clear_value x; rotate_left; subst x)
    | (intro x; clear_value x)
    | (intro x)
    | with_reducible apply kept_modTxn
    | with_reducible apply kept_toRequester
    | with_reducible apply kept_whenS
    | with_reducible apply kept_setDir
    | lift_lets -underBinder

theorem kept_refuseCoherent {s0 : State} (r : Req) {s : State}  (hK : Kept s0 s) : Kept s0 (refuseCoherent r s) := by
  unfold refuseCoherent
  repeat' first
    | with_reducible assumption
    | with_reducible apply kept_cohError
    | with_reducible apply kept_post

theorem kept_fromMemory {s0 : State} (coh : Coh) (y t : Nat) (after : Dir) (r : Req) {s : State}  (hK : Kept s0 s) : Kept s0 (fromMemory coh y t after r s) := by
  unfold fromMemory
  repeat' first
    | with_reducible assumption
    | (intro x; refine Kept.cut (s0 := s0) x ?_ (fun k => ?_); rotate_left; clear_value x; rotate_left; subst x)
    | (intro x; clear_value x)
    | (intro x)
    | with_reducible apply kept_admitTo
    | with_reducible apply kept_cohRead
    | with_reducible refine kept_cohRead_eq ?_ ‹_›
    | with_reducible apply kept_cohError
    | with_reducible apply kept_passReserve
    | with_reducible apply kept_noteKey
    | with_reducible apply kept_grantTo
    | with_reducible apply kept_openTxn
    | split
    | lift_lets -underBinder

theorem kept_cohTurn {s0 : State} (coh : Coh) (y : Nat) (r : Req) {s : State}  (hK : Kept s0 s) : Kept s0 (cohTurn coh y r s) := by
  unfold cohTurn
  repeat' first
    | with_reducible assumption
    | (intro x; refine Kept.cut (s0 := s0) x ?_ (fun k => ?_); rotate_left; clear_value x; rotate_left; subst x)
    | (intro x; clear_value x)
    | (intro x)
    | with_reducible apply kept_ownerCheck
    | with_reducible apply kept_meetRetry
    | with_reducible apply kept_hotClose
    | with_reducible apply kept_admitTo
    | with_reducible apply kept_park
    | with_reducible apply kept_allocEnt
    | with_reducible apply kept_fromMemory
    | with_reducible apply kept_openTxn
    | with_reducible apply kept_grantTo
    | with_reducible apply kept_refuseCoherent
    | split
    | lift_lets -underBinder

theorem kept_cohHome {s0 : State} (coh : Coh) (r : Req) {s : State}  (hK : Kept s0 s) : Kept s0 (cohHome coh r s) := by
  unfold cohHome
  repeat' first
    | with_reducible assumption
    | (intro x; refine Kept.cut (s0 := s0) x ?_ (fun k => ?_); rotate_left; clear_value x; rotate_left; subst x)
    | (intro x; clear_value x)
    | (intro x)
    | with_reducible apply kept_refuseCoherent
    | with_reducible apply kept_cohError
    | with_reducible apply kept_comeTo
    | with_reducible apply kept_atHome
    | with_reducible apply kept_cohTurn
    | split

theorem kept_serveCoherent {s0 : State} (coh : Coh) (r : Req) {s : State}  (hK : Kept s0 s) : Kept s0 (serveCoherent coh r s) := by
  unfold serveCoherent
  repeat' first
    | with_reducible assumption
    | (intro x; refine Kept.cut (s0 := s0) x ?_ (fun k => ?_); rotate_left; clear_value x; rotate_left; subst x)
    | (intro x; clear_value x)
    | (intro x)
    | with_reducible apply kept_numbered
    | with_reducible apply kept_under
    | with_reducible apply kept_handOver
    | with_reducible apply kept_cohHome

theorem kept_settleFences {s0 : State} {s : State}  (hK : Kept s0 s) : Kept s0 (settleFences s) := by
  unfold settleFences
  repeat' first
    | with_reducible assumption
    | (intro x; refine Kept.cut (s0 := s0) x ?_ (fun k => ?_); rotate_left; clear_value x; rotate_left; subst x)
    | (intro x; clear_value x)
    | (intro x)
    | with_reducible apply kept_modUcie
    | with_reducible apply kept_eachS
    | with_reducible apply kept_toSite
    | lift_lets -underBinder

theorem kept_endTxns {s0 : State} (c : Status) (mine : List Txn) (r : Req) {s : State}  (hK : Kept s0 s) : Kept s0 (endTxns c mine r s) := by
  unfold endTxns
  repeat' first
    | with_reducible assumption
    | (intro x; refine Kept.cut (s0 := s0) x ?_ (fun k => ?_); rotate_left; clear_value x; rotate_left; subst x)
    | (intro x; clear_value x)
    | (intro x)
    | with_reducible apply kept_eachS
    | with_reducible apply kept_closeTxn
    | with_reducible apply kept_cohError
    | with_reducible apply kept_finish
    | split

theorem kept_ncProceed {s0 : State} (t : Txn) {s : State}  (hK : Kept s0 s) : Kept s0 (ncProceed t s) := by
  unfold ncProceed
  repeat' first
    | with_reducible assumption
    | (intro x; refine Kept.cut (s0 := s0) x ?_ (fun k => ?_); rotate_left; clear_value x; rotate_left; subst x)
    | (intro x; clear_value x)
    | (intro x)
    | with_reducible apply kept_modTxn
    | with_reducible apply kept_endTxns
    | with_reducible apply kept_eachS
    | with_reducible apply kept_under
    | with_reducible apply kept_admitTo
    | with_reducible apply kept_perform
    | with_reducible apply kept_closeTxn
    | split
    | lift_lets -underBinder

theorem kept_grantSent {s0 : State} (l : Nat) (t : Txn) {s : State}  (hK : Kept s0 s) : Kept s0 (grantSent l t s) := by
  unfold grantSent
  repeat' first
    | with_reducible assumption
    | (intro x; refine Kept.cut (s0 := s0) x ?_ (fun k => ?_); rotate_left; clear_value x; rotate_left; subst x)
    | (intro x; clear_value x)
    | (intro x)
    | with_reducible apply kept_modTxn
    | with_reducible apply kept_whenS
    | with_reducible apply kept_setDir
    | with_reducible apply kept_closeTxn
    | split
    | lift_lets -underBinder

theorem kept_cohProceed {s0 : State} (l : Nat) (t : Txn) {s : State}  (hK : Kept s0 s) : Kept s0 (cohProceed l t s) := by
  unfold cohProceed
  repeat' first
    | with_reducible assumption
    | (intro x; refine Kept.cut (s0 := s0) x ?_ (fun k => ?_); rotate_left; clear_value x; rotate_left; subst x)
    | (intro x; clear_value x)
    | (intro x)
    | with_reducible apply kept_closeTxn
    | with_reducible apply kept_endTxns
    | with_reducible apply kept_modTxn
    | with_reducible apply kept_grantSent
    | with_reducible apply kept_grantTo
    | with_reducible apply kept_cohRead
    | with_reducible refine kept_cohRead_eq ?_ ‹_›
    | with_reducible apply kept_noteKey
    | split
    | lift_lets -underBinder

theorem kept_txnProceed {s0 : State} (l : Nat) (data : Option LineData) {s : State}  (hK : Kept s0 s) : Kept s0 (txnProceed l data s) := by
  unfold txnProceed
  repeat' first
    | with_reducible assumption
    | (intro x; refine Kept.cut (s0 := s0) x ?_ (fun k => ?_); rotate_left; clear_value x; rotate_left; subst x)
    | (intro x; clear_value x)
    | (intro x)
    | with_reducible apply kept_modTxn
    | with_reducible apply kept_ncProceed
    | with_reducible apply kept_under
    | with_reducible apply kept_cohProceed
    | split
    | lift_lets -underBinder

theorem kept_driveTxns {s0 : State} {s : State}  (hK : Kept s0 s) : Kept s0 (driveTxns s) := by
  unfold driveTxns
  repeat' first
    | with_reducible assumption
    | (intro x; refine Kept.cut (s0 := s0) x ?_ (fun k => ?_); rotate_left; clear_value x; rotate_left; subst x)
    | (intro x; clear_value x)
    | (intro x)
    | with_reducible apply kept_eachS
    | with_reducible apply kept_txnProceed

theorem kept_answerProbe {s0 : State} (l member : Nat) (agents : List Nat) {s : State}  (hK : Kept s0 s) : Kept s0 (answerProbe l member agents s) := by
  unfold answerProbe
  repeat' first
    | with_reducible assumption
    | (intro x; refine Kept.cut (s0 := s0) x ?_ (fun k => ?_); rotate_left; clear_value x; rotate_left; subst x)
    | (intro x; clear_value x)
    | (intro x)
    | with_reducible apply kept_modTxn
    | split

theorem kept_writeOwnerData {s0 : State} (rs : List Req) (l : Nat) (d : LineData) {s : State}  (hK : Kept s0 s) : Kept s0 (writeOwnerData rs l d s) := by
  unfold writeOwnerData
  repeat' first
    | with_reducible assumption
    | (intro x; refine Kept.cut (s0 := s0) x ?_ (fun k => ?_); rotate_left; clear_value x; rotate_left; subst x)
    | (intro x; clear_value x)
    | (intro x)
    | with_reducible apply kept_acceptFull
    | with_reducible refine kept_acceptFull_eq ?_ ‹_›
    | with_reducible apply kept_settleOthers
    | with_reducible apply kept_eachS
    | with_reducible apply kept_noteKey
    | with_reducible apply kept_mirrorWrite
    | with_reducible apply kept_writeDone
    | split
    | lift_lets -underBinder

theorem kept_completeTxn {s0 : State} (l : Nat) (agent : Nat) {s : State}  (hK : Kept s0 s) : Kept s0 (completeTxn l agent s) := by
  unfold completeTxn
  repeat' first
    | with_reducible assumption
    | (intro x; refine Kept.cut (s0 := s0) x ?_ (fun k => ?_); rotate_left; clear_value x; rotate_left; subst x)
    | (intro x; clear_value x)
    | (intro x)
    | with_reducible apply kept_txnProceed
    | with_reducible apply kept_modTxn
    | split

theorem kept_dropFromTxns {s0 : State} (z : Nat) {s : State}  (hK : Kept s0 s) : Kept s0 (dropFromTxns z s) := by
  unfold dropFromTxns
  repeat' first
    | with_reducible assumption
    | (intro x; refine Kept.cut (s0 := s0) x ?_ (fun k => ?_); rotate_left; clear_value x; rotate_left; subst x)
    | (intro x; clear_value x)
    | (intro x)
    | with_reducible apply kept_eachS
    | with_reducible apply kept_modTxn
    | with_reducible apply kept_modHome
    | with_reducible apply kept_ownerLost
    | with_reducible apply kept_poisonLine
    | with_reducible apply kept_closeTxn
    | with_reducible apply kept_txnProceed
    | with_reducible apply kept_endTxns
    | with_reducible apply kept_answerProbe
    | split
    | lift_lets -underBinder

theorem kept_tellMembers {s0 : State} (z : Nat) {s : State}  (hK : Kept s0 s) : Kept s0 (tellMembers z s) := by
  unfold tellMembers
  repeat' first
    | with_reducible assumption
    | (intro x; refine Kept.cut (s0 := s0) x ?_ (fun k => ?_); rotate_left; clear_value x; rotate_left; subst x)
    | (intro x; clear_value x)
    | (intro x)
    | with_reducible apply kept_eachS
    | with_reducible apply kept_toAgent

theorem kept_scanCache {s0 : State} (z : Nat) {s : State}  (hK : Kept s0 s) : Kept s0 (scanCache z s) := by
  unfold scanCache
  repeat' first
    | with_reducible assumption
    | (intro x; refine Kept.cut (s0 := s0) x ?_ (fun k => ?_); rotate_left; clear_value x; rotate_left; subst x)
    | (intro x; clear_value x)
    | (intro x)
    | with_reducible apply kept_eachS
    | with_reducible apply kept_ownerLost
    | with_reducible apply kept_modHome
    | split
    | lift_lets -underBinder

end Sys2Proof.Machine
end

