-- ==== Sys2Proof/Laws/KeptMirror.lean ====
section
/-! SUPPORT. What the operations of Machine/Mirror.lean keep (Kept). -/

namespace Sys2Proof.Machine

set_option linter.all false
set_option Elab.async false

theorem kept_reply {s0 : State} (l : Nat) (p q : Packet) {s : State}  (hK : Kept s0 s) : Kept s0 (reply l p q s) := by
  unfold reply
  repeat' first
    | with_reducible assumption
    | with_reducible apply kept_sendOn
    | split

theorem kept_protocolEvent {s0 : State} (l : Nat) (p : Packet) (status : Nat) {s : State}  (hK : Kept s0 s) : Kept s0 (protocolEvent l p status s) := by
  unfold protocolEvent
  repeat' first
    | with_reducible assumption
    | with_reducible apply kept_post

theorem kept_pathFailed {s0 : State} (l part told node : Nat) (f : PathCheck) {s : State}  (hK : Kept s0 s) : Kept s0 (pathFailed l part told node f s) := by
  unfold pathFailed
  repeat' first
    | with_reducible assumption
    | (intro x; refine Kept.cut (s0 := s0) x ?_ (fun k => ?_); rotate_left; clear_value x; rotate_left; subst x)
    | (intro x; clear_value x)
    | (intro x)
    | with_reducible apply kept_modInteg
    | with_reducible apply kept_logEntry
    | with_reducible apply kept_post
    | split
    | lift_lets -underBinder

theorem kept_pathRetried {s0 : State} (l part : Nat) (f : PathCheck) {s : State}  (hK : Kept s0 s) : Kept s0 (pathRetried l part f s) := by
  unfold pathRetried
  repeat' first
    | with_reducible assumption
    | (intro x; refine Kept.cut (s0 := s0) x ?_ (fun k => ?_); rotate_left; clear_value x; rotate_left; subst x)
    | (intro x; clear_value x)
    | (intro x)
    | with_reducible apply kept_modInteg
    | with_reducible apply kept_logEntry
    | lift_lets -underBinder

theorem kept_mirrorAnswer {s0 : State} (l : Nat) (p : Packet) (c : Status) {s : State}  (hK : Kept s0 s) : Kept s0 (mirrorAnswer l p c s) := by
  unfold mirrorAnswer
  repeat' first
    | with_reducible assumption
    | with_reducible apply kept_reply

theorem kept_learnState {s0 : State} (g n : Nat) (p : Packet) {s : State}  (hK : Kept s0 s) : Kept s0 (learnState g n p s) := by
  unfold learnState
  repeat' first
    | with_reducible assumption
    | (intro x; refine Kept.cut (s0 := s0) x ?_ (fun k => ?_); rotate_left; clear_value x; rotate_left; subst x)
    | (intro x; clear_value x)
    | (intro x)
    | with_reducible apply kept_modMirror
    | split

theorem kept_rewriteLine {s0 : State} (n : Nat) (d : LineData) (check : BitVec 32) (seq : BitVec 12) (a : Word) {s : State}  (hK : Kept s0 s) : Kept s0 (rewriteLine n d check seq a s) := by
  unfold rewriteLine
  repeat' first
    | with_reducible assumption
    | (intro x; refine Kept.cut (s0 := s0) x ?_ (fun k => ?_); rotate_left; clear_value x; rotate_left; subst x)
    | (intro x; clear_value x)
    | (intro x)
    | with_reducible apply kept_putLine
    | with_reducible apply kept_whenS
    | with_reducible apply kept_rewriteBlock
    | split
    | lift_lets -underBinder

theorem kept_partnerRead {s0 : State} (n : Nat) {s : State}  (hK : Kept s0 s) : Kept s0 (partnerRead n s) := by
  unfold partnerRead
  repeat' first
    | with_reducible assumption
    | with_reducible apply kept_settleRead
    | with_reducible apply kept_lastingLeft
    | split

theorem kept_softPoison {s0 : State} (r : Req) {s : State}  (hK : Kept s0 s) : Kept s0 (softPoison r s) := by
  unfold softPoison
  repeat' first
    | with_reducible assumption
    | (intro x; refine Kept.cut (s0 := s0) x ?_ (fun k => ?_); rotate_left; clear_value x; rotate_left; subst x)
    | (intro x; clear_value x)
    | (intro x)
    | with_reducible apply kept_postKeyMissing
    | with_reducible apply kept_poisonLine
    | split
    | lift_lets -underBinder

theorem kept_inspectEnd {s0 : State} (result : Nat) {s : State}  (hK : Kept s0 s) : Kept s0 (inspectEnd result s) := by
  unfold inspectEnd
  repeat' first
    | with_reducible assumption
    | (intro x; refine Kept.cut (s0 := s0) x ?_ (fun k => ?_); rotate_left; clear_value x; rotate_left; subst x)
    | (intro x; clear_value x)
    | (intro x)
    | with_reducible apply kept_whenS
    | with_reducible apply kept_freeLine
    | with_reducible apply kept_modInteg

theorem kept_inspectTurn {s0 : State} (r : Req) {s : State}  (hK : Kept s0 s) : Kept s0 (inspectTurn r s) := by
  unfold inspectTurn
  repeat' first
    | with_reducible assumption
    | (intro x; refine Kept.cut (s0 := s0) x ?_ (fun k => ?_); rotate_left; clear_value x; rotate_left; subst x)
    | (intro x; clear_value x)
    | (intro x)
    | with_reducible apply kept_askPartner
    | with_reducible apply kept_holdLine
    | with_reducible apply kept_inspectEnd
    | split
    | lift_lets -underBinder

theorem kept_mirrorTurn {s0 : State} (r : Req) {s : State}  (hK : Kept s0 s) : Kept s0 (mirrorTurn r s) := by
  unfold mirrorTurn
  repeat' first
    | with_reducible assumption
    | (intro x; refine Kept.cut (s0 := s0) x ?_ (fun k => ?_); rotate_left; clear_value x; rotate_left; subst x)
    | (intro x; clear_value x)
    | (intro x)
    | with_reducible apply kept_mirrorAnswer
    | with_reducible apply kept_postKeyMissing
    | with_reducible apply kept_rewriteLine
    | with_reducible apply kept_settleOthers
    | with_reducible apply kept_learnState
    | with_reducible apply kept_putLine
    | with_reducible apply kept_partnerRead
    | with_reducible apply kept_reply
    | with_reducible apply kept_inspectTurn
    | with_reducible apply kept_softPoison
    | split
    | lift_lets -underBinder

theorem kept_mirrorServe {s0 : State} (r : Req) {s : State}  (hK : Kept s0 s) : Kept s0 (mirrorServe r s) := by
  unfold mirrorServe
  repeat' first
    | with_reducible assumption
    | (intro x; refine Kept.cut (s0 := s0) x ?_ (fun k => ?_); rotate_left; clear_value x; rotate_left; subst x)
    | (intro x; clear_value x)
    | (intro x)
    | with_reducible apply kept_park
    | with_reducible apply kept_wakePart
    | with_reducible apply kept_numbered
    | with_reducible apply kept_comeTo
    | with_reducible apply kept_mirrorTurn
    | split
    | lift_lets -underBinder

theorem kept_resume {s0 : State} (r : Req) {s : State}  (hK : Kept s0 s) : Kept s0 (resume r s) := by
  unfold resume
  repeat' first
    | with_reducible assumption
    | with_reducible apply kept_park

theorem kept_dropOp {s0 : State} (o : MirrorOp) {s : State}  (hK : Kept s0 s) : Kept s0 (dropOp o s) := by
  unfold dropOp
  repeat' first
    | with_reducible assumption
    | (intro x; refine Kept.cut (s0 := s0) x ?_ (fun k => ?_); rotate_left; clear_value x; rotate_left; subst x)
    | (intro x; clear_value x)
    | (intro x)
    | with_reducible apply kept_pumpMirror
    | with_reducible apply kept_modInteg

theorem kept_freeOp {s0 : State} (o : MirrorOp) {s : State}  (hK : Kept s0 s) : Kept s0 (freeOp o s) := by
  unfold freeOp
  repeat' first
    | with_reducible assumption
    | (intro x; refine Kept.cut (s0 := s0) x ?_ (fun k => ?_); rotate_left; clear_value x; rotate_left; subst x)
    | (intro x; clear_value x)
    | (intro x)
    | with_reducible apply kept_eachS
    | with_reducible apply kept_freeLine
    | with_reducible apply kept_dropOp
    | split

theorem kept_opDone {s0 : State} (o : MirrorOp) (c : Status) {s : State}  (hK : Kept s0 s) : Kept s0 (opDone o c s) := by
  unfold opDone
  repeat' first
    | with_reducible assumption
    | (intro x; refine Kept.cut (s0 := s0) x ?_ (fun k => ?_); rotate_left; clear_value x; rotate_left; subst x)
    | (intro x; clear_value x)
    | (intro x)
    | with_reducible apply kept_freeOp
    | with_reducible apply kept_eachS
    | with_reducible apply kept_mergeDone
    | split
    | lift_lets -underBinder

theorem kept_repairFailed {s0 : State} (o : MirrorOp) {s : State}  (hK : Kept s0 s) : Kept s0 (repairFailed o s) := by
  unfold repairFailed
  repeat' first
    | with_reducible assumption
    | (intro x; refine Kept.cut (s0 := s0) x ?_ (fun k => ?_); rotate_left; clear_value x; rotate_left; subst x)
    | (intro x; clear_value x)
    | (intro x)
    | with_reducible apply kept_settlePoisoned
    | with_reducible apply kept_freeOp
    | with_reducible apply kept_eachS
    | with_reducible apply kept_resume
    | with_reducible apply kept_dropOp
    | split
    | lift_lets -underBinder

theorem kept_tellCmd {s0 : State} (o : MirrorOp) (c : Status) (ds : List LineData) {s : State}  (hK : Kept s0 s) : Kept s0 (tellCmd o c ds s) := by
  unfold tellCmd
  repeat' first
    | with_reducible assumption
    | with_reducible apply kept_boothAnswer
    | split

theorem kept_breakOp {s0 : State} (o : MirrorOp) {s : State}  (hK : Kept s0 s) : Kept s0 (breakOp o s) := by
  unfold breakOp
  repeat' first
    | with_reducible assumption
    | with_reducible apply kept_opDone
    | with_reducible apply kept_freeOp
    | with_reducible apply kept_repairFailed
    | with_reducible apply kept_inspectEnd
    | with_reducible apply kept_tellCmd
    | split

theorem kept_breakPair {s0 : State} (g : Nat) {s : State}  (hK : Kept s0 s) : Kept s0 (breakPair g s) := by
  unfold breakPair
  repeat' first
    | with_reducible assumption
    | (intro x; refine Kept.cut (s0 := s0) x ?_ (fun k => ?_); rotate_left; clear_value x; rotate_left; subst x)
    | (intro x; clear_value x)
    | (intro x)
    | with_reducible apply kept_modMirror
    | with_reducible apply kept_modMoves
    | with_reducible apply kept_modInteg
    | with_reducible apply kept_eachS
    | with_reducible apply kept_freeLine
    | with_reducible apply kept_mergeDone
    | with_reducible apply kept_breakOp
    | with_reducible apply kept_post
    | split
    | lift_lets -underBinder

theorem kept_opFailed {s0 : State} (o : MirrorOp) (refused : Bool) (c : Status) {s : State}  (hK : Kept s0 s) : Kept s0 (opFailed o refused c s) := by
  unfold opFailed
  repeat' first
    | with_reducible assumption
    | (intro x; refine Kept.cut (s0 := s0) x ?_ (fun k => ?_); rotate_left; clear_value x; rotate_left; subst x)
    | (intro x; clear_value x)
    | (intro x)
    | with_reducible apply kept_tellCmd
    | with_reducible apply kept_dropOp
    | with_reducible apply kept_inspectEnd
    | with_reducible apply kept_freeOp
    | with_reducible apply kept_whenS
    | with_reducible apply kept_breakPair
    | with_reducible apply kept_breakOp
    | split
    | lift_lets -underBinder

theorem kept_repairFrom {s0 : State} (o : MirrorOp) (p : Packet) {s : State}  (hK : Kept s0 s) : Kept s0 (repairFrom o p s) := by
  unfold repairFrom
  repeat' first
    | with_reducible assumption
    | (intro x; refine Kept.cut (s0 := s0) x ?_ (fun k => ?_); rotate_left; clear_value x; rotate_left; subst x)
    | (intro x; clear_value x)
    | (intro x)
    | with_reducible apply kept_eachS
    | with_reducible apply kept_resume
    | with_reducible apply kept_dropOp
    | with_reducible apply kept_rewriteLine
    | with_reducible apply kept_freeOp
    | with_reducible apply kept_strike
    | with_reducible refine kept_strike_eq ?_ ‹_›
    | with_reducible apply kept_modInteg
    | with_reducible apply kept_postLine
    | with_reducible apply kept_logEntry
    | with_reducible apply kept_settlePoisoned
    | with_reducible apply kept_post
    | split
    | lift_lets -underBinder

end Sys2Proof.Machine
end

