-- ==== Sys2Proof/Laws/KeptIngress.lean ====
section
/-! SUPPORT. What the operations of Machine/Ingress.lean keep (Kept). -/

namespace Sys2Proof.Machine

set_option linter.all false
set_option Elab.async false

theorem kept_modOutst {s0 : State} (tag : Nat) (f : Outst → Outst) {s : State}  (hK : Kept s0 s) : Kept s0 (modOutst tag f s) := by
  unfold modOutst
  repeat' first
    | with_reducible assumption
    | (intro x; refine Kept.cut (s0 := s0) x ?_ (fun k => ?_); rotate_left; clear_value x; rotate_left; subst x)
    | (intro x; clear_value x)
    | (intro x)
    | with_reducible apply kept_modFab
    | split

theorem kept_handOn {s0 : State} (o : Outst) (l : Nat) (p : Packet) {s : State}  (hK : Kept s0 s) : Kept s0 (handOn o l p s) := by
  unfold handOn
  repeat' first
    | with_reducible assumption
    | with_reducible apply kept_sendOn
    | with_reducible apply kept_charge

theorem kept_launch {s0 : State} (o : Outst) (l : Nat) {s : State}  (hK : Kept s0 s) : Kept s0 (launch o l s) := by
  unfold launch
  repeat' first
    | with_reducible assumption
    | (intro x; refine Kept.cut (s0 := s0) x ?_ (fun k => ?_); rotate_left; clear_value x; rotate_left; subst x)
    | (intro x; clear_value x)
    | (intro x)
    | with_reducible apply kept_handOn
    | with_reducible apply kept_modOutst
    | lift_lets -underBinder

theorem kept_siteBufWrite {s0 : State} (k : Nat) (p : Packet) {s : State}  (hK : Kept s0 s) : Kept s0 (siteBufWrite k p s) := by
  unfold siteBufWrite
  repeat' first
    | with_reducible assumption
    | (intro x; refine Kept.cut (s0 := s0) x ?_ (fun k => ?_); rotate_left; clear_value x; rotate_left; subst x)
    | (intro x; clear_value x)
    | (intro x)
    | with_reducible apply kept_modFab
    | with_reducible apply kept_eachS
    | with_reducible apply kept_modOrder
    | split
    | lift_lets -underBinder

theorem kept_sendRemote {s0 : State} (r : Req) (win : Nat) (e : BitVec 128) {s : State}  (hK : Kept s0 s) : Kept s0 (sendRemote r win e s) := by
  unfold sendRemote
  repeat' first
    | with_reducible assumption
    | (intro x; refine Kept.cut (s0 := s0) x ?_ (fun k => ?_); rotate_left; clear_value x; rotate_left; subst x)
    | (intro x; clear_value x)
    | (intro x)
    | with_reducible apply kept_refuse
    | with_reducible apply kept_siteBufWrite
    | with_reducible apply kept_modFab
    | with_reducible apply kept_whenS
    | with_reducible apply kept_launch
    | split
    | lift_lets -underBinder

theorem kept_takeOutst {s0 : State} (o : Outst) (hold : Option Nat) {s : State}  (hK : Kept s0 s) : Kept s0 (takeOutst o hold s) := by
  unfold takeOutst
  repeat' first
    | with_reducible assumption
    | (intro x; refine Kept.cut (s0 := s0) x ?_ (fun k => ?_); rotate_left; clear_value x; rotate_left; subst x)
    | (intro x; clear_value x)
    | (intro x)
    | with_reducible apply kept_modFab
    | split

theorem kept_tellOrigin {s0 : State} (o : Outst) (a : Answer) (noBuf : Bool) {s : State}  (hK : Kept s0 s) : Kept s0 (tellOrigin o a noBuf s) := by
  unfold tellOrigin
  repeat' first
    | with_reducible assumption
    | (intro x; refine Kept.cut (s0 := s0) x ?_ (fun k => ?_); rotate_left; clear_value x; rotate_left; subst x)
    | (intro x; clear_value x)
    | (intro x)
    | with_reducible apply kept_whenS
    | with_reducible apply kept_charge
    | with_reducible apply kept_fillSiteBuf
    | with_reducible apply kept_toAsker
    | with_reducible apply kept_boothAnswer
    | with_reducible apply kept_modCmd
    | split
    | lift_lets -underBinder

theorem kept_pumpOutst {s0 : State} {s : State}  (hK : Kept s0 s) : Kept s0 (pumpOutst s) := by
  unfold pumpOutst
  repeat' first
    | with_reducible assumption
    | (intro x; refine Kept.cut (s0 := s0) x ?_ (fun k => ?_); rotate_left; clear_value x; rotate_left; subst x)
    | (intro x; clear_value x)
    | (intro x)
    | with_reducible apply kept_eachS
    | with_reducible apply kept_whenS
    | with_reducible apply kept_launch
    | with_reducible apply kept_tellOrigin
    | with_reducible apply kept_takeOutst
    | split

theorem kept_dropOutst {s0 : State} (o : Outst) (hold : Option Nat) {s : State}  (hK : Kept s0 s) : Kept s0 (dropOutst o hold s) := by
  unfold dropOutst
  repeat' first
    | with_reducible assumption
    | with_reducible apply kept_pumpOutst
    | with_reducible apply kept_takeOutst

theorem kept_endOutst {s0 : State} (o : Outst) (a : Answer) (noBuf : Bool) (hold : Option Nat) {s : State}  (hK : Kept s0 s) : Kept s0 (endOutst o a noBuf hold s) := by
  unfold endOutst
  repeat' first
    | with_reducible assumption
    | with_reducible apply kept_settleFences
    | with_reducible apply kept_tellOrigin
    | with_reducible apply kept_dropOutst

theorem kept_siteRoute {s0 : State} (go : Req → State → State) (r : Req) {s : State}
    (hgo : ∀ (y0 : Req) {u : State}, Kept s0 u → Kept s0 (go y0 u)) (hK : Kept s0 s) : Kept s0 (siteRoute go r s) := by
  unfold siteRoute
  dsimp only
  generalize findWin _ _ _ _ _ = o
  cases o with
  | none => exact kept_refuse _ _ (kept_checkFailed _ _ _ hK)
  | some ie =>
    obtain ⟨i, e⟩ := ie
    dsimp only
    split
    · exact kept_refuse _ _ (kept_checkFailed _ _ _ hK)
    split
    · exact kept_cohError _ _ (kept_post _ hK)
    split
    · split
      · exact kept_cohError _ _ hK
      · exact kept_finish _ _ hK
    generalize bufferServes s r = b
    cases b with
    | some d => exact kept_finish _ _ hK
    | none =>
      dsimp only
      split
      · exact kept_refuse _ _ (kept_checkFailed _ _ _ hK)
      generalize actor s r = a
      cases a with
      | some p => exact kept_park _ _ (kept_wakePart _ _ (kept_whenS _ _ (fun {_} h => kept_siteBufWrite _ _ h) hK))
      | none =>
        dsimp only
        split
        · exact kept_asRetry _ _ hgo (kept_siteBufWrite _ _ hK)
        · exact kept_handOver _ _ (fun r {_} h => kept_sendRemote r _ _ h) hK

theorem kept_sitePacket {s0 : State} (k t n : Nat) (f : State → State) {s : State} (hf : ∀  {u : State}, Kept s0 u → Kept s0 (f  u)) (hK : Kept s0 s) : Kept s0 (sitePacket k t n f s) := by
  unfold sitePacket
  repeat' first
    | with_reducible assumption
    | (intro x; refine Kept.cut (s0 := s0) x ?_ (fun k => ?_); rotate_left; clear_value x; rotate_left; subst x)
    | (intro x; clear_value x)
    | (intro x)
    | with_reducible apply kept_oweSite
    | with_reducible apply hf
    | split

theorem kept_siteProtocol {s0 : State} (k t : Nat) {s : State}  (hK : Kept s0 s) : Kept s0 (siteProtocol k t s) := by
  unfold siteProtocol
  repeat' first
    | with_reducible assumption
    | with_reducible apply kept_post

theorem kept_siteMessage {s0 : State} (k : Nat) (p : Packet) (f : Packet → State → State) {s : State} (hf : ∀ (y0 : Packet) {u : State}, Kept s0 u → Kept s0 (f y0 u)) (hK : Kept s0 s) : Kept s0 (siteMessage k p f s) := by
  unfold siteMessage
  repeat' first
    | with_reducible assumption
    | (intro x; refine Kept.cut (s0 := s0) x ?_ (fun k => ?_); rotate_left; clear_value x; rotate_left; subst x)
    | (intro x; clear_value x)
    | (intro x)
    | with_reducible apply kept_sitePacket
    | with_reducible apply kept_siteProtocol
    | with_reducible apply hf
    | split
    | lift_lets -underBinder

theorem kept_holdAtSite {s0 : State} (k : Nat) (p : Packet) {s : State}  (hK : Kept s0 s) : Kept s0 (holdAtSite k p s) := by
  unfold holdAtSite
  repeat' first
    | with_reducible assumption
    | (intro x; refine Kept.cut (s0 := s0) x ?_ (fun k => ?_); rotate_left; clear_value x; rotate_left; subst x)
    | (intro x; clear_value x)
    | (intro x)
    | with_reducible apply kept_whenS
    | with_reducible apply kept_modSite

theorem kept_fenceGate {s0 : State} (k : Nat) (p : Packet) (f : State → State) {s : State} (hf : ∀  {u : State}, Kept s0 u → Kept s0 (f  u)) (hK : Kept s0 s) : Kept s0 (fenceGate k p f s) := by
  unfold fenceGate
  repeat' first
    | with_reducible assumption
    | (intro x; refine Kept.cut (s0 := s0) x ?_ (fun k => ?_); rotate_left; clear_value x; rotate_left; subst x)
    | (intro x; clear_value x)
    | (intro x)
    | with_reducible apply kept_holdAtSite
    | with_reducible apply kept_wakePart
    | with_reducible apply hf
    | split

theorem kept_siteTake {s0 : State} (k : Nat) (p : Packet) (go : Req → State → State) {s : State} (hgo : ∀ (y0 : Req) {u : State}, Kept s0 u → Kept s0 (go y0 u)) (hK : Kept s0 s) : Kept s0 (siteTake k p go s) := by
  unfold siteTake
  repeat' first
    | with_reducible assumption
    | (intro x; refine Kept.cut (s0 := s0) x ?_ (fun k => ?_); rotate_left; clear_value x; rotate_left; subst x)
    | (intro x; clear_value x)
    | (intro x)
    | with_reducible apply kept_oweSite
    | with_reducible apply kept_refuse
    | with_reducible apply kept_checkFailed
    | with_reducible apply kept_siteRoute
    | with_reducible apply hgo
    | split
    | lift_lets -underBinder

theorem kept_siteIngress {s0 : State} (k : Nat) (p : Packet) (go : Req → State → State) {s : State} (hgo : ∀ (y0 : Req) {u : State}, Kept s0 u → Kept s0 (go y0 u)) (hK : Kept s0 s) : Kept s0 (siteIngress k p go s) := by
  unfold siteIngress
  repeat' first
    | with_reducible assumption
    | (intro x; refine Kept.cut (s0 := s0) x ?_ (fun k => ?_); rotate_left; clear_value x; rotate_left; subst x)
    | (intro x; clear_value x)
    | (intro x)
    | with_reducible apply kept_fenceGate
    | with_reducible apply kept_siteTake
    | with_reducible apply hgo

theorem kept_sendCredit {s0 : State} (l : Nat) {s : State}  (hK : Kept s0 s) : Kept s0 (sendCredit l s) := by
  unfold sendCredit
  repeat' first
    | with_reducible assumption
    | (intro x; refine Kept.cut (s0 := s0) x ?_ (fun k => ?_); rotate_left; clear_value x; rotate_left; subst x)
    | (intro x; clear_value x)
    | (intro x)
    | with_reducible apply kept_modLink
    | with_reducible apply kept_transmit
    | split
    | lift_lets -underBinder

theorem kept_takeIngress {s0 : State} (l : Nat) (p : Packet) {s : State}  (hK : Kept s0 s) : Kept s0 (takeIngress l p s) := by
  unfold takeIngress
  repeat' first
    | with_reducible assumption
    | (intro x; refine Kept.cut (s0 := s0) x ?_ (fun k => ?_); rotate_left; clear_value x; rotate_left; subst x)
    | (intro x; clear_value x)
    | (intro x)
    | with_reducible apply kept_modLink
    | with_reducible apply kept_whenS
    | with_reducible apply kept_sendCredit
    | split
    | lift_lets -underBinder

theorem kept_holdIngress {s0 : State} (l : Nat) (p : Packet) {s : State}  (hK : Kept s0 s) : Kept s0 (holdIngress l p s) := by
  unfold holdIngress
  repeat' first
    | with_reducible assumption
    | (intro x; refine Kept.cut (s0 := s0) x ?_ (fun k => ?_); rotate_left; clear_value x; rotate_left; subst x)
    | (intro x; clear_value x)
    | (intro x)
    | with_reducible apply kept_modLink
    | split

theorem kept_onLink {s0 : State} (l : Nat) (p : Packet) (f : Packet → State → State) {s : State} (hf : ∀ (y0 : Packet) {u : State}, Kept s0 u → Kept s0 (f y0 u)) (hK : Kept s0 s) : Kept s0 (onLink l p f s) := by
  unfold onLink
  repeat' first
    | with_reducible assumption
    | (intro x; refine Kept.cut (s0 := s0) x ?_ (fun k => ?_); rotate_left; clear_value x; rotate_left; subst x)
    | (intro x; clear_value x)
    | (intro x)
    | with_reducible apply kept_post
    | with_reducible apply kept_takeIngress
    | with_reducible apply hf
    | split
    | lift_lets -underBinder

theorem kept_addBounce {s0 : State} (l : Nat) (p : Packet) (wake : Option Nat) (resend : Option PathCheck) {s : State}  (hK : Kept s0 s) : Kept s0 (addBounce l p wake resend s).2 := by
  unfold addBounce
  repeat' first
    | with_reducible assumption
    | (intro x; refine Kept.cut (s0 := s0) x ?_ (fun k => ?_); rotate_left; clear_value x; rotate_left; subst x)
    | (intro x; clear_value x)
    | (intro x)
    | with_reducible apply kept_modPort
    | lift_lets -underBinder

theorem kept_addBounce_eq {s0 t : State} {cc} {l : Nat} {p : Packet} {wake : Option Nat} {resend : Option PathCheck} {s : State}  (hK : Kept s0 s) (eqn : addBounce l p wake resend s = (cc, t)) : Kept s0 t := by
  have k := kept_addBounce (s0 := s0) l p wake resend  hK
  rw [eqn] at k
  exact k

theorem kept_sendGrant {s0 : State} (t : Nat) (l node : Nat) (tag : BitVec 32) (addr : Word) (id : Nat) {s : State}  (hK : Kept s0 s) : Kept s0 (sendGrant t l node tag addr id s) := by
  unfold sendGrant
  repeat' first
    | with_reducible assumption
    | with_reducible apply kept_sendOn
    | split

theorem kept_bounce {s0 : State} (l : Nat) (p : Packet) (wake : Option Nat) {s : State}  (hK : Kept s0 s) : Kept s0 (bounce l p wake s) := by
  unfold bounce
  repeat' first
    | with_reducible assumption
    | (intro x; refine Kept.cut (s0 := s0) x ?_ (fun k => ?_); rotate_left; clear_value x; rotate_left; subst x)
    | (intro x; clear_value x)
    | (intro x)
    | with_reducible apply kept_addBounce
    | with_reducible refine kept_addBounce_eq ?_ ‹_›
    | with_reducible apply kept_modLink
    | with_reducible apply kept_sendGrant
    | lift_lets -underBinder

theorem kept_dropBounce {s0 : State} (port id : Nat) {s : State}  (hK : Kept s0 s) : Kept s0 (dropBounce port id s) := by
  unfold dropBounce
  repeat' first
    | with_reducible assumption
    | (intro x; refine Kept.cut (s0 := s0) x ?_ (fun k => ?_); rotate_left; clear_value x; rotate_left; subst x)
    | (intro x; clear_value x)
    | (intro x)
    | with_reducible apply kept_modPort
    | with_reducible apply kept_bounce

theorem kept_askResend {s0 : State} (l : Nat) (p : Packet) (first : PathCheck) {s : State}  (hK : Kept s0 s) : Kept s0 (askResend l p first s) := by
  unfold askResend
  repeat' first
    | with_reducible assumption
    | (intro x; refine Kept.cut (s0 := s0) x ?_ (fun k => ?_); rotate_left; clear_value x; rotate_left; subst x)
    | (intro x; clear_value x)
    | (intro x)
    | with_reducible apply kept_addBounce
    | with_reducible refine kept_addBounce_eq ?_ ‹_›
    | with_reducible apply kept_sendGrant
    | lift_lets -underBinder

theorem kept_compareCarried {s0 : State} (l : Nat) (r : Req) (go : Req → State → State) {s : State} (hgo : ∀ (y0 : Req) {u : State}, Kept s0 u → Kept s0 (go y0 u)) (hK : Kept s0 s) : Kept s0 (compareCarried l r go s) := by
  unfold compareCarried
  repeat' first
    | with_reducible assumption
    | (intro x; refine Kept.cut (s0 := s0) x ?_ (fun k => ?_); rotate_left; clear_value x; rotate_left; subst x)
    | (intro x; clear_value x)
    | (intro x)
    | with_reducible apply kept_dropBounce
    | with_reducible apply kept_pathRetried
    | with_reducible apply kept_finish
    | with_reducible apply kept_pathFailed
    | with_reducible apply kept_askResend
    | with_reducible apply hgo
    | split
    | lift_lets -underBinder

theorem kept_admitRequest {s0 : State} (l : Nat) (r : Req) (go : Req → State → State) {s : State} (hgo : ∀ (y0 : Req) {u : State}, Kept s0 u → Kept s0 (go y0 u)) (hK : Kept s0 s) : Kept s0 (admitRequest l r go s) := by
  unfold admitRequest
  repeat' first
    | with_reducible assumption
    | (intro x; refine Kept.cut (s0 := s0) x ?_ (fun k => ?_); rotate_left; clear_value x; rotate_left; subst x)
    | (intro x; clear_value x)
    | (intro x)
    | with_reducible apply kept_compareCarried
    | with_reducible apply kept_dropBounce
    | with_reducible apply kept_bounce
    | with_reducible apply hgo
    | split

theorem kept_replayConflict {s0 : State} (r : Req) {s : State}  (hK : Kept s0 s) : Kept s0 (replayConflict r s) := by
  unfold replayConflict
  repeat' first
    | with_reducible assumption
    | with_reducible apply kept_post

theorem kept_decideWith {s0 : State} (go : Req → State → State) (r : Req) {s : State} (hgo : ∀ (y0 : Req) {u : State}, Kept s0 u → Kept s0 (go y0 u)) (hK : Kept s0 s) : Kept s0 (decideWith go r s) := by
  unfold decideWith
  repeat' first
    | with_reducible assumption
    | (intro x; refine Kept.cut (s0 := s0) x ?_ (fun k => ?_); rotate_left; clear_value x; rotate_left; subst x)
    | (intro x; clear_value x)
    | (intro x)
    | with_reducible apply kept_modOrder
    | with_reducible apply kept_modHome
    | with_reducible apply kept_park
    | with_reducible apply kept_refuse
    | with_reducible apply kept_replayConflict
    | with_reducible apply kept_chargeReq
    | with_reducible apply kept_sendAnswer
    | with_reducible apply hgo
    | split
    | lift_lets -underBinder

theorem kept_atomicDecide {s0 : State} (r : Req) {s : State}  (hK : Kept s0 s) : Kept s0 (atomicDecide r s) := by
  unfold atomicDecide
  repeat' first
    | with_reducible assumption
    | (intro x; refine Kept.cut (s0 := s0) x ?_ (fun k => ?_); rotate_left; clear_value x; rotate_left; subst x)
    | (intro x; clear_value x)
    | (intro x)
    | with_reducible apply kept_numbered
    | with_reducible apply kept_decideWith
    | with_reducible apply kept_serve

theorem kept_refuseLate {s0 : State} (order : Nat) (r : Req) {s : State}  (hK : Kept s0 s) : Kept s0 (refuseLate order r s) := by
  unfold refuseLate
  repeat' first
    | with_reducible assumption
    | (intro x; refine Kept.cut (s0 := s0) x ?_ (fun k => ?_); rotate_left; clear_value x; rotate_left; subst x)
    | (intro x; clear_value x)
    | (intro x)
    | with_reducible apply kept_decideWith
    | with_reducible apply kept_finish
    | with_reducible apply kept_checkFailed
    | with_reducible apply kept_refuse
    | split

theorem kept_refuseStale {s0 : State} (l : Nat) (r : Req) {s : State}  (hK : Kept s0 s) : Kept s0 (refuseStale l r s) := by
  unfold refuseStale
  repeat' first
    | with_reducible assumption
    | with_reducible apply kept_sendOn
    | split

theorem kept_linkIngress {s0 : State} (l : Nat) (p : Packet) (go : Req → State → State) {s : State} (hgo : ∀ (y0 : Req) {u : State}, Kept s0 u → Kept s0 (go y0 u)) (hK : Kept s0 s) : Kept s0 (linkIngress l p go s) := by
  unfold linkIngress
  repeat' first
    | with_reducible assumption
    | (intro x; refine Kept.cutF (s0 := s0) x ?_ (fun k => ?_); rotate_left; clear_value x; rotate_left; subst x; intro u hu; try dsimp only)
    | (intro x; refine Kept.cutF1 (s0 := s0) x ?_ (fun k => ?_); rotate_left; clear_value x; rotate_left; subst x; intro a u hu; try dsimp only)
    | (intro x; refine Kept.cutF2 (s0 := s0) x ?_ (fun k => ?_); rotate_left; clear_value x; rotate_left; subst x; intro a b u hu; try dsimp only)
    | (intro x; refine Kept.cut (s0 := s0) x ?_ (fun k => ?_); rotate_left; clear_value x; rotate_left; subst x)
    | (intro x; clear_value x)
    | (intro x)
    | with_reducible apply kept_onLink
    | with_reducible apply kept_takeIngress
    | with_reducible apply kept_chargeReq
    | with_reducible apply kept_refuse
    | with_reducible apply kept_checkFailed
    | with_reducible apply kept_modLink
    | with_reducible apply kept_refuseStale
    | with_reducible apply kept_charge
    | with_reducible apply kept_holdIngress
    | with_reducible apply kept_bounce
    | with_reducible apply kept_wakePart
    | with_reducible apply kept_refuseLate
    | with_reducible apply kept_admitRequest
    | with_reducible apply kept_asRetry
    | with_reducible apply hgo
    | split
    | lift_lets -underBinder
    | refine Kept.app (by assumption) ?_
    | refine Kept.app1 (by assumption) ?_
    | refine Kept.app2 (by assumption) ?_

theorem kept_ingress {s0 : State} (port : Port) (p : Packet) (go : Req → State → State) {s : State} (hgo : ∀ (y0 : Req) {u : State}, Kept s0 u → Kept s0 (go y0 u)) (hK : Kept s0 s) : Kept s0 (ingress port p go s) := by
  unfold ingress
  repeat' first
    | with_reducible assumption
    | (intro x; refine Kept.cut (s0 := s0) x ?_ (fun k => ?_); rotate_left; clear_value x; rotate_left; subst x)
    | (intro x; clear_value x)
    | (intro x)
    | with_reducible apply kept_siteIngress
    | with_reducible apply kept_linkIngress
    | with_reducible apply hgo
    | split

theorem kept_openHot {s0 : State} {s : State}  (hK : Kept s0 s) : Kept s0 (openHot s) := by
  unfold openHot
  repeat' first
    | with_reducible assumption
    | (intro x; refine Kept.cut (s0 := s0) x ?_ (fun k => ?_); rotate_left; clear_value x; rotate_left; subst x)
    | (intro x; clear_value x)
    | (intro x)
    | with_reducible apply kept_eachS
    | with_reducible apply kept_whenS
    | with_reducible apply kept_modHome
    | split
    | lift_lets -underBinder

theorem kept_wbTurn {s0 : State} (y : Nat) (r : Req) {s : State}  (hK : Kept s0 s) : Kept s0 (wbTurn y r s) := by
  unfold wbTurn
  repeat' first
    | with_reducible assumption
    | (intro x; refine Kept.cutF (s0 := s0) x ?_ (fun k => ?_); rotate_left; clear_value x; rotate_left; subst x; intro u hu; try dsimp only)
    | (intro x; refine Kept.cutF1 (s0 := s0) x ?_ (fun k => ?_); rotate_left; clear_value x; rotate_left; subst x; intro a u hu; try dsimp only)
    | (intro x; refine Kept.cutF2 (s0 := s0) x ?_ (fun k => ?_); rotate_left; clear_value x; rotate_left; subst x; intro a b u hu; try dsimp only)
    | (intro x; refine Kept.cut (s0 := s0) x ?_ (fun k => ?_); rotate_left; clear_value x; rotate_left; subst x)
    | (intro x; clear_value x)
    | (intro x)
    | with_reducible apply kept_finish
    | with_reducible apply kept_post
    | with_reducible apply kept_writeOwnerData
    | with_reducible apply kept_whenS
    | with_reducible apply kept_answerProbe
    | with_reducible apply kept_modTxn
    | with_reducible apply kept_txnProceed
    | with_reducible apply kept_meetRetry
    | with_reducible apply kept_hotClose
    | with_reducible apply kept_admitTo
    | with_reducible apply kept_park
    | with_reducible apply kept_allocEnt
    | with_reducible apply kept_setDir
    | split
    | lift_lets -underBinder
    | refine Kept.app (by assumption) ?_
    | refine Kept.app1 (by assumption) ?_
    | refine Kept.app2 (by assumption) ?_

theorem kept_wbHome {s0 : State} (r : Req) {s : State}  (hK : Kept s0 s) : Kept s0 (wbHome r s) := by
  unfold wbHome
  repeat' first
    | with_reducible assumption
    | (intro x; refine Kept.cut (s0 := s0) x ?_ (fun k => ?_); rotate_left; clear_value x; rotate_left; subst x)
    | (intro x; clear_value x)
    | (intro x)
    | with_reducible apply kept_finish
    | with_reducible apply kept_post
    | with_reducible apply kept_comeTo
    | with_reducible apply kept_atHome
    | with_reducible apply kept_admitTo
    | with_reducible apply kept_wbTurn
    | split

theorem kept_serveWriteback {s0 : State} (r : Req) {s : State}  (hK : Kept s0 s) : Kept s0 (serveWriteback r s) := by
  unfold serveWriteback
  repeat' first
    | with_reducible assumption
    | (intro x; refine Kept.cut (s0 := s0) x ?_ (fun k => ?_); rotate_left; clear_value x; rotate_left; subst x)
    | (intro x; clear_value x)
    | (intro x)
    | with_reducible apply kept_numbered
    | with_reducible apply kept_under
    | with_reducible apply kept_handOver
    | with_reducible apply kept_wbHome

theorem kept_cohAgain {s0 : State} (c : Coh) (r : Req) {s : State}  (hK : Kept s0 s) : Kept s0 (cohAgain c r s) := by
  unfold cohAgain
  repeat' first
    | with_reducible assumption
    | (intro x; refine Kept.cut (s0 := s0) x ?_ (fun k => ?_); rotate_left; clear_value x; rotate_left; subst x)
    | (intro x; clear_value x)
    | (intro x)
    | with_reducible apply kept_txnProceed
    | with_reducible apply kept_modTxn
    | with_reducible apply kept_serveCoherent
    | split

theorem kept_atomicAgain {s0 : State} (r : Req) {s : State}  (hK : Kept s0 s) : Kept s0 (atomicAgain r s) := by
  unfold atomicAgain
  repeat' first
    | with_reducible assumption
    | (intro x; refine Kept.cut (s0 := s0) x ?_ (fun k => ?_); rotate_left; clear_value x; rotate_left; subst x)
    | (intro x; clear_value x)
    | (intro x)
    | with_reducible apply kept_refuseLate
    | with_reducible apply kept_atomicDecide
    | split
    | lift_lets -underBinder

theorem kept_serveAgain {s0 : State} (r : Req) {s : State}  (hK : Kept s0 s) : Kept s0 (serveAgain r s) := by
  unfold serveAgain
  repeat' first
    | with_reducible assumption
    | (intro x; refine Kept.cut (s0 := s0) x ?_ (fun k => ?_); rotate_left; clear_value x; rotate_left; subst x)
    | (intro x; clear_value x)
    | (intro x)
    | with_reducible apply kept_mirrorServe
    | with_reducible apply kept_siteRoute
    | with_reducible apply kept_serve
    | with_reducible apply kept_serveWriteback
    | with_reducible apply kept_cohAgain
    | with_reducible apply kept_atomicAgain
    | with_reducible apply kept_finish
    | split
    | lift_lets -underBinder

theorem kept_serveParked {s0 : State} (p : Parked) {s : State}  (hK : Kept s0 s) : Kept s0 (serveParked p s) := by
  unfold serveParked
  repeat' first
    | with_reducible assumption
    | with_reducible apply kept_park
    | with_reducible apply kept_serveAgain
    | split

theorem kept_releaseOne {s0 : State} (order : Nat) {s : State}  (hK : Kept s0 s) : Kept s0 (releaseOne order s) := by
  unfold releaseOne
  repeat' first
    | with_reducible assumption
    | exact fun _ => rfl
    | (intro x; refine Kept.cut (s0 := s0) x ?_ (fun k => ?_); rotate_left; clear_value x; rotate_left; subst x)
    | (intro x; clear_value x)
    | (intro x)
    | with_reducible apply kept_serveParked
    | with_reducible apply kept_modMem
    | split

theorem kept_releaseParked {s0 : State} {s : State}  (hK : Kept s0 s) : Kept s0 (releaseParked s) := by
  unfold releaseParked
  repeat' first
    | with_reducible assumption
    | (intro x; refine Kept.cut (s0 := s0) x ?_ (fun k => ?_); rotate_left; clear_value x; rotate_left; subst x)
    | (intro x; clear_value x)
    | (intro x)
    | with_reducible apply kept_openHot
    | with_reducible apply kept_eachS
    | with_reducible apply kept_releaseOne
    | lift_lets -underBinder

theorem kept_releaseRings {s0 : State} {s : State}  (hK : Kept s0 s) : Kept s0 (releaseRings s) := by
  unfold releaseRings
  repeat' first
    | with_reducible assumption
    | (intro x; refine Kept.cut (s0 := s0) x ?_ (fun k => ?_); rotate_left; clear_value x; rotate_left; subst x)
    | (intro x; clear_value x)
    | (intro x)
    | with_reducible apply kept_eachS
    | with_reducible apply kept_releaseOne
    | split

theorem kept_restartClocks {s0 : State} {s : State}  (hK : Kept s0 s) : Kept s0 (restartClocks s) := by
  unfold restartClocks
  repeat' first
    | with_reducible assumption
    | (intro x; refine Kept.cut (s0 := s0) x ?_ (fun k => ?_); rotate_left; clear_value x; rotate_left; subst x)
    | (intro x; clear_value x)
    | (intro x)
    | with_reducible apply kept_whenS
    | with_reducible apply kept_modPower

theorem kept_settleOnce {s0 : State} {s : State}  (hK : Kept s0 s) : Kept s0 (settleOnce s) := by
  unfold settleOnce
  repeat' first
    | with_reducible assumption
    | with_reducible apply kept_settleFences
    | with_reducible apply kept_driveTxns
    | with_reducible apply kept_releaseRings
    | with_reducible apply kept_releaseParked
    | with_reducible apply kept_restartClocks

theorem kept_siteWait {s0 : State} (k : Nat) (p : Packet) (ok : Bool) (f : Req → State → State) {s : State} (hf : ∀ (y0 : Req) {u : State}, Kept s0 u → Kept s0 (f y0 u)) (hK : Kept s0 s) : Kept s0 (siteWait k p ok f s) := by
  unfold siteWait
  repeat' first
    | with_reducible assumption
    | (intro x; refine Kept.cut (s0 := s0) x ?_ (fun k => ?_); rotate_left; clear_value x; rotate_left; subst x)
    | (intro x; clear_value x)
    | (intro x)
    | with_reducible apply kept_sitePacket
    | with_reducible apply kept_refuse
    | with_reducible apply kept_checkFailed
    | with_reducible apply hf
    | split
    | lift_lets -underBinder

theorem kept_takeFence {s0 : State} (k : Nat) (p : Packet) {s : State}  (hK : Kept s0 s) : Kept s0 (takeFence k p s) := by
  unfold takeFence
  repeat' first
    | with_reducible assumption
    | (intro x; refine Kept.cut (s0 := s0) x ?_ (fun k => ?_); rotate_left; clear_value x; rotate_left; subst x)
    | (intro x; clear_value x)
    | (intro x)
    | with_reducible apply kept_siteWait
    | with_reducible apply kept_settleFences
    | with_reducible apply kept_modUcie
    | lift_lets -underBinder

theorem kept_takeCtrWait {s0 : State} (k : Nat) (p : Packet) {s : State}  (hK : Kept s0 s) : Kept s0 (takeCtrWait k p s) := by
  unfold takeCtrWait
  repeat' first
    | with_reducible assumption
    | (intro x; refine Kept.cut (s0 := s0) x ?_ (fun k => ?_); rotate_left; clear_value x; rotate_left; subst x)
    | (intro x; clear_value x)
    | (intro x)
    | with_reducible apply kept_siteWait
    | with_reducible apply kept_refuse
    | with_reducible apply kept_settleCtr
    | with_reducible apply kept_modOrder
    | split
    | lift_lets -underBinder

theorem kept_siteServe {s0 : State} (t : Nat) (r : Req) {s : State} (hK : Kept s0 s) : Kept s0 (siteServe t r s) := by
  unfold siteServe
  split
  · exact kept_atomicDecide _ hK
  · generalize cohOf t = o
    cases o with
    | some c => exact kept_serveCoherent _ _ hK
    | none => exact kept_serve _ hK

theorem kept_takeHeld {s0 : State} (k : Nat) (p : Packet) {s : State}  (hK : Kept s0 s) : Kept s0 (takeHeld k p s) := by
  unfold takeHeld
  repeat' first
    | with_reducible assumption
    | with_reducible apply kept_takeFence
    | with_reducible apply kept_takeCtrWait
    | with_reducible apply kept_siteTake
    | with_reducible apply kept_siteServe
    | split

theorem kept_releaseHeld {s0 : State} {s : State}  (hK : Kept s0 s) : Kept s0 (releaseHeld s) := by
  unfold releaseHeld
  repeat' first
    | with_reducible assumption
    | (intro x; refine Kept.cut (s0 := s0) x ?_ (fun k => ?_); rotate_left; clear_value x; rotate_left; subst x)
    | (intro x; clear_value x)
    | (intro x)
    | with_reducible apply kept_eachS
    | with_reducible apply kept_wakePart
    | with_reducible apply kept_takeHeld
    | with_reducible apply kept_modSite
    | split

theorem kept_settle {s0 : State} {s : State}  (hK : Kept s0 s) : Kept s0 (settle s) := by
  unfold settle
  repeat' first
    | with_reducible assumption
    | (intro x; refine Kept.cut (s0 := s0) x ?_ (fun k => ?_); rotate_left; clear_value x; rotate_left; subst x)
    | (intro x; clear_value x)
    | (intro x)
    | with_reducible apply kept_eachS
    | with_reducible apply kept_settleOnce
    | with_reducible apply kept_releaseHeld

end Sys2Proof.Machine
end

