-- ==== Sys2Proof/Laws/KeptQueuePair.lean ====
section
/-! SUPPORT. What the operations of Machine/QueuePair.lean keep (Kept). -/

namespace Sys2Proof.Machine

set_option linter.all false
set_option Elab.async false

theorem kept_closeCmd {s0 : State} (q n : Nat) {s : State}  (hK : Kept s0 s) : Kept s0 (closeCmd q n s) := by
  unfold closeCmd
  repeat' first
    | with_reducible assumption
    | (intro x; refine Kept.cut (s0 := s0) x ?_ (fun k => ?_); rotate_left; clear_value x; rotate_left; subst x)
    | (intro x; clear_value x)
    | (intro x)
    | with_reducible apply kept_endCmd
    | with_reducible apply kept_modQp
    | split

theorem kept_stopCmd {s0 : State} (c : Cmd) {s : State}  (hK : Kept s0 s) : Kept s0 (stopCmd c s) := by
  unfold stopCmd
  repeat' first
    | with_reducible assumption
    | (intro x; refine Kept.cut (s0 := s0) x ?_ (fun k => ?_); rotate_left; clear_value x; rotate_left; subst x)
    | (intro x; clear_value x)
    | (intro x)
    | with_reducible apply kept_modCmd
    | with_reducible apply kept_modOrder
    | with_reducible apply kept_closeCmd
    | split
    | lift_lets -underBinder

theorem kept_enterError {s0 : State} (q cause idx status opcode : Nat) {s : State}  (hK : Kept s0 s) : Kept s0 (enterError q cause idx status opcode s) := by
  unfold enterError
  repeat' first
    | with_reducible assumption
    | (intro x; refine Kept.cut (s0 := s0) x ?_ (fun k => ?_); rotate_left; clear_value x; rotate_left; subst x)
    | (intro x; clear_value x)
    | (intro x)
    | with_reducible apply kept_modQp
    | with_reducible apply kept_post
    | split
    | lift_lets -underBinder

theorem kept_abortQp {s0 : State} (q cause : Nat) {s : State}  (hK : Kept s0 s) : Kept s0 (abortQp q cause s) := by
  unfold abortQp
  repeat' first
    | with_reducible assumption
    | (intro x; refine Kept.cut (s0 := s0) x ?_ (fun k => ?_); rotate_left; clear_value x; rotate_left; subst x)
    | (intro x; clear_value x)
    | (intro x)
    | with_reducible apply kept_eachS
    | with_reducible apply kept_stopCmd
    | with_reducible apply kept_enterError
    | split
    | lift_lets -underBinder

theorem kept_markFault {s0 : State} (q n : Nat) (st : Status) (va : Word) {s : State}  (hK : Kept s0 s) : Kept s0 (markFault q n st va s) := by
  unfold markFault
  repeat' first
    | with_reducible assumption
    | (intro x; refine Kept.cut (s0 := s0) x ?_ (fun k => ?_); rotate_left; clear_value x; rotate_left; subst x)
    | (intro x; clear_value x)
    | (intro x)
    | with_reducible apply kept_modCmd
    | split

theorem kept_spreadFault {s0 : State} (q n : Nat) {s : State}  (hK : Kept s0 s) : Kept s0 (spreadFault q n s) := by
  unfold spreadFault
  repeat' first
    | with_reducible assumption
    | (intro x; refine Kept.cut (s0 := s0) x ?_ (fun k => ?_); rotate_left; clear_value x; rotate_left; subst x)
    | (intro x; clear_value x)
    | (intro x)
    | with_reducible apply kept_closeCmd
    | with_reducible apply kept_enterError
    | with_reducible apply kept_eachS
    | with_reducible apply kept_stopCmd
    | split
    | lift_lets -underBinder

theorem kept_faultCmd {s0 : State} (q n : Nat) (st : Status) (va : Word) {s : State}  (hK : Kept s0 s) : Kept s0 (faultCmd q n st va s) := by
  unfold faultCmd
  repeat' first
    | with_reducible assumption
    | with_reducible apply kept_closeCmd
    | with_reducible apply kept_spreadFault
    | with_reducible apply kept_markFault
    | split

theorem kept_faultCmds {s0 : State} (ws : List (Nat × Nat × Nat)) (st : Status) {s : State}  (hK : Kept s0 s) : Kept s0 (faultCmds ws st s) := by
  unfold faultCmds
  repeat' first
    | with_reducible assumption
    | (intro x; refine Kept.cut (s0 := s0) x ?_ (fun k => ?_); rotate_left; clear_value x; rotate_left; subst x)
    | (intro x; clear_value x)
    | (intro x)
    | with_reducible apply kept_eachS
    | with_reducible apply kept_markFault
    | with_reducible apply kept_spreadFault
    | split
    | lift_lets -underBinder

theorem kept_qpResult {s0 : State} (q r : Nat) {s : State}  (hK : Kept s0 s) : Kept s0 (qpResult q r s) := by
  unfold qpResult
  repeat' first
    | with_reducible assumption
    | (intro x; refine Kept.cut (s0 := s0) x ?_ (fun k => ?_); rotate_left; clear_value x; rotate_left; subst x)
    | (intro x; clear_value x)
    | (intro x)
    | with_reducible apply kept_modQp

theorem kept_qpEnable {s0 : State} (q : Nat) {s : State}  (hK : Kept s0 s) : Kept s0 (qpEnable q s) := by
  unfold qpEnable
  repeat' first
    | with_reducible assumption
    | (intro x; refine Kept.cut (s0 := s0) x ?_ (fun k => ?_); rotate_left; clear_value x; rotate_left; subst x)
    | (intro x; clear_value x)
    | (intro x)
    | with_reducible apply kept_qpResult
    | with_reducible apply kept_modQp
    | split

theorem kept_qpDisable {s0 : State} (q : Nat) {s : State}  (hK : Kept s0 s) : Kept s0 (qpDisable q s) := by
  unfold qpDisable
  repeat' first
    | with_reducible assumption
    | (intro x; refine Kept.cut (s0 := s0) x ?_ (fun k => ?_); rotate_left; clear_value x; rotate_left; subst x)
    | (intro x; clear_value x)
    | (intro x)
    | with_reducible apply kept_qpResult
    | with_reducible apply kept_modQp
    | split
    | lift_lets -underBinder

theorem kept_qpAbort {s0 : State} (q : Nat) {s : State}  (hK : Kept s0 s) : Kept s0 (qpAbort q s) := by
  unfold qpAbort
  repeat' first
    | with_reducible assumption
    | with_reducible apply kept_qpResult
    | with_reducible apply kept_abortQp
    | split

theorem kept_qpReset {s0 : State} (q : Nat) {s : State}  (hK : Kept s0 s) : Kept s0 (qpReset q s) := by
  unfold qpReset
  repeat' first
    | with_reducible assumption
    | with_reducible apply kept_qpResult
    | with_reducible apply kept_modQp
    | split

theorem kept_qpQuiesce {s0 : State} (q : Nat) {s : State}  (hK : Kept s0 s) : Kept s0 (qpQuiesce q s) := by
  unfold qpQuiesce
  repeat' first
    | with_reducible assumption
    | (intro x; refine Kept.cut (s0 := s0) x ?_ (fun k => ?_); rotate_left; clear_value x; rotate_left; subst x)
    | (intro x; clear_value x)
    | (intro x)
    | with_reducible apply kept_modQp
    | split
    | lift_lets -underBinder

theorem kept_doorbellRefused {s0 : State} (w : Writer) (q off v : Nat) {s : State}  (hK : Kept s0 s) : Kept s0 (doorbellRefused w q off v s) := by
  unfold doorbellRefused
  repeat' first
    | with_reducible assumption
    | with_reducible apply kept_post

theorem kept_sqDoorbell {s0 : State} (w : Writer) (q : Nat) (tail : BitVec 32) {s : State}  (hK : Kept s0 s) : Kept s0 (sqDoorbell w q tail s).2 := by
  unfold sqDoorbell
  repeat' first
    | with_reducible assumption
    | (intro x; refine Kept.cut (s0 := s0) x ?_ (fun k => ?_); rotate_left; clear_value x; rotate_left; subst x)
    | (intro x; clear_value x)
    | (intro x)
    | with_reducible apply kept_modQp
    | with_reducible apply kept_doorbellRefused
    | split
    | lift_lets -underBinder

theorem kept_cqDoorbell {s0 : State} (w : Writer) (q : Nat) (head : BitVec 32) {s : State}  (hK : Kept s0 s) : Kept s0 (cqDoorbell w q head s).2 := by
  unfold cqDoorbell
  repeat' first
    | with_reducible assumption
    | (intro x; refine Kept.cut (s0 := s0) x ?_ (fun k => ?_); rotate_left; clear_value x; rotate_left; subst x)
    | (intro x; clear_value x)
    | (intro x)
    | with_reducible apply kept_modQp
    | with_reducible apply kept_doorbellRefused
    | split
    | lift_lets -underBinder

theorem kept_nextHead {s0 : State} (b : Nat) {s : State}  (hK : Kept s0 s) : Kept s0 (nextHead b s) := by
  unfold nextHead
  repeat' first
    | with_reducible assumption
    | (intro x; refine Kept.cut (s0 := s0) x ?_ (fun k => ?_); rotate_left; clear_value x; rotate_left; subst x)
    | (intro x; clear_value x)
    | (intro x)
    | with_reducible apply kept_modCmds
    | split

theorem kept_notifyQp {s0 : State} (q : Nat) {s : State}  (hK : Kept s0 s) : Kept s0 (notifyQp q s) := by
  unfold notifyQp
  repeat' first
    | with_reducible assumption
    | (intro x; refine Kept.cut (s0 := s0) x ?_ (fun k => ?_); rotate_left; clear_value x; rotate_left; subst x)
    | (intro x; clear_value x)
    | (intro x)
    | with_reducible apply kept_modQp
    | with_reducible apply kept_modBooth
    | with_reducible apply kept_modCmds
    | split
    | lift_lets -underBinder
    | with_reducible exact Kept.of_eq k rfl rfl rfl
    | with_reducible exact Kept.of_eq hK rfl rfl rfl

theorem kept_fetchFailed {s0 : State} (c : Cmd) (st : Status) {s : State}  (hK : Kept s0 s) : Kept s0 (fetchFailed c st s) := by
  unfold fetchFailed
  repeat' first
    | with_reducible assumption
    | (intro x; refine Kept.cut (s0 := s0) x ?_ (fun k => ?_); rotate_left; clear_value x; rotate_left; subst x)
    | (intro x; clear_value x)
    | (intro x)
    | with_reducible apply kept_modQp
    | with_reducible apply kept_nextHead
    | with_reducible apply kept_modCmds
    | with_reducible apply kept_charge
    | with_reducible apply kept_pushCompl
    | with_reducible apply kept_eachS
    | with_reducible apply kept_stopCmd
    | with_reducible apply kept_enterError
    | split
    | lift_lets -underBinder

theorem kept_returnNotes {s0 : State} (q n : Nat) {s : State}  (hK : Kept s0 s) : Kept s0 (returnNotes q n s) := by
  unfold returnNotes
  repeat' first
    | with_reducible assumption
    | (intro x; refine Kept.cut (s0 := s0) x ?_ (fun k => ?_); rotate_left; clear_value x; rotate_left; subst x)
    | (intro x; clear_value x)
    | (intro x)
    | with_reducible apply kept_modBooth
    | with_reducible apply kept_modQp

theorem kept_complLost {s0 : State} (q : Nat) {s : State}  (hK : Kept s0 s) : Kept s0 (complLost q s) := by
  unfold complLost
  repeat' first
    | with_reducible assumption
    | (intro x; refine Kept.cut (s0 := s0) x ?_ (fun k => ?_); rotate_left; clear_value x; rotate_left; subst x)
    | (intro x; clear_value x)
    | (intro x)
    | with_reducible apply kept_abortQp
    | with_reducible apply kept_returnNotes
    | with_reducible apply kept_modQp
    | lift_lets -underBinder

theorem kept_cqWrite {s0 : State} (q : Nat) {s : State}  (hK : Kept s0 s) : Kept s0 (cqWrite q s) := by
  unfold cqWrite
  repeat' first
    | with_reducible assumption
    | (intro x; refine Kept.cut (s0 := s0) x ?_ (fun k => ?_); rotate_left; clear_value x; rotate_left; subst x)
    | (intro x; clear_value x)
    | (intro x)
    | with_reducible apply kept_serve
    | with_reducible apply kept_modQp
    | with_reducible apply kept_returnNotes
    | with_reducible apply kept_complLost
    | split
    | lift_lets -underBinder

theorem kept_cqHoldExpiry {s0 : State} (q : Nat) {s : State}  (hK : Kept s0 s) : Kept s0 (cqHoldExpiry q s) := by
  unfold cqHoldExpiry
  repeat' first
    | with_reducible assumption
    | (intro x; refine Kept.cut (s0 := s0) x ?_ (fun k => ?_); rotate_left; clear_value x; rotate_left; subst x)
    | (intro x; clear_value x)
    | (intro x)
    | with_reducible apply kept_modQp
    | split
    | lift_lets -underBinder

theorem kept_abortRungBy {s0 : State} (z : Nat) {s : State}  (hK : Kept s0 s) : Kept s0 (abortRungBy z s) := by
  unfold abortRungBy
  repeat' first
    | with_reducible assumption
    | (intro x; refine Kept.cut (s0 := s0) x ?_ (fun k => ?_); rotate_left; clear_value x; rotate_left; subst x)
    | (intro x; clear_value x)
    | (intro x)
    | with_reducible apply kept_eachS
    | with_reducible apply kept_abortQp
    | split
    | lift_lets -underBinder

theorem kept_answerHome {s0 : State} (v : Served) {s : State}  (hK : Kept s0 s) : Kept s0 (answerHome v s) := by
  unfold answerHome
  repeat' first
    | with_reducible assumption
    | (intro x; refine Kept.cut (s0 := s0) x ?_ (fun k => ?_); rotate_left; clear_value x; rotate_left; subst x)
    | (intro x; clear_value x)
    | (intro x)
    | with_reducible apply kept_reply
    | split
    | lift_lets -underBinder

theorem kept_serveLess {s0 : State} (k : Nat) {s : State}  (hK : Kept s0 s) : Kept s0 (serveLess k s) := by
  unfold serveLess
  repeat' first
    | with_reducible assumption
    | (intro x; refine Kept.cut (s0 := s0) x ?_ (fun k => ?_); rotate_left; clear_value x; rotate_left; subst x)
    | (intro x; clear_value x)
    | (intro x)
    | with_reducible apply kept_modHome
    | with_reducible apply kept_eachS
    | with_reducible apply kept_answerHome
    | lift_lets -underBinder

theorem kept_declareLost {s0 : State} (z loc : Nat) {s : State}  (hK : Kept s0 s) : Kept s0 (declareLost z loc s) := by
  unfold declareLost
  repeat' first
    | with_reducible assumption
    | (intro x; refine Kept.cut (s0 := s0) x ?_ (fun k => ?_); rotate_left; clear_value x; rotate_left; subst x)
    | (intro x; clear_value x)
    | (intro x)
    | with_reducible apply kept_whenS
    | with_reducible apply kept_serveLess
    | with_reducible apply kept_modHome
    | with_reducible apply kept_tellMembers
    | with_reducible apply kept_post
    | with_reducible apply kept_dropFromTxns
    | with_reducible apply kept_scanCache
    | with_reducible apply kept_abortRungBy
    | split
    | lift_lets -underBinder

end Sys2Proof.Machine
end

