-- ==== Sys2Proof/Laws/KeptRequests.lean ====
section
/-! SUPPORT. What the operations of Machine/Requests.lean keep (Kept). -/

namespace Sys2Proof.Machine

set_option linter.all false
set_option Elab.async false

theorem kept_issueRead {s0 : State} (r : Req) {s : State}  (hK : Kept s0 s) : Kept s0 (issueRead r s) := by
  unfold issueRead
  repeat' first
    | with_reducible assumption
    | exact fun _ => rfl
    | (intro x; refine Kept.cut (s0 := s0) x ?_ (fun k => ?_); rotate_left; clear_value x; rotate_left; subst x)
    | (intro x; clear_value x)
    | (intro x)
    | with_reducible apply kept_eachS
    | with_reducible apply kept_holdLine
    | with_reducible apply kept_modMem
    | lift_lets -underBinder

theorem kept_startRead {s0 : State} (r : Req) {s : State}  (hK : Kept s0 s) : Kept s0 (startRead r s) := by
  unfold startRead
  repeat' first
    | with_reducible assumption
    | (intro x; refine Kept.cutF (s0 := s0) x ?_ (fun k => ?_); rotate_left; clear_value x; rotate_left; subst x; intro u hu; try dsimp only)
    | (intro x; refine Kept.cutF1 (s0 := s0) x ?_ (fun k => ?_); rotate_left; clear_value x; rotate_left; subst x; intro a u hu; try dsimp only)
    | (intro x; refine Kept.cutF2 (s0 := s0) x ?_ (fun k => ?_); rotate_left; clear_value x; rotate_left; subst x; intro a b u hu; try dsimp only)
    | (intro x; refine Kept.cut (s0 := s0) x ?_ (fun k => ?_); rotate_left; clear_value x; rotate_left; subst x)
    | (intro x; clear_value x)
    | (intro x)
    | with_reducible apply kept_admitTo
    | with_reducible apply kept_issueRead
    | with_reducible apply kept_serveHome
    | with_reducible apply kept_numbered
    | with_reducible apply kept_under
    | with_reducible apply kept_handOver
    | split
    | lift_lets -underBinder
    | refine Kept.app (by assumption) ?_
    | refine Kept.app1 (by assumption) ?_
    | refine Kept.app2 (by assumption) ?_

theorem kept_await {s0 : State} (ups : List Upset) {s : State}  (hK : Kept s0 s) : Kept s0 (await ups s) := by
  unfold await
  repeat' first
    | with_reducible assumption
    | with_reducible exact Kept.of_eq k rfl rfl rfl
    | with_reducible exact Kept.of_eq hK rfl rfl rfl

theorem kept_fenceLine {s0 : State} (kind l : Nat) {s : State}  (hK : Kept s0 s) : Kept s0 (fenceLine kind l s) := by
  unfold fenceLine
  repeat' first
    | with_reducible assumption
    | (intro x; refine Kept.cut (s0 := s0) x ?_ (fun k => ?_); rotate_left; clear_value x; rotate_left; subst x)
    | (intro x; clear_value x)
    | (intro x)
    | with_reducible apply kept_modHome
    | with_reducible apply kept_post
    | with_reducible apply kept_poisonLine
    | split
    | lift_lets -underBinder

theorem kept_postStateLost {s0 : State} (kind l : Nat) (r : Req) {s : State}  (hK : Kept s0 s) : Kept s0 (postStateLost kind l r s) := by
  unfold postStateLost
  repeat' first
    | with_reducible assumption
    | with_reducible apply kept_post

theorem kept_orphanTxns {s0 : State} (r : Req) {s : State}  (hK : Kept s0 s) : Kept s0 (orphanTxns r s) := by
  unfold orphanTxns
  repeat' first
    | with_reducible assumption
    | (intro x; refine Kept.cut (s0 := s0) x ?_ (fun k => ?_); rotate_left; clear_value x; rotate_left; subst x)
    | (intro x; clear_value x)
    | (intro x)
    | with_reducible apply kept_modHome
    | split
    | lift_lets -underBinder

theorem kept_forgetReq {s0 : State} (r : Req) {s : State}  (hK : Kept s0 s) : Kept s0 (forgetReq r s) := by
  unfold forgetReq
  repeat' first
    | with_reducible assumption
    | exact fun _ => rfl
    | (intro x; refine Kept.cut (s0 := s0) x ?_ (fun k => ?_); rotate_left; clear_value x; rotate_left; subst x)
    | (intro x; clear_value x)
    | (intro x)
    | with_reducible apply kept_modMem
    | with_reducible apply kept_orphanTxns
    | with_reducible apply kept_modInteg
    | lift_lets -underBinder

theorem kept_endLost {s0 : State} (kind l : Nat) (r : Req) {s : State}  (hK : Kept s0 s) : Kept s0 (endLost kind l r s) := by
  unfold endLost
  repeat' first
    | with_reducible assumption
    | (intro x; refine Kept.cut (s0 := s0) x ?_ (fun k => ?_); rotate_left; clear_value x; rotate_left; subst x)
    | (intro x; clear_value x)
    | (intro x)
    | with_reducible apply kept_forgetReq
    | with_reducible apply kept_postStateLost
    | with_reducible apply kept_cohError
    | with_reducible apply kept_finish
    | split
    | lift_lets -underBinder

theorem kept_loseTxn {s0 : State} (l : Nat) (t : Txn) {s : State}  (hK : Kept s0 s) : Kept s0 (loseTxn l t s) := by
  unfold loseTxn
  repeat' first
    | with_reducible assumption
    | (intro x; refine Kept.cut (s0 := s0) x ?_ (fun k => ?_); rotate_left; clear_value x; rotate_left; subst x)
    | (intro x; clear_value x)
    | (intro x)
    | with_reducible apply kept_endLost
    | with_reducible apply kept_modHome
    | with_reducible apply kept_eachS
    | with_reducible apply kept_toAgent
    | with_reducible apply kept_txnProceed
    | with_reducible apply kept_openTxn
    | with_reducible apply kept_pinEnt
    | split
    | lift_lets -underBinder

theorem kept_loseHold {s0 : State} (kind : Nat) (ls : List Nat) {s : State}  (hK : Kept s0 s) : Kept s0 (loseHold kind ls s) := by
  unfold loseHold
  repeat' first
    | with_reducible assumption
    | (intro x; refine Kept.cut (s0 := s0) x ?_ (fun k => ?_); rotate_left; clear_value x; rotate_left; subst x)
    | (intro x; clear_value x)
    | (intro x)
    | with_reducible apply kept_modInteg
    | with_reducible apply kept_eachS
    | with_reducible apply kept_freeLine
    | with_reducible apply kept_whenS
    | with_reducible apply kept_fenceLine
    | lift_lets -underBinder

theorem kept_loseAtomic {s0 : State} (l : Nat) (e : Replay) {s : State}  (hK : Kept s0 s) : Kept s0 (loseAtomic l e s) := by
  unfold loseAtomic
  repeat' first
    | with_reducible assumption
    | (intro x; refine Kept.cut (s0 := s0) x ?_ (fun k => ?_); rotate_left; clear_value x; rotate_left; subst x)
    | (intro x; clear_value x)
    | (intro x)
    | with_reducible apply kept_modOrder
    | with_reducible apply kept_refuse
    | with_reducible apply kept_forgetReq
    | with_reducible apply kept_postStateLost
    | with_reducible apply kept_eachS
    | split
    | lift_lets -underBinder

theorem kept_loseEntry {s0 : State} (k : LostEntry) (l : Nat) {s : State}  (hK : Kept s0 s) : Kept s0 (loseEntry k l s) := by
  unfold loseEntry
  repeat' first
    | with_reducible assumption
    | (intro x; refine Kept.cut (s0 := s0) x ?_ (fun k => ?_); rotate_left; clear_value x; rotate_left; subst x)
    | (intro x; clear_value x)
    | (intro x)
    | with_reducible apply kept_loseTxn
    | with_reducible apply kept_eachS
    | with_reducible apply kept_endLost
    | with_reducible apply kept_loseHold
    | with_reducible apply kept_loseAtomic
    | with_reducible apply kept_modHome
    | with_reducible apply kept_poisonLine
    | split
    | lift_lets -underBinder

end Sys2Proof.Machine
end

