-- ==== Sys2Proof/Laws/KeptAnswers.lean ====
section
/-! SUPPORT. What the operations of Machine/Answers.lean keep (Kept). -/

namespace Sys2Proof.Machine

set_option linter.all false
set_option Elab.async false

theorem kept_unmatched {s0 : State} (l : Nat) {s : State}  (hK : Kept s0 s) : Kept s0 (unmatched l s) := by
  unfold unmatched
  repeat' first
    | with_reducible assumption
    | (intro x; refine Kept.cut (s0 := s0) x ?_ (fun k => ?_); rotate_left; clear_value x; rotate_left; subst x)
    | (intro x; clear_value x)
    | (intro x)
    | with_reducible apply kept_modLink
    | split

theorem kept_respond {s0 : State} (l : Nat) (p : Packet) (fits : Outst → Bool) (f : Outst → State → State) {s : State} (hf : ∀ (y0 : Outst) {u : State}, Kept s0 u → Kept s0 (f y0 u)) (hK : Kept s0 s) : Kept s0 (respond l p fits f s) := by
  unfold respond
  repeat' first
    | with_reducible assumption
    | (intro x; refine Kept.cut (s0 := s0) x ?_ (fun k => ?_); rotate_left; clear_value x; rotate_left; subst x)
    | (intro x; clear_value x)
    | (intro x)
    | with_reducible apply kept_onLink
    | with_reducible apply kept_takeIngress
    | with_reducible apply kept_unmatched
    | with_reducible apply hf
    | split
    | lift_lets -underBinder

theorem kept_endWith {s0 : State} (o : Outst) (a : Answer) (noBuf : Bool) {s : State}  (hK : Kept s0 s) : Kept s0 (endWith o a noBuf s) := by
  unfold endWith
  repeat' first
    | with_reducible assumption
    | with_reducible apply kept_endOutst

theorem kept_sendAgain {s0 : State} (o : Outst) (p : Packet) {s : State}  (hK : Kept s0 s) : Kept s0 (sendAgain o p s) := by
  unfold sendAgain
  repeat' first
    | with_reducible assumption
    | (intro x; refine Kept.cut (s0 := s0) x ?_ (fun k => ?_); rotate_left; clear_value x; rotate_left; subst x)
    | (intro x; clear_value x)
    | (intro x)
    | with_reducible apply kept_whenS
    | with_reducible apply kept_modOutst
    | with_reducible apply kept_endWith
    | with_reducible apply kept_handOn
    | with_reducible apply kept_pumpOutst
    | split
    | lift_lets -underBinder

theorem kept_takeData {s0 : State} (l : Nat) (p : Packet) (o : Outst) {s : State}  (hK : Kept s0 s) : Kept s0 (takeData l p o s) := by
  unfold takeData
  repeat' first
    | with_reducible assumption
    | (intro x; refine Kept.cut (s0 := s0) x ?_ (fun k => ?_); rotate_left; clear_value x; rotate_left; subst x)
    | (intro x; clear_value x)
    | (intro x)
    | with_reducible apply kept_endWith
    | with_reducible apply kept_pathFailed
    | with_reducible apply kept_sendAgain
    | with_reducible apply kept_modOutst
    | with_reducible apply kept_whenS
    | with_reducible apply kept_pathRetried
    | split
    | lift_lets -underBinder

theorem kept_staleAtomic {s0 : State} (o : Outst) {s : State}  (hK : Kept s0 s) : Kept s0 (staleAtomic o s) := by
  unfold staleAtomic
  repeat' first
    | with_reducible assumption
    | (intro x; refine Kept.cut (s0 := s0) x ?_ (fun k => ?_); rotate_left; clear_value x; rotate_left; subst x)
    | (intro x; clear_value x)
    | (intro x)
    | with_reducible apply kept_endWith
    | with_reducible apply kept_modOutst
    | with_reducible apply kept_pumpOutst
    | split
    | lift_lets -underBinder

theorem kept_takeLocal {s0 : State} (l t : Nat) {s : State}  (hK : Kept s0 s) : Kept s0 (takeLocal l t s) := by
  unfold takeLocal
  repeat' first
    | with_reducible assumption
    | (intro x; refine Kept.cut (s0 := s0) x ?_ (fun k => ?_); rotate_left; clear_value x; rotate_left; subst x)
    | (intro x; clear_value x)
    | (intro x)
    | with_reducible apply kept_modLink
    | with_reducible apply kept_ingress
    | split

theorem kept_fromMember {s0 : State} (l : Nat) (p : Packet) (f : Nat → Packet → State → State) {s : State} (hf : ∀ (y0 : Nat) (y1 : Packet) {u : State}, Kept s0 u → Kept s0 (f y0 y1 u)) (hK : Kept s0 s) : Kept s0 (fromMember l p f s) := by
  unfold fromMember
  repeat' first
    | with_reducible assumption
    | (intro x; refine Kept.cut (s0 := s0) x ?_ (fun k => ?_); rotate_left; clear_value x; rotate_left; subst x)
    | (intro x; clear_value x)
    | (intro x)
    | with_reducible apply kept_onLink
    | with_reducible apply kept_takeIngress
    | with_reducible apply kept_protocolEvent
    | with_reducible apply hf
    | split
    | lift_lets -underBinder

theorem kept_takeProbe {s0 : State} (t l : Nat) (p : Packet) {s : State}  (hK : Kept s0 s) : Kept s0 (takeProbe t l p s) := by
  unfold takeProbe
  repeat' first
    | with_reducible assumption
    | (intro x; refine Kept.cut (s0 := s0) x ?_ (fun k => ?_); rotate_left; clear_value x; rotate_left; subst x)
    | (intro x; clear_value x)
    | (intro x)
    | with_reducible apply kept_fromMember
    | with_reducible apply kept_answerHome
    | with_reducible apply kept_modHome
    | with_reducible apply kept_eachS
    | with_reducible apply kept_toSite
    | split
    | lift_lets -underBinder

theorem kept_cohAnswer {s0 : State} (t l : Nat) (p : Packet) {s : State}  (hK : Kept s0 s) : Kept s0 (cohAnswer t l p s) := by
  unfold cohAnswer
  repeat' first
    | with_reducible assumption
    | (intro x; refine Kept.cut (s0 := s0) x ?_ (fun k => ?_); rotate_left; clear_value x; rotate_left; subst x)
    | (intro x; clear_value x)
    | (intro x)
    | with_reducible apply kept_onLink
    | with_reducible apply kept_takeIngress
    | with_reducible apply kept_protocolEvent
    | with_reducible apply kept_unmatched
    | with_reducible apply kept_sendGrant
    | with_reducible apply kept_modOutst
    | with_reducible apply kept_pathFailed
    | with_reducible apply kept_pathRetried
    | with_reducible apply kept_handPass
    | with_reducible refine kept_handPass_eq ?_ ‹_›
    | with_reducible apply kept_dropOutst
    | with_reducible apply kept_settleFences
    | with_reducible apply kept_toAsker
    | split
    | lift_lets -underBinder

theorem kept_passOn {s0 : State} (l : Option Nat) (p : Packet) {s : State}  (hK : Kept s0 s) : Kept s0 (passOn l p s) := by
  unfold passOn
  repeat' first
    | with_reducible assumption
    | (intro x; refine Kept.cut (s0 := s0) x ?_ (fun k => ?_); rotate_left; clear_value x; rotate_left; subst x)
    | (intro x; clear_value x)
    | (intro x)
    | with_reducible apply kept_sendOn
    | with_reducible apply kept_modHome
    | split

theorem kept_forwardData {s0 : State} (t k : Nat) (p : Packet) {s : State} (hK : Kept s0 s) : Kept s0 (forwardData t k p s) := by
  unfold forwardData
  refine kept_siteMessage _ _ _ (fun p {u} h => ?_) hK
  extract_lets y home here
  split
  · exact h
  have a := kept_handPass (s0 := s0) (handEntry u (.site k) p) h
  generalize handPass (handEntry u (.site k) p) u = x at a
  obtain ⟨b, v⟩ := x
  cases b with
  | true =>
    dsimp only
    split
    · exact kept_toSite _ _ a
    · exact kept_passOn _ _ a
  | false =>
    dsimp only
    split
    · exact kept_modTxn _ _ a
    · exact kept_toAgent _ _ a

theorem kept_takeAck {s0 : State} (l member : Nat) (agents : List Nat) (gone : Bool) {s : State}  (hK : Kept s0 s) : Kept s0 (takeAck l member agents gone s) := by
  unfold takeAck
  repeat' first
    | with_reducible assumption
    | (intro x; refine Kept.cut (s0 := s0) x ?_ (fun k => ?_); rotate_left; clear_value x; rotate_left; subst x)
    | (intro x; clear_value x)
    | (intro x)
    | with_reducible apply kept_modTxn
    | with_reducible apply kept_txnProceed
    | with_reducible apply kept_answerProbe
    | split

theorem kept_dirtyData {s0 : State} (l : Nat) (d : LineData) {s : State}  (hK : Kept s0 s) : Kept s0 (dirtyData l d s) := by
  unfold dirtyData
  repeat' first
    | with_reducible assumption
    | (intro x; refine Kept.cut (s0 := s0) x ?_ (fun k => ?_); rotate_left; clear_value x; rotate_left; subst x)
    | (intro x; clear_value x)
    | (intro x)
    | with_reducible apply kept_poisonLine
    | with_reducible apply kept_writeOwnerData
    | with_reducible apply kept_modTxn
    | split

theorem kept_dataFailed {s0 : State} (l member : Nat) (agents : List Nat) {s : State}  (hK : Kept s0 s) : Kept s0 (dataFailed l member agents s) := by
  unfold dataFailed
  repeat' first
    | with_reducible assumption
    | (intro x; refine Kept.cut (s0 := s0) x ?_ (fun k => ?_); rotate_left; clear_value x; rotate_left; subst x)
    | (intro x; clear_value x)
    | (intro x)
    | with_reducible apply kept_txnProceed
    | with_reducible apply kept_modTxn
    | with_reducible apply kept_answerProbe
    | split

theorem kept_takeAckData {s0 : State} (l member : Nat) (agents : List Nat) (p : Packet) {s : State}  (hK : Kept s0 s) : Kept s0 (takeAckData l member agents p s) := by
  unfold takeAckData
  repeat' first
    | with_reducible assumption
    | (intro x; refine Kept.cut (s0 := s0) x ?_ (fun k => ?_); rotate_left; clear_value x; rotate_left; subst x)
    | (intro x; clear_value x)
    | (intro x)
    | with_reducible apply kept_handPass
    | with_reducible refine kept_handPass_eq ?_ ‹_›
    | with_reducible apply kept_dataFailed
    | with_reducible apply kept_whenS
    | with_reducible apply kept_dirtyData
    | with_reducible apply kept_answerProbe
    | with_reducible apply kept_modTxn
    | with_reducible apply kept_txnProceed
    | split
    | lift_lets -underBinder

theorem kept_siteServed {s0 : State} (k : Nat) (v : Served) (p : Packet) {s : State}  (hK : Kept s0 s) : Kept s0 (siteServed k v p s) := by
  unfold siteServed
  repeat' first
    | with_reducible assumption
    | (intro x; refine Kept.cut (s0 := s0) x ?_ (fun k => ?_); rotate_left; clear_value x; rotate_left; subst x)
    | (intro x; clear_value x)
    | (intro x)
    | with_reducible apply kept_modHome
    | with_reducible apply kept_handPass
    | with_reducible refine kept_handPass_eq ?_ ‹_›
    | with_reducible apply kept_passOn
    | with_reducible apply kept_answerHome
    | split
    | lift_lets -underBinder

theorem kept_siteAnswerProbe {s0 : State} (k : Nat) (p : Packet) {s : State}  (hK : Kept s0 s) : Kept s0 (siteAnswerProbe k p s) := by
  unfold siteAnswerProbe
  repeat' first
    | with_reducible assumption
    | (intro x; refine Kept.cut (s0 := s0) x ?_ (fun k => ?_); rotate_left; clear_value x; rotate_left; subst x)
    | (intro x; clear_value x)
    | (intro x)
    | with_reducible apply kept_siteMessage
    | with_reducible apply kept_takeAckData
    | with_reducible apply kept_takeAck
    | with_reducible apply kept_siteServed
    | split
    | lift_lets -underBinder

theorem kept_mirrorIngress {s0 : State} (l : Nat) (p : Packet) (f : MirRec → Packet → State → State) {s : State} (hf : ∀ (y0 : MirRec) (y1 : Packet) {u : State}, Kept s0 u → Kept s0 (f y0 y1 u)) (hK : Kept s0 s) : Kept s0 (mirrorIngress l p f s) := by
  unfold mirrorIngress
  repeat' first
    | with_reducible assumption
    | (intro x; refine Kept.cut (s0 := s0) x ?_ (fun k => ?_); rotate_left; clear_value x; rotate_left; subst x)
    | (intro x; clear_value x)
    | (intro x)
    | with_reducible apply kept_onLink
    | with_reducible apply kept_takeIngress
    | with_reducible apply kept_mirrorAnswer
    | with_reducible apply kept_protocolEvent
    | with_reducible apply hf
    | split
    | lift_lets -underBinder

theorem kept_takeMirror {s0 : State} (t l : Nat) (p : Packet) {s : State}  (hK : Kept s0 s) : Kept s0 (takeMirror t l p s) := by
  unfold takeMirror
  repeat' first
    | with_reducible assumption
    | (intro x; refine Kept.cut (s0 := s0) x ?_ (fun k => ?_); rotate_left; clear_value x; rotate_left; subst x)
    | (intro x; clear_value x)
    | (intro x)
    | with_reducible apply kept_mirrorIngress
    | with_reducible apply kept_dropBounce
    | with_reducible apply kept_mirrorAnswer
    | with_reducible apply kept_handPass
    | with_reducible refine kept_handPass_eq ?_ ‹_›
    | with_reducible apply kept_pathRetried
    | with_reducible apply kept_mirrorServe
    | with_reducible apply kept_pathFailed
    | with_reducible apply kept_askResend
    | split
    | lift_lets -underBinder

theorem kept_resentPassed {s0 : State} (l part : Nat) (o : MirrorOp) {s : State}  (hK : Kept s0 s) : Kept s0 (resentPassed l part o s) := by
  unfold resentPassed
  repeat' first
    | with_reducible assumption
    | with_reducible apply kept_pathRetried
    | split

theorem kept_takeMirrorData {s0 : State} (l : Nat) (p : Packet) (o : MirrorOp) {s : State} (hK : Kept s0 s) : Kept s0 (takeMirrorData l p o s) := by
  unfold takeMirrorData
  extract_lets good n found part q upd t seq
  split
  · split
    · have k := kept_pathFailed (s0 := s0) l part part p.srcNode.toNat ‹_› hK
      split
      · exact kept_repairFailed _ k
      · exact kept_inspectEnd _ (kept_freeOp _ k)
      · exact kept_tellCmd _ _ _ (kept_dropOp _ k)
    · exact kept_resendMirror _ _ (kept_modInteg _ hK)
  · have k : Kept s0 (whenS good (resentPassed l part o) s) := kept_whenS _ _ (fun {_} h => kept_resentPassed _ _ _ h) hK
    split
    · split
      · exact kept_repairFrom _ _ k
      · exact kept_repairFailed _ k
    · split
      · exact kept_inspectEnd _ (kept_freeOp _ k)
      · exact kept_inspectEnd _ (kept_modInteg _ (kept_freeOp _ k))
    · exact kept_tellCmd _ _ _ (kept_dropOp _ k)

theorem kept_checkReach {s0 : State} {s : State}  (hK : Kept s0 s) : Kept s0 (checkReach s) := by
  unfold checkReach
  repeat' first
    | with_reducible assumption
    | (intro x; refine Kept.cut (s0 := s0) x ?_ (fun k => ?_); rotate_left; clear_value x; rotate_left; subst x)
    | (intro x; clear_value x)
    | (intro x)
    | with_reducible apply kept_eachS
    | with_reducible apply kept_modHome
    | with_reducible apply kept_declareLost
    | lift_lets -underBinder

theorem kept_takeBack {s0 : State} (l : Nat) (ps : List Packet) {s : State}  (hK : Kept s0 s) : Kept s0 (takeBack l ps s) := by
  unfold takeBack
  repeat' first
    | with_reducible assumption
    | (intro x; refine Kept.cut (s0 := s0) x ?_ (fun k => ?_); rotate_left; clear_value x; rotate_left; subst x)
    | (intro x; clear_value x)
    | (intro x)
    | with_reducible apply kept_modLink
    | with_reducible apply kept_modFab
    | split
    | lift_lets -underBinder

end Sys2Proof.Machine
end

