-- ==== Sys2Proof/Laws/KeptLink.lean ====
section
/-! SUPPORT. What the operations of Machine/Link.lean keep (Kept). -/

namespace Sys2Proof.Machine

set_option linter.all false
set_option Elab.async false

theorem kept_linkEvent {s0 : State} (l : Nat) {s : State}  (hK : Kept s0 s) : Kept s0 (linkEvent l s) := by
  unfold linkEvent
  repeat' first
    | with_reducible assumption
    | with_reducible apply kept_post

theorem kept_resendRead {s0 : State} (o : Outst) {s : State}  (hK : Kept s0 s) : Kept s0 (resendRead o s) := by
  unfold resendRead
  repeat' first
    | with_reducible assumption
    | (intro x; refine Kept.cut (s0 := s0) x ?_ (fun k => ?_); rotate_left; clear_value x; rotate_left; subst x)
    | (intro x; clear_value x)
    | (intro x)
    | with_reducible apply kept_sendAgain
    | with_reducible apply kept_modOutst
    | lift_lets -underBinder

theorem kept_linkDropped {s0 : State} (l : Nat) {s : State}  (hK : Kept s0 s) : Kept s0 (linkDropped l s) := by
  unfold linkDropped
  repeat' first
    | with_reducible assumption
    | (intro x; refine Kept.cut (s0 := s0) x ?_ (fun k => ?_); rotate_left; clear_value x; rotate_left; subst x)
    | (intro x; clear_value x)
    | (intro x)
    | with_reducible apply kept_takeBack
    | with_reducible apply kept_modLink
    | with_reducible apply kept_eachS
    | with_reducible apply kept_sendOn
    | with_reducible apply kept_modInteg
    | with_reducible apply kept_resendRead
    | with_reducible apply kept_pumpOutst
    | with_reducible apply kept_checkReach
    | split
    | lift_lets -underBinder

theorem kept_setLinkSt {s0 : State} (l : Nat) (st : LinkSt) {s : State}  (hK : Kept s0 s) : Kept s0 (setLinkSt l st s) := by
  unfold setLinkSt
  repeat' first
    | with_reducible assumption
    | (intro x; refine Kept.cut (s0 := s0) x ?_ (fun k => ?_); rotate_left; clear_value x; rotate_left; subst x)
    | (intro x; clear_value x)
    | (intro x)
    | with_reducible apply kept_modLink
    | with_reducible apply kept_whenS
    | with_reducible apply kept_linkEvent
    | lift_lets -underBinder

theorem kept_startTraining {s0 : State} (l : Nat) {s : State}  (hK : Kept s0 s) : Kept s0 (startTraining l s) := by
  unfold startTraining
  repeat' first
    | with_reducible assumption
    | (intro x; refine Kept.cut (s0 := s0) x ?_ (fun k => ?_); rotate_left; clear_value x; rotate_left; subst x)
    | (intro x; clear_value x)
    | (intro x)
    | with_reducible apply kept_setLinkSt
    | with_reducible apply kept_modLink
    | with_reducible apply kept_whenS
    | with_reducible apply kept_linkDropped
    | lift_lets -underBinder

theorem kept_goDown {s0 : State} (l : Nat) {s : State}  (hK : Kept s0 s) : Kept s0 (goDown l s) := by
  unfold goDown
  repeat' first
    | with_reducible assumption
    | (intro x; refine Kept.cut (s0 := s0) x ?_ (fun k => ?_); rotate_left; clear_value x; rotate_left; subst x)
    | (intro x; clear_value x)
    | (intro x)
    | with_reducible apply kept_modLink
    | with_reducible apply kept_setLinkSt
    | with_reducible apply kept_linkDropped
    | with_reducible apply kept_eachS
    | with_reducible apply kept_post
    | lift_lets -underBinder

theorem kept_fastFailed {s0 : State} (l pass : Nat) {s : State}  (hK : Kept s0 s) : Kept s0 (fastFailed l pass s) := by
  unfold fastFailed
  repeat' first
    | with_reducible assumption
    | (intro x; refine Kept.cut (s0 := s0) x ?_ (fun k => ?_); rotate_left; clear_value x; rotate_left; subst x)
    | (intro x; clear_value x)
    | (intro x)
    | with_reducible apply kept_modLink
    | with_reducible apply kept_goDown
    | with_reducible apply kept_checkReach
    | with_reducible apply kept_setLinkSt
    | split
    | lift_lets -underBinder

theorem kept_attemptFailed {s0 : State} (l : Nat) {s : State}  (hK : Kept s0 s) : Kept s0 (attemptFailed l s) := by
  unfold attemptFailed
  repeat' first
    | with_reducible assumption
    | (intro x; refine Kept.cut (s0 := s0) x ?_ (fun k => ?_); rotate_left; clear_value x; rotate_left; subst x)
    | (intro x; clear_value x)
    | (intro x)
    | with_reducible apply kept_fastFailed
    | with_reducible apply kept_goDown
    | with_reducible apply kept_modLink
    | split
    | lift_lets -underBinder

theorem kept_sendHellos {s0 : State} (l : Nat) {s : State}  (hK : Kept s0 s) : Kept s0 (sendHellos l s) := by
  unfold sendHellos
  repeat' first
    | with_reducible assumption
    | (intro x; refine Kept.cut (s0 := s0) x ?_ (fun k => ?_); rotate_left; clear_value x; rotate_left; subst x)
    | (intro x; clear_value x)
    | (intro x)
    | with_reducible apply kept_eachS
    | with_reducible apply kept_sendOn
    | split
    | lift_lets -underBinder

theorem kept_sendExchange {s0 : State} (l lanes : Nat) {s : State}  (hK : Kept s0 s) : Kept s0 (sendExchange l lanes s) := by
  unfold sendExchange
  repeat' first
    | with_reducible assumption
    | with_reducible apply kept_emit

theorem kept_exchangeDone {s0 : State} (l : Nat) (x : Exchange) {s : State}  (hK : Kept s0 s) : Kept s0 (exchangeDone l x s) := by
  unfold exchangeDone
  repeat' first
    | with_reducible assumption
    | (intro x; refine Kept.cut (s0 := s0) x ?_ (fun k => ?_); rotate_left; clear_value x; rotate_left; subst x)
    | (intro x; clear_value x)
    | (intro x)
    | with_reducible apply kept_attemptFailed
    | with_reducible apply kept_modLink
    | with_reducible apply kept_linkEvent
    | with_reducible apply kept_pumpOutst
    | with_reducible apply kept_sendHellos
    | with_reducible apply kept_setLinkSt
    | split
    | lift_lets -underBinder

theorem kept_keepLock {s0 : State} (l : Nat) (x : Exchange) {s : State}  (hK : Kept s0 s) : Kept s0 (keepLock l x s) := by
  unfold keepLock
  repeat' first
    | with_reducible assumption
    | (intro x; refine Kept.cut (s0 := s0) x ?_ (fun k => ?_); rotate_left; clear_value x; rotate_left; subst x)
    | (intro x; clear_value x)
    | (intro x)
    | with_reducible apply kept_modLink

theorem kept_lockDone {s0 : State} (l : Nat) (x : Exchange) {s : State}  (hK : Kept s0 s) : Kept s0 (lockDone l x s) := by
  unfold lockDone
  repeat' first
    | with_reducible assumption
    | (intro x; refine Kept.cut (s0 := s0) x ?_ (fun k => ?_); rotate_left; clear_value x; rotate_left; subst x)
    | (intro x; clear_value x)
    | (intro x)
    | with_reducible apply kept_attemptFailed
    | with_reducible apply kept_sendExchange
    | with_reducible apply kept_modLink
    | with_reducible apply kept_keepLock
    | split

theorem kept_fastDone {s0 : State} (l : Nat) (x : Exchange) {s : State}  (hK : Kept s0 s) : Kept s0 (fastDone l x s) := by
  unfold fastDone
  repeat' first
    | with_reducible assumption
    | (intro x; refine Kept.cut (s0 := s0) x ?_ (fun k => ?_); rotate_left; clear_value x; rotate_left; subst x)
    | (intro x; clear_value x)
    | (intro x)
    | with_reducible apply kept_fastFailed
    | with_reducible apply kept_linkEvent
    | with_reducible apply kept_modLink
    | with_reducible apply kept_setLinkSt
    | with_reducible apply kept_eachS
    | with_reducible apply kept_putFlit
    | with_reducible apply kept_post
    | with_reducible apply kept_pumpCredits
    | with_reducible apply kept_whenS
    | with_reducible apply kept_sendHellos
    | with_reducible apply kept_pumpOutst
    | split
    | lift_lets -underBinder

theorem kept_replayLink {s0 : State} (l : Nat) {s : State}  (hK : Kept s0 s) : Kept s0 (replayLink l s) := by
  unfold replayLink
  repeat' first
    | with_reducible assumption
    | (intro x; refine Kept.cut (s0 := s0) x ?_ (fun k => ?_); rotate_left; clear_value x; rotate_left; subst x)
    | (intro x; clear_value x)
    | (intro x)
    | with_reducible apply kept_eachS
    | with_reducible apply kept_putFlit
    | with_reducible apply kept_modLink
    | split
    | lift_lets -underBinder

theorem kept_takeAckSeq {s0 : State} (l ack : Nat) {s : State}  (hK : Kept s0 s) : Kept s0 (takeAckSeq l ack s) := by
  unfold takeAckSeq
  repeat' first
    | with_reducible assumption
    | (intro x; refine Kept.cut (s0 := s0) x ?_ (fun k => ?_); rotate_left; clear_value x; rotate_left; subst x)
    | (intro x; clear_value x)
    | (intro x)
    | with_reducible apply kept_modLink
    | with_reducible apply kept_eachS
    | with_reducible apply kept_putFlit
    | with_reducible apply kept_pumpCredits
    | split
    | lift_lets -underBinder

theorem kept_oweNak {s0 : State} (l : Nat) (corrupt : Bool) {s : State}  (hK : Kept s0 s) : Kept s0 (oweNak l corrupt s) := by
  unfold oweNak
  repeat' first
    | with_reducible assumption
    | (intro x; refine Kept.cut (s0 := s0) x ?_ (fun k => ?_); rotate_left; clear_value x; rotate_left; subst x)
    | (intro x; clear_value x)
    | (intro x)
    | with_reducible apply kept_modLink
    | with_reducible apply kept_sendFlit
    | split
    | lift_lets -underBinder

theorem kept_takeSlots {s0 : State} (l : Nat) (b : List Byte) {s : State}  (hK : Kept s0 s) : Kept s0 (takeSlots l b s) := by
  unfold takeSlots
  repeat' first
    | with_reducible assumption
    | (intro x; refine Kept.cut (s0 := s0) x ?_ (fun k => ?_); rotate_left; clear_value x; rotate_left; subst x)
    | (intro x; clear_value x)
    | (intro x)
    | with_reducible apply kept_modLink
    | with_reducible apply kept_ingress
    | with_reducible apply kept_eachS
    | with_reducible apply kept_protocolEvent
    | lift_lets -underBinder

theorem kept_takeFlit {s0 : State} (l : Nat) (lanes : List (List Byte)) {s : State}  (hK : Kept s0 s) : Kept s0 (takeFlit l lanes s) := by
  unfold takeFlit
  repeat' first
    | with_reducible assumption
    | (intro x; refine Kept.cut (s0 := s0) x ?_ (fun k => ?_); rotate_left; clear_value x; rotate_left; subst x)
    | (intro x; clear_value x)
    | (intro x)
    | with_reducible apply kept_modLink
    | with_reducible apply kept_oweNak
    | with_reducible apply kept_takeAckSeq
    | with_reducible apply kept_whenS
    | with_reducible apply kept_replayLink
    | with_reducible apply kept_takeSlots
    | split
    | lift_lets -underBinder

theorem kept_fastRetrain {s0 : State} (l : Nat) (x : Exchange) {s : State}  (hK : Kept s0 s) : Kept s0 (fastRetrain l x s) := by
  unfold fastRetrain
  repeat' first
    | with_reducible assumption
    | with_reducible apply kept_fastFailed
    | with_reducible apply kept_fastDone
    | with_reducible apply kept_sendExchange
    | with_reducible apply kept_keepLock
    | split

theorem kept_targetDead {s0 : State} (o : Outst) {s : State}  (hK : Kept s0 s) : Kept s0 (targetDead o s) := by
  unfold targetDead
  repeat' first
    | with_reducible assumption
    | (intro x; refine Kept.cut (s0 := s0) x ?_ (fun k => ?_); rotate_left; clear_value x; rotate_left; subst x)
    | (intro x; clear_value x)
    | (intro x)
    | with_reducible apply kept_modLink
    | with_reducible apply kept_modFab
    | with_reducible apply kept_post
    | with_reducible apply kept_endWith
    | split
    | lift_lets -underBinder

end Sys2Proof.Machine
end

