-- ==== Sys2Proof/Laws/KeptCarousel.lean ====
section
/-! SUPPORT. What the operations of Machine/Carousel.lean keep (Kept). -/

namespace Sys2Proof.Machine

set_option linter.all false
set_option Elab.async false

theorem kept_readGave {s0 : State} (r : Req) (l : Nat) (c : Status) (w : Word) (d : LineData) {s : State}  (hK : Kept s0 s) : Kept s0 (readGave r l c w d s) := by
  unfold readGave
  repeat' first
    | with_reducible assumption
    | (intro x; refine Kept.cut (s0 := s0) x ?_ (fun k => ?_); rotate_left; clear_value x; rotate_left; subst x)
    | (intro x; clear_value x)
    | (intro x)
    | with_reducible apply kept_under
    | with_reducible apply kept_perform
    | with_reducible apply kept_finish
    | split

theorem kept_freeRead {s0 : State} (x : StackRead) {s : State}  (hK : Kept s0 s) : Kept s0 (freeRead x s) := by
  unfold freeRead
  repeat' first
    | with_reducible assumption
    | exact fun _ => rfl
    | (intro x; refine Kept.cut (s0 := s0) x ?_ (fun k => ?_); rotate_left; clear_value x; rotate_left; subst x)
    | (intro x; clear_value x)
    | (intro x)
    | with_reducible apply kept_eachS
    | with_reducible apply kept_freeLine
    | with_reducible apply kept_modMem
    | split
    | lift_lets -underBinder

theorem kept_endRead {s0 : State} (x : StackRead) (c : Status) (w : Word) (d : LineData) {s : State}  (hK : Kept s0 s) : Kept s0 (endRead x c w d s) := by
  unfold endRead
  repeat' first
    | with_reducible assumption
    | with_reducible apply kept_readGave
    | with_reducible apply kept_freeRead
    | split

theorem kept_holdRetry {s0 : State} (l : Nat) {s : State}  (hK : Kept s0 s) : Kept s0 (holdRetry l s) := by
  unfold holdRetry
  repeat' first
    | with_reducible assumption
    | (intro x; refine Kept.cut (s0 := s0) x ?_ (fun k => ?_); rotate_left; clear_value x; rotate_left; subst x)
    | (intro x; clear_value x)
    | (intro x)
    | with_reducible apply kept_eachS
    | with_reducible apply kept_holdLine
    | split

theorem kept_underRead {s0 : State} (x : StackRead) (f : State → State) {s : State} (hf : ∀  {u : State}, Kept s0 u → Kept s0 (f  u)) (hK : Kept s0 s) : Kept s0 (underRead x f s) := by
  unfold underRead
  repeat' first
    | with_reducible assumption
    | (intro x; refine Kept.cut (s0 := s0) x ?_ (fun k => ?_); rotate_left; clear_value x; rotate_left; subst x)
    | (intro x; clear_value x)
    | (intro x)
    | with_reducible apply kept_under
    | with_reducible apply hf
    | split

theorem kept_readReturn {s0 : State} (x : StackRead) (raw : RawLine) {s : State}  (hK : Kept s0 s) : Kept s0 (readReturn x raw s) := by
  unfold readReturn
  repeat' first
    | with_reducible assumption
    | exact fun _ => rfl
    | (intro x; refine Kept.cutF (s0 := s0) x ?_ (fun k => ?_); rotate_left; clear_value x; rotate_left; subst x; intro u hu; try dsimp only)
    | (intro x; refine Kept.cutF1 (s0 := s0) x ?_ (fun k => ?_); rotate_left; clear_value x; rotate_left; subst x; intro a u hu; try dsimp only)
    | (intro x; refine Kept.cutF2 (s0 := s0) x ?_ (fun k => ?_); rotate_left; clear_value x; rotate_left; subst x; intro a b u hu; try dsimp only)
    | (intro x; refine Kept.cut (s0 := s0) x ?_ (fun k => ?_); rotate_left; clear_value x; rotate_left; subst x)
    | (intro x; clear_value x)
    | (intro x)
    | with_reducible apply kept_holdRetry
    | with_reducible apply kept_modMem
    | with_reducible apply kept_endRead
    | split
    | lift_lets -underBinder
    | refine Kept.app (by assumption) ?_
    | refine Kept.app1 (by assumption) ?_
    | refine Kept.app2 (by assumption) ?_

theorem kept_lastingRead {s0 : State} (x : StackRead) {s : State}  (hK : Kept s0 s) : Kept s0 (lastingRead x s) := by
  unfold lastingRead
  repeat' first
    | with_reducible assumption
    | (intro x; refine Kept.cut (s0 := s0) x ?_ (fun k => ?_); rotate_left; clear_value x; rotate_left; subst x)
    | (intro x; clear_value x)
    | (intro x)
    | with_reducible apply kept_resume
    | with_reducible apply kept_under
    | with_reducible apply kept_perform
    | with_reducible apply kept_finish
    | split

theorem kept_settleBlock {s0 : State} (x : StackRead) (v : Option (List Word × List LineData)) {s : State}  (hK : Kept s0 s) : Kept s0 (settleBlock x v s) := by
  unfold settleBlock
  repeat' first
    | with_reducible assumption
    | (intro x; refine Kept.cut (s0 := s0) x ?_ (fun k => ?_); rotate_left; clear_value x; rotate_left; subst x)
    | (intro x; clear_value x)
    | (intro x)
    | with_reducible apply kept_freeRead
    | with_reducible apply kept_plainBlock
    | with_reducible apply kept_eachS
    | with_reducible apply kept_lineTransient
    | with_reducible apply kept_settleLasting
    | with_reducible apply kept_readGave
    | with_reducible apply kept_lastingRead
    | split
    | lift_lets -underBinder

theorem kept_retryReturn {s0 : State} (x : StackRead) (raw : RawLine) {s : State}  (hK : Kept s0 s) : Kept s0 (retryReturn x raw s) := by
  unfold retryReturn
  repeat' first
    | with_reducible assumption
    | (intro x; refine Kept.cut (s0 := s0) x ?_ (fun k => ?_); rotate_left; clear_value x; rotate_left; subst x)
    | (intro x; clear_value x)
    | (intro x)
    | with_reducible apply kept_settleBlock
    | with_reducible apply kept_endRead
    | with_reducible apply kept_lineTransient
    | with_reducible apply kept_lastingRead
    | with_reducible apply kept_settleLasting
    | with_reducible apply kept_freeRead
    | split
    | lift_lets -underBinder

end Sys2Proof.Machine
end

