-- ==== Sys2Proof/Laws/KeptXlat.lean ====
section
/-! SUPPORT. What the operations of Machine/Xlat.lean keep (Kept). -/

namespace Sys2Proof.Machine

set_option linter.all false
set_option Elab.async false

theorem kept_modTlb {s0 : State} (b : Nat) (f : List TlbEnt → List TlbEnt) {s : State}  (hK : Kept s0 s) : Kept s0 (modTlb b f s) := by
  unfold modTlb
  repeat' first
    | with_reducible assumption
    | (intro x; refine Kept.cut (s0 := s0) x ?_ (fun k => ?_); rotate_left; clear_value x; rotate_left; subst x)
    | (intro x; clear_value x)
    | (intro x)
    | with_reducible apply kept_modXlat

theorem kept_install {s0 t : State} {b epoch part virt global size : Nat} {rd wr : Bool} {s : State} (hK : Kept s0 s)
    (e : install b epoch part virt global size rd wr s = some t) : Kept s0 t := by
  unfold install at e
  split at e
  · cases e
  · cases e
    exact kept_modXlat _ (kept_modTlb _ _ hK)

theorem kept_sendMiss {s0 : State} (c : Cmd) (va access : Nat) (site : Nat) {s : State}  (hK : Kept s0 s) : Kept s0 (sendMiss c va access site s) := by
  unfold sendMiss
  repeat' first
    | with_reducible assumption
    | (intro x; refine Kept.cut (s0 := s0) x ?_ (fun k => ?_); rotate_left; clear_value x; rotate_left; subst x)
    | (intro x; clear_value x)
    | (intro x)
    | with_reducible apply kept_modXlat
    | with_reducible apply kept_toSite
    | split
    | lift_lets -underBinder

theorem kept_boothCheck {s0 : State} (c : Cmd) (addr order : Nat) (st : Status) {s : State}  (hK : Kept s0 s) : Kept s0 (boothCheck c addr order st s) := by
  unfold boothCheck
  repeat' first
    | with_reducible assumption
    | with_reducible apply kept_checkFailed

theorem kept_useEntry {s0 : State} (c : Cmd) (e : TlbEnt) (va : Nat) (rd wr at_ : Bool) {s : State}  (hK : Kept s0 s) : Kept s0 (useEntry c e va rd wr at_ s).2 := by
  unfold useEntry
  repeat' first
    | with_reducible assumption
    | (intro x; refine Kept.cut (s0 := s0) x ?_ (fun k => ?_); rotate_left; clear_value x; rotate_left; subst x)
    | (intro x; clear_value x)
    | (intro x)
    | with_reducible apply kept_boothCheck
    | split
    | lift_lets -underBinder

theorem kept_translate {s0 : State} (c : Cmd) (va : Nat) (rd wr at_ : Bool) {s : State}  (hK : Kept s0 s) : Kept s0 (translate c va rd wr at_ s).2 := by
  unfold translate
  repeat' first
    | with_reducible assumption
    | (intro x; refine Kept.cut (s0 := s0) x ?_ (fun k => ?_); rotate_left; clear_value x; rotate_left; subst x)
    | (intro x; clear_value x)
    | (intro x)
    | with_reducible apply kept_modXlat
    | with_reducible apply kept_modTlb
    | with_reducible apply kept_useEntry
    | with_reducible refine kept_install ?_ ‹_›
    | with_reducible apply kept_boothCheck
    | with_reducible apply kept_sendMiss
    | split
    | lift_lets -underBinder

theorem kept_translate_eq {s0 t : State} {cc} {c : Cmd} {va : Nat} {rd wr at_ : Bool} {s : State}  (hK : Kept s0 s) (eqn : translate c va rd wr at_ s = (cc, t)) : Kept s0 t := by
  have k := kept_translate (s0 := s0) c va rd wr at_  hK
  rw [eqn] at k
  exact k

theorem kept_dropMiss {s0 : State} (m : Miss) {s : State}  (hK : Kept s0 s) : Kept s0 (dropMiss m s) := by
  unfold dropMiss
  repeat' first
    | with_reducible assumption
    | (intro x; refine Kept.cut (s0 := s0) x ?_ (fun k => ?_); rotate_left; clear_value x; rotate_left; subst x)
    | (intro x; clear_value x)
    | (intro x)
    | with_reducible apply kept_modXlat

theorem kept_failMiss {s0 : State} (m : Miss) (c : Status) {s : State}  (hK : Kept s0 s) : Kept s0 (failMiss m c s) := by
  unfold failMiss
  repeat' first
    | with_reducible assumption
    | (intro x; refine Kept.cutF (s0 := s0) x ?_ (fun k => ?_); rotate_left; clear_value x; rotate_left; subst x; intro u hu; try dsimp only)
    | (intro x; refine Kept.cutF1 (s0 := s0) x ?_ (fun k => ?_); rotate_left; clear_value x; rotate_left; subst x; intro a u hu; try dsimp only)
    | (intro x; refine Kept.cutF2 (s0 := s0) x ?_ (fun k => ?_); rotate_left; clear_value x; rotate_left; subst x; intro a b u hu; try dsimp only)
    | (intro x; refine Kept.cut (s0 := s0) x ?_ (fun k => ?_); rotate_left; clear_value x; rotate_left; subst x)
    | (intro x; clear_value x)
    | (intro x)
    | with_reducible apply kept_eachS
    | with_reducible apply kept_modCmd
    | with_reducible apply kept_faultCmds
    | with_reducible apply kept_dropMiss
    | lift_lets -underBinder
    | refine Kept.app (by assumption) ?_
    | refine Kept.app1 (by assumption) ?_
    | refine Kept.app2 (by assumption) ?_

theorem kept_reissueMiss {s0 : State} (m : Miss) (site : Nat) {s : State}  (hK : Kept s0 s) : Kept s0 (reissueMiss m site s) := by
  unfold reissueMiss
  repeat' first
    | with_reducible assumption
    | (intro x; refine Kept.cut (s0 := s0) x ?_ (fun k => ?_); rotate_left; clear_value x; rotate_left; subst x)
    | (intro x; clear_value x)
    | (intro x)
    | with_reducible apply kept_toSite
    | with_reducible apply kept_modXlat
    | split
    | lift_lets -underBinder

theorem kept_replyBad {s0 : State} (k : Nat) (b : List Byte) (status : Nat) {s : State}  (hK : Kept s0 s) : Kept s0 (replyBad k b status s) := by
  unfold replyBad
  repeat' first
    | with_reducible assumption
    | with_reducible apply kept_post

theorem kept_resolveMiss {s0 : State} (k : Nat) (m : Miss) (b : List Byte) {s : State}  (hK : Kept s0 s) : Kept s0 (resolveMiss k m b s) := by
  unfold resolveMiss
  repeat' first
    | with_reducible assumption
    | (intro x; refine Kept.cut (s0 := s0) x ?_ (fun k => ?_); rotate_left; clear_value x; rotate_left; subst x)
    | (intro x; clear_value x)
    | (intro x)
    | with_reducible apply kept_reissueMiss
    | with_reducible apply kept_failMiss
    | with_reducible apply kept_replyBad
    | with_reducible apply kept_dropMiss
    | with_reducible refine kept_install ?_ ‹_›
    | with_reducible apply kept_boothCheck
    | split
    | lift_lets -underBinder

theorem kept_invalidate {s0 : State} (k part : Nat) (b : List Byte) {s : State}  (hK : Kept s0 s) : Kept s0 (invalidate k part b s) := by
  unfold invalidate
  repeat' first
    | with_reducible assumption
    | (intro x; refine Kept.cut (s0 := s0) x ?_ (fun k => ?_); rotate_left; clear_value x; rotate_left; subst x)
    | (intro x; clear_value x)
    | (intro x)
    | with_reducible apply kept_eachS
    | with_reducible apply kept_modTlb
    | with_reducible apply kept_modXlat
    | split
    | lift_lets -underBinder

end Sys2Proof.Machine
end

