-- ==== Sys2Proof/Laws/KeptWriters.lean ====
section
/-! SUPPORT. What the operations of Machine/Writers.lean keep (Kept). -/

namespace Sys2Proof.Machine

set_option linter.all false
set_option Elab.async false

theorem kept_denyWrite {s0 : State} (w : Writer) (addr v : Nat) (c : Status) {s : State}  (hK : Kept s0 s) : Kept s0 (denyWrite w addr v c s).2 := by
  unfold denyWrite
  repeat' first
    | with_reducible assumption
    | with_reducible apply kept_accessViolation

theorem kept_denyWrite_eq {s0 t : State} {cc} {w : Writer} {addr v : Nat} {c : Status} {s : State}  (hK : Kept s0 s) (eqn : denyWrite w addr v c s = (cc, t)) : Kept s0 t := by
  have k := kept_denyWrite (s0 := s0) w addr v c  hK
  rw [eqn] at k
  exact k

theorem kept_wrote {s0 : State} {s : State}  (hK : Kept s0 s) : Kept s0 (wrote s).2 := by
  unfold wrote
  repeat' first
    | with_reducible assumption

theorem kept_wrote_eq {s0 t : State} {cc} {s : State}  (hK : Kept s0 s) (eqn : wrote s = (cc, t)) : Kept s0 t := by
  have k := kept_wrote (s0 := s0)   hK
  rw [eqn] at k
  exact k

end Sys2Proof.Machine
end

