-- ==== Sys2Proof/Laws/KeptSites.lean ====
section
/-! SUPPORT. What the operations of Machine/Sites.lean keep (Kept). -/

namespace Sys2Proof.Machine

set_option linter.all false
set_option Elab.async false

theorem kept_forgetResends {s0 : State} (k : Nat) {s : State}  (hK : Kept s0 s) : Kept s0 (forgetResends k s) := by
  unfold forgetResends
  repeat' first
    | with_reducible assumption
    | (intro x; refine Kept.cut (s0 := s0) x ?_ (fun k => ?_); rotate_left; clear_value x; rotate_left; subst x)
    | (intro x; clear_value x)
    | (intro x)
    | with_reducible apply kept_modHome
    | split
    | lift_lets -underBinder

theorem kept_siteDown {s0 : State} (k : Nat) {s : State}  (hK : Kept s0 s) : Kept s0 (siteDown k s) := by
  unfold siteDown
  repeat' first
    | with_reducible assumption
    | (intro x; refine Kept.cut (s0 := s0) x ?_ (fun k => ?_); rotate_left; clear_value x; rotate_left; subst x)
    | (intro x; clear_value x)
    | (intro x)
    | with_reducible apply kept_modSite
    | with_reducible apply kept_forgetResends
    | with_reducible apply kept_post
    | with_reducible apply kept_emptySiteBuf
    | with_reducible apply kept_modOrder
    | with_reducible apply kept_modUcie
    | with_reducible apply kept_eachS
    | with_reducible apply kept_failMiss
    | with_reducible apply kept_whenS
    | with_reducible apply kept_declareLost
    | lift_lets -underBinder

theorem kept_siteFails {s0 : State} (k : Nat) {s : State}  (hK : Kept s0 s) : Kept s0 (siteFails k s) := by
  unfold siteFails
  repeat' first
    | with_reducible assumption
    | with_reducible apply kept_siteDown
    | split

theorem kept_siteTrain {s0 : State} (k : Nat) {s : State}  (hK : Kept s0 s) : Kept s0 (siteTrain k s) := by
  unfold siteTrain
  repeat' first
    | with_reducible assumption
    | (intro x; refine Kept.cut (s0 := s0) x ?_ (fun k => ?_); rotate_left; clear_value x; rotate_left; subst x)
    | (intro x; clear_value x)
    | (intro x)
    | with_reducible apply kept_modSite
    | with_reducible apply kept_whenS
    | with_reducible apply kept_siteDown

theorem kept_giveNotice {s0 : State} (k : Nat) {s : State}  (hK : Kept s0 s) : Kept s0 (giveNotice k s) := by
  unfold giveNotice
  repeat' first
    | with_reducible assumption
    | (intro x; refine Kept.cut (s0 := s0) x ?_ (fun k => ?_); rotate_left; clear_value x; rotate_left; subst x)
    | (intro x; clear_value x)
    | (intro x)
    | with_reducible apply kept_modSite
    | with_reducible apply kept_emit
    | split

theorem kept_powerOver {s0 : State} (k average : Nat) {s : State}  (hK : Kept s0 s) : Kept s0 (powerOver k average s) := by
  unfold powerOver
  repeat' first
    | with_reducible assumption
    | (intro x; refine Kept.cut (s0 := s0) x ?_ (fun k => ?_); rotate_left; clear_value x; rotate_left; subst x)
    | (intro x; clear_value x)
    | (intro x)
    | with_reducible apply kept_post
    | with_reducible apply kept_emit
    | with_reducible apply kept_modSite
    | with_reducible apply kept_whenS
    | with_reducible apply kept_giveNotice
    | lift_lets -underBinder

theorem kept_ucieCtrl {s0 : State} (w : Writer) (k v : Nat) {s : State}  (hK : Kept s0 s) : Kept s0 (ucieCtrl w k v s).2 := by
  unfold ucieCtrl
  repeat' first
    | with_reducible assumption
    | (intro x; refine Kept.cut (s0 := s0) x ?_ (fun k => ?_); rotate_left; clear_value x; rotate_left; subst x)
    | (intro x; clear_value x)
    | (intro x)
    | with_reducible apply kept_denyWrite
    | with_reducible apply kept_whenS
    | with_reducible apply kept_giveNotice
    | with_reducible apply kept_wrote
    | with_reducible apply kept_siteTrain
    | split
    | lift_lets -underBinder

theorem kept_ucieCountClear {s0 : State} (w : Writer) (k v : Nat) {s : State}  (hK : Kept s0 s) : Kept s0 (ucieCountClear w k v s).2 := by
  unfold ucieCountClear
  repeat' first
    | with_reducible assumption
    | (intro x; refine Kept.cut (s0 := s0) x ?_ (fun k => ?_); rotate_left; clear_value x; rotate_left; subst x)
    | (intro x; clear_value x)
    | (intro x)
    | with_reducible apply kept_denyWrite
    | with_reducible apply kept_wrote
    | with_reducible apply kept_whenS
    | with_reducible apply kept_modSite
    | split

theorem kept_siteWaitTimeout {s0 : State} (w : CtrWait) {s : State}  (hK : Kept s0 s) : Kept s0 (siteWaitTimeout w s) := by
  unfold siteWaitTimeout
  repeat' first
    | with_reducible assumption
    | (intro x; refine Kept.cut (s0 := s0) x ?_ (fun k => ?_); rotate_left; clear_value x; rotate_left; subst x)
    | (intro x; clear_value x)
    | (intro x)
    | with_reducible apply kept_toSite
    | with_reducible apply kept_modOrder

end Sys2Proof.Machine
end

