-- ==== Sys2Proof/Laws/KeptBooth.lean ====
section
/-! SUPPORT. What the operations of Machine/Booth.lean keep (Kept). -/

namespace Sys2Proof.Machine

set_option linter.all false
set_option Elab.async false

theorem kept_keepSeen {s0 : State} (q n id : Nat) (d : LineData) {s : State}  (hK : Kept s0 s) : Kept s0 (keepSeen q n id d s) := by
  unfold keepSeen
  repeat' first
    | with_reducible assumption
    | (intro x; refine Kept.cut (s0 := s0) x ?_ (fun k => ?_); rotate_left; clear_value x; rotate_left; subst x)
    | (intro x; clear_value x)
    | (intro x)
    | with_reducible apply kept_modCmd

theorem kept_boothForget {s0 : State} (b a : Nat) {s : State}  (hK : Kept s0 s) : Kept s0 (boothForget b a s) := by
  unfold boothForget
  repeat' first
    | with_reducible assumption
    | (intro x; refine Kept.cut (s0 := s0) x ?_ (fun k => ?_); rotate_left; clear_value x; rotate_left; subst x)
    | (intro x; clear_value x)
    | (intro x)
    | with_reducible apply kept_modCmds
    | with_reducible apply kept_modOrder
    | split
    | lift_lets -underBinder

theorem kept_boothTouch {s0 : State} (b a : Nat) (d : LineData) {s : State}  (hK : Kept s0 s) : Kept s0 (boothTouch b a d s) := by
  unfold boothTouch
  repeat' first
    | with_reducible assumption
    | (intro x; refine Kept.cut (s0 := s0) x ?_ (fun k => ?_); rotate_left; clear_value x; rotate_left; subst x)
    | (intro x; clear_value x)
    | (intro x)
    | with_reducible apply kept_modOrder
    | lift_lets -underBinder

theorem kept_issueAccess {s0 : State} (c : Cmd) (id va g win : Nat) (p : Packet) (buffered : Bool) (share dst : Option Nat) {s : State}  (hK : Kept s0 s) : Kept s0 (issueAccess c id va g win p buffered share dst s) := by
  unfold issueAccess
  repeat' first
    | with_reducible assumption
    | (intro x; refine Kept.cutF (s0 := s0) x ?_ (fun k => ?_); rotate_left; clear_value x; rotate_left; subst x; intro u hu; try dsimp only)
    | (intro x; refine Kept.cutF1 (s0 := s0) x ?_ (fun k => ?_); rotate_left; clear_value x; rotate_left; subst x; intro a u hu; try dsimp only)
    | (intro x; refine Kept.cutF2 (s0 := s0) x ?_ (fun k => ?_); rotate_left; clear_value x; rotate_left; subst x; intro a b u hu; try dsimp only)
    | (intro x; refine Kept.cut (s0 := s0) x ?_ (fun k => ?_); rotate_left; clear_value x; rotate_left; subst x)
    | (intro x; clear_value x)
    | (intro x)
    | with_reducible apply kept_modCmd
    | with_reducible apply kept_boothAnswer
    | with_reducible apply kept_boothTouch
    | with_reducible apply kept_whenS
    | with_reducible apply kept_boothForget
    | with_reducible apply kept_handOver
    | with_reducible apply kept_serve
    | with_reducible apply kept_refuse
    | with_reducible apply kept_checkFailed
    | with_reducible apply kept_sendRemote
    | split
    | lift_lets -underBinder
    | refine Kept.app (by assumption) ?_
    | refine Kept.app1 (by assumption) ?_
    | refine Kept.app2 (by assumption) ?_

theorem kept_payPoison {s0 : State} (q n : Nat) {s : State}  (hK : Kept s0 s) : Kept s0 (payPoison q n s) := by
  unfold payPoison
  repeat' first
    | with_reducible assumption
    | (intro x; refine Kept.cutF (s0 := s0) x ?_ (fun k => ?_); rotate_left; clear_value x; rotate_left; subst x; intro u hu; try dsimp only)
    | (intro x; refine Kept.cutF1 (s0 := s0) x ?_ (fun k => ?_); rotate_left; clear_value x; rotate_left; subst x; intro a u hu; try dsimp only)
    | (intro x; refine Kept.cutF2 (s0 := s0) x ?_ (fun k => ?_); rotate_left; clear_value x; rotate_left; subst x; intro a b u hu; try dsimp only)
    | (intro x; refine Kept.cut (s0 := s0) x ?_ (fun k => ?_); rotate_left; clear_value x; rotate_left; subst x)
    | (intro x; clear_value x)
    | (intro x)
    | with_reducible apply kept_eachS
    | with_reducible apply kept_modCmd
    | with_reducible apply kept_translate
    | with_reducible refine kept_translate_eq ?_ ‹_›
    | with_reducible apply kept_whenS
    | with_reducible apply kept_poisonLine
    | split
    | lift_lets -underBinder
    | refine Kept.app (by assumption) ?_
    | refine Kept.app1 (by assumption) ?_
    | refine Kept.app2 (by assumption) ?_

theorem kept_enterWait {s0 : State} (w : CtrWait) {s : State}  (hK : Kept s0 s) : Kept s0 (enterWait w s) := by
  unfold enterWait
  repeat' first
    | with_reducible assumption
    | (intro x; refine Kept.cut (s0 := s0) x ?_ (fun k => ?_); rotate_left; clear_value x; rotate_left; subst x)
    | (intro x; clear_value x)
    | (intro x)
    | with_reducible apply kept_settleCtr
    | with_reducible apply kept_modOrder

end Sys2Proof.Machine
end

