-- ==== Sys2Proof/Laws/KeptSearch.lean ====
section
/-! SUPPORT. What the operations of Machine/Search.lean keep (Kept). -/

namespace Sys2Proof.Machine

set_option linter.all false
set_option Elab.async false

theorem kept_modBatch {s0 : State} (c : Cmd) (f : Batch → Batch) {s : State}  (hK : Kept s0 s) : Kept s0 (modBatch c f s) := by
  unfold modBatch
  repeat' first
    | with_reducible assumption
    | (intro x; refine Kept.cut (s0 := s0) x ?_ (fun k => ?_); rotate_left; clear_value x; rotate_left; subst x)
    | (intro x; clear_value x)
    | (intro x)
    | with_reducible apply kept_modBooth
    | split

theorem kept_batchReads {s0 : State} (c : Cmd) (ls : List Nat) {s : State}  (hK : Kept s0 s) : Kept s0 (batchReads c ls s) := by
  unfold batchReads
  repeat' first
    | with_reducible assumption
    | (intro x; refine Kept.cut (s0 := s0) x ?_ (fun k => ?_); rotate_left; clear_value x; rotate_left; subst x)
    | (intro x; clear_value x)
    | (intro x)
    | with_reducible apply kept_modBatch
    | with_reducible apply kept_modBooth
    | split

end Sys2Proof.Machine
end

