-- ==== Sys2Proof/Laws/KeptMaintain.lean ====
section
/-! SUPPORT. What the operations of Machine/Maintain.lean keep (Kept). -/

namespace Sys2Proof.Machine

set_option linter.all false
set_option Elab.async false

theorem kept_setAttrs {s0 : State} (page n : Nat) (f : PageAttr → PageAttr) {s : State}  (hK : Kept s0 s) : Kept s0 (setAttrs page n f s) := by
  unfold setAttrs
  repeat' first
    | with_reducible assumption
    | exact fun _ => rfl
    | (intro x; refine Kept.cut (s0 := s0) x ?_ (fun k => ?_); rotate_left; clear_value x; rotate_left; subst x)
    | (intro x; clear_value x)
    | (intro x)
    | with_reducible apply kept_modMem

theorem kept_moveLine {s0 : State} (data : LineData) (l : Nat) {s : State}  (hK : Kept s0 s) : Kept s0 (moveLine data l s) := by
  unfold moveLine
  repeat' first
    | with_reducible assumption
    | (intro x; refine Kept.cut (s0 := s0) x ?_ (fun k => ?_); rotate_left; clear_value x; rotate_left; subst x)
    | (intro x; clear_value x)
    | (intro x)
    | with_reducible apply kept_putLine
    | lift_lets -underBinder

theorem kept_setPtr {s0 : State} (page l : Nat) {s : State}  (hK : Kept s0 s) : Kept s0 (setPtr page l s) := by
  unfold setPtr
  repeat' first
    | with_reducible assumption
    | (intro x; refine Kept.cut (s0 := s0) x ?_ (fun k => ?_); rotate_left; clear_value x; rotate_left; subst x)
    | (intro x; clear_value x)
    | (intro x)
    | with_reducible apply kept_modMoves
    | split

theorem kept_sendHome {s0 : State} (l : Nat) (sweep : Bool) {s : State}  (hK : Kept s0 s) : Kept s0 (sendHome l sweep s) := by
  unfold sendHome
  repeat' first
    | with_reducible assumption
    | (intro x; refine Kept.cutF (s0 := s0) x ?_ (fun k => ?_); rotate_left; clear_value x; rotate_left; subst x; intro u hu; try dsimp only)
    | (intro x; refine Kept.cutF1 (s0 := s0) x ?_ (fun k => ?_); rotate_left; clear_value x; rotate_left; subst x; intro a u hu; try dsimp only)
    | (intro x; refine Kept.cutF2 (s0 := s0) x ?_ (fun k => ?_); rotate_left; clear_value x; rotate_left; subst x; intro a b u hu; try dsimp only)
    | (intro x; refine Kept.cut (s0 := s0) x ?_ (fun k => ?_); rotate_left; clear_value x; rotate_left; subst x)
    | (intro x; clear_value x)
    | (intro x)
    | with_reducible apply kept_holdLine
    | with_reducible apply kept_sendMirror
    | with_reducible apply kept_whenS
    | lift_lets -underBinder
    | refine Kept.app (by assumption) ?_
    | refine Kept.app1 (by assumption) ?_
    | refine Kept.app2 (by assumption) ?_

theorem kept_moveBlock {s0 : State} (page l : Nat) {s : State}  (hK : Kept s0 s) : Kept s0 (moveBlock page l s) := by
  unfold moveBlock
  repeat' first
    | with_reducible assumption
    | (intro x; refine Kept.cut (s0 := s0) x ?_ (fun k => ?_); rotate_left; clear_value x; rotate_left; subst x)
    | (intro x; clear_value x)
    | (intro x)
    | with_reducible apply kept_setPtr
    | with_reducible apply kept_eachS
    | with_reducible apply kept_moveLine
    | with_reducible apply kept_whenS
    | with_reducible apply kept_rewriteBlock
    | with_reducible apply kept_modHome
    | with_reducible apply kept_sendHome
    | split
    | lift_lets -underBinder

theorem kept_passBlocks {s0 : State} (page at_ l : Nat) {s : State}  (hK : Kept s0 s) : Kept s0 (passBlocks page at_ l s).2 := by
  unfold passBlocks
  repeat' first
    | with_reducible assumption
    | (intro x; refine Kept.cut (s0 := s0) x ?_ (fun k => ?_); rotate_left; clear_value x; rotate_left; subst x)
    | (intro x; clear_value x)
    | (intro x)
    | with_reducible apply kept_setPtr
    | with_reducible apply kept_modStack
    | split
    | lift_lets -underBinder

theorem kept_endMove {s0 : State} (m : MoveRec) {s : State}  (hK : Kept s0 s) : Kept s0 (endMove m s) := by
  unfold endMove
  repeat' first
    | with_reducible assumption
    | exact fun _ => rfl
    | (intro x; refine Kept.cut (s0 := s0) x ?_ (fun k => ?_); rotate_left; clear_value x; rotate_left; subst x)
    | (intro x; clear_value x)
    | (intro x)
    | with_reducible apply kept_modForms
    | with_reducible apply kept_setAttrs
    | with_reducible apply kept_under
    | with_reducible apply kept_modMirror
    | with_reducible apply kept_sendMirror
    | split
    | lift_lets -underBinder

theorem kept_reportLine {s0 : State} (l outcome : Nat) (c : Status) (found : BitVec 32) {s : State}  (hK : Kept s0 s) : Kept s0 (reportLine l outcome c found s) := by
  unfold reportLine
  repeat' first
    | with_reducible assumption
    | with_reducible apply kept_postLine
    | with_reducible apply kept_logEntry

theorem kept_poisonBoth {s0 : State} (l reason outcome : Nat) (c : Status) (found : BitVec 32) {s : State}  (hK : Kept s0 s) : Kept s0 (poisonBoth l reason outcome c found s) := by
  unfold poisonBoth
  repeat' first
    | with_reducible assumption
    | (intro x; refine Kept.cut (s0 := s0) x ?_ (fun k => ?_); rotate_left; clear_value x; rotate_left; subst x)
    | (intro x; clear_value x)
    | (intro x)
    | with_reducible apply kept_modInteg
    | with_reducible apply kept_setPoison
    | with_reducible apply kept_holdLine
    | with_reducible apply kept_sendMirror
    | with_reducible apply kept_reportLine
    | lift_lets -underBinder

theorem kept_spreadPoison {s0 : State} (l reason : Nat) (found : BitVec 32) {s : State}  (hK : Kept s0 s) : Kept s0 (spreadPoison l reason found s) := by
  unfold spreadPoison
  repeat' first
    | with_reducible assumption
    | (intro x; refine Kept.cut (s0 := s0) x ?_ (fun k => ?_); rotate_left; clear_value x; rotate_left; subst x)
    | (intro x; clear_value x)
    | (intro x)
    | with_reducible apply kept_modInteg
    | with_reducible apply kept_setPoison
    | with_reducible apply kept_holdLine
    | with_reducible apply kept_sendMirror
    | with_reducible apply kept_reportLine
    | split
    | lift_lets -underBinder

theorem kept_homeRead {s0 : State} (l : Nat) (fix : Bool) {s : State}  (hK : Kept s0 s) : Kept s0 (homeRead l fix s) := by
  unfold homeRead
  repeat' first
    | with_reducible assumption
    | (intro x; refine Kept.cutF (s0 := s0) x ?_ (fun k => ?_); rotate_left; clear_value x; rotate_left; subst x; intro u hu; try dsimp only)
    | (intro x; refine Kept.cutF1 (s0 := s0) x ?_ (fun k => ?_); rotate_left; clear_value x; rotate_left; subst x; intro a u hu; try dsimp only)
    | (intro x; refine Kept.cutF2 (s0 := s0) x ?_ (fun k => ?_); rotate_left; clear_value x; rotate_left; subst x; intro a b u hu; try dsimp only)
    | (intro x; refine Kept.cut (s0 := s0) x ?_ (fun k => ?_); rotate_left; clear_value x; rotate_left; subst x)
    | (intro x; clear_value x)
    | (intro x)
    | with_reducible apply kept_modInteg
    | with_reducible apply kept_settleLasting
    | with_reducible apply kept_lastingLeft
    | with_reducible apply kept_settleRead
    | split
    | lift_lets -underBinder
    | refine Kept.app (by assumption) ?_
    | refine Kept.app1 (by assumption) ?_
    | refine Kept.app2 (by assumption) ?_

theorem kept_leaveCompare {s0 : State} (l : Nat) (fix broke : Bool) (found : BitVec 32) {s : State}  (hK : Kept s0 s) : Kept s0 (leaveCompare l fix broke found s) := by
  unfold leaveCompare
  repeat' first
    | with_reducible assumption
    | with_reducible apply kept_settlePoisoned
    | with_reducible apply kept_reportLine
    | split

theorem kept_takePartner {s0 : State} (l : Nat) (p : LineData) (check : BitVec 32) (seq : BitVec 12) (outcome : Nat) (found : BitVec 32) {s : State}  (hK : Kept s0 s) : Kept s0 (takePartner l p check seq outcome found s) := by
  unfold takePartner
  repeat' first
    | with_reducible assumption
    | (intro x; refine Kept.cut (s0 := s0) x ?_ (fun k => ?_); rotate_left; clear_value x; rotate_left; subst x)
    | (intro x; clear_value x)
    | (intro x)
    | with_reducible apply kept_modInteg
    | with_reducible apply kept_rewriteLine
    | with_reducible apply kept_postLine
    | with_reducible apply kept_logEntry
    | lift_lets -underBinder

theorem kept_givePartner {s0 : State} (l outcome : Nat) (sweep : Bool) (found : BitVec 32) {s : State}  (hK : Kept s0 s) : Kept s0 (givePartner l outcome sweep found s) := by
  unfold givePartner
  repeat' first
    | with_reducible assumption
    | (intro x; refine Kept.cut (s0 := s0) x ?_ (fun k => ?_); rotate_left; clear_value x; rotate_left; subst x)
    | (intro x; clear_value x)
    | (intro x)
    | with_reducible apply kept_modInteg
    | with_reducible apply kept_sendHome
    | with_reducible apply kept_postLine
    | with_reducible apply kept_logEntry
    | lift_lets -underBinder

theorem kept_settlePair {s0 : State} (l : Nat) (fix sweep : Bool) (found : BitVec 32) (as : List Fetched) {s : State}  (hK : Kept s0 s) : Kept s0 (settlePair l fix sweep found as s).2 := by
  unfold settlePair
  repeat' first
    | with_reducible assumption
    | (intro x; refine Kept.cut (s0 := s0) x ?_ (fun k => ?_); rotate_left; clear_value x; rotate_left; subst x)
    | (intro x; clear_value x)
    | (intro x)
    | with_reducible apply kept_reportLine
    | with_reducible apply kept_spreadPoison
    | with_reducible apply kept_poisonBoth
    | with_reducible apply kept_takePartner
    | with_reducible apply kept_givePartner
    | with_reducible apply kept_targetDead
    | with_reducible apply kept_leaveCompare
    | split
    | lift_lets -underBinder

theorem kept_poisonFrom {s0 : State} (g i : Nat) {s : State}  (hK : Kept s0 s) : Kept s0 (poisonFrom g i s) := by
  unfold poisonFrom
  repeat' first
    | with_reducible assumption
    | (intro x; refine Kept.cut (s0 := s0) x ?_ (fun k => ?_); rotate_left; clear_value x; rotate_left; subst x)
    | (intro x; clear_value x)
    | (intro x)
    | with_reducible apply kept_eachS
    | with_reducible apply kept_setPoison

theorem kept_clearDirs {s0 : State} (g : Nat) {s : State}  (hK : Kept s0 s) : Kept s0 (clearDirs g s) := by
  unfold clearDirs
  repeat' first
    | with_reducible assumption
    | (intro x; refine Kept.cut (s0 := s0) x ?_ (fun k => ?_); rotate_left; clear_value x; rotate_left; subst x)
    | (intro x; clear_value x)
    | (intro x)
    | with_reducible apply kept_modHome
    | with_reducible apply kept_eachS
    | with_reducible apply kept_writeDir
    | lift_lets -underBinder

theorem kept_promote {s0 : State} (g : Nat) (force : Bool) (old : Pair) (c : Cmd) {s : State}  (hK : Kept s0 s) : Kept s0 (promote g force old c s) := by
  unfold promote
  repeat' first
    | with_reducible assumption
    | (intro x; refine Kept.cut (s0 := s0) x ?_ (fun k => ?_); rotate_left; clear_value x; rotate_left; subst x)
    | (intro x; clear_value x)
    | (intro x)
    | with_reducible apply kept_whenS
    | with_reducible apply kept_poisonFrom
    | with_reducible apply kept_post
    | with_reducible apply kept_clearDirs
    | lift_lets -underBinder

end Sys2Proof.Machine
end

