-- ==== Sys2Proof/Laws/Progs.lean ====
section
/-! SUPPORT. What the programs of the Booth commands keep: a program that runs keeps what every operation of the device keeps (Kept),
whether it ends, waits or faults. -/

namespace Sys2Proof.Machine

set_option linter.all false

/-- A program keeps what every operation of the device keeps, from any state it runs in. -/
structure KeptProg {α : Type} (p : Prog α) : Prop where
  run : ∀ (s0 : State) (x : Ctx), Kept s0 x.s → Kept s0 (p.run.run x).2.s

theorem KeptProg.bind {α β : Type} {p : Prog α} {f : α → Prog β} (hp : KeptProg p) (hf : ∀ a, KeptProg (f a)) : KeptProg (p >>= f) := by
  refine ⟨fun s0 x h => ?_⟩
  have k := hp.run s0 x h
  simp only [Bind.bind, ExceptT.bind, ExceptT.mk, ExceptT.run, StateT.run, StateT.bind, ExceptT.bindCont] at *
  generalize p x = r at *
  obtain ⟨a, y⟩ := r
  cases a with
  | ok a => exact (hf a).run s0 y k
  | error e => exact k

theorem KeptProg.pure {α : Type} (a : α) : KeptProg (Pure.pure a : Prog α) := ⟨fun _ _ h => h⟩
theorem KeptProg.throw {α : Type} (e : Halt) : KeptProg (MonadExcept.throw e : Prog α) := ⟨fun _ _ h => h⟩
theorem keptp_get : KeptProg (MonadState.get : Prog Ctx) := ⟨fun _ _ h => h⟩
theorem KeptProg.map {α β : Type} {p : Prog α} (f : α → β) (hp : KeptProg p) : KeptProg (f <$> p) := by
  refine ⟨fun s0 x h => ?_⟩
  have k := hp.run s0 x h
  simp only [Functor.map, ExceptT.map, ExceptT.mk, ExceptT.run, StateT.run, StateT.bind, Bind.bind] at *
  generalize p x = r at *
  obtain ⟨a, y⟩ := r
  cases a <;> exact k
theorem keptp_change (f : State → State) (hf : ∀ (s0 s : State), Kept s0 s → Kept s0 (f s)) : KeptProg (change f) := ⟨fun s0 x h => hf s0 x.s h⟩
theorem keptp_takeId : KeptProg takeId := ⟨fun _ _ h => h⟩
theorem KeptProg.get_set {α : Type} {y : Ctx → Ctx} {f : Ctx → Prog α} (hy : ∀ s0 x, Kept s0 x.s → Kept s0 (y x).s)
  (hf : ∀ x, KeptProg (f x)) : KeptProg ((MonadState.get : Prog Ctx) >>= fun x => (MonadStateOf.set (y x) : Prog PUnit) >>= fun _ => f x) :=
  ⟨fun s0 x h => (hf x).run s0 (y x) (hy s0 x h)⟩
theorem KeptProg.forM {α : Type} (l : List α) (f : α → Prog PUnit) (hf : ∀ a, KeptProg (f a)) : KeptProg (l.forM f) := by
  induction l with
  | nil => exact KeptProg.pure _
  | cons a l ih => exact KeptProg.bind (hf a) fun _ => ih
theorem KeptProg.foldlM {α β : Type} (f : β → α → Prog β) (hf : ∀ b a, KeptProg (f b a)) (l : List α) : ∀ b, KeptProg (l.foldlM f b) := by
  induction l with
  | nil => exact fun b => KeptProg.pure _
  | cons a l ih => exact fun b => KeptProg.bind (hf b a) fun c => ih c
theorem KeptProg.mapM {α β : Type} (f : α → Prog β) (hf : ∀ a, KeptProg (f a)) (l : List α) : KeptProg (l.mapM f) := by
  rw [← List.mapM'_eq_mapM]
  induction l with
  | nil => exact KeptProg.pure _
  | cons a l ih =>
    rw [List.mapM'_cons]
    exact KeptProg.bind (hf a) fun _ => KeptProg.bind ih fun _ => KeptProg.pure _

theorem keptp_theCmd : KeptProg theCmd := by
  unfold theCmd
  exact KeptProg.bind keptp_get fun _ => KeptProg.pure _
theorem keptp_theState : KeptProg theState := by
  unfold theState
  exact KeptProg.bind keptp_get fun _ => KeptProg.pure _

/-- A function of the program on the way may be taken as any such function. -/
theorem KeptProg.cutJ {α β : Type} (x : α → Prog β) {P : Prop} (a : ∀ i, KeptProg (x i)) (b : (∀ i, KeptProg (x i)) → P) : P := b a

theorem KeptProg.cutJ2 {α β γ : Type} (x : α → γ → Prog β) {P : Prop} (a : ∀ i j, KeptProg (x i j)) (b : (∀ i j, KeptProg (x i j)) → P) : P := b a

theorem KeptProg.app {α β : Type} {x : α → Prog β} {i : α} (k : ∀ i, KeptProg (x i)) : KeptProg (x i) := k i

theorem KeptProg.app2 {α β γ : Type} {x : α → γ → Prog β} {i : α} {j : γ} (k : ∀ i j, KeptProg (x i j)) : KeptProg (x i j) := k i j

theorem Kept.cutG {s0 t : State} (x : State) (a : Kept s0 x) (b : Kept s0 x → Kept s0 t) : Kept s0 t := b a

theorem keptp_waitHere {α : Type} : KeptProg (waitHere : Prog α) := KeptProg.throw _
theorem keptp_failAt {α : Type} (c : Status) (va : Nat) : KeptProg (failAt c va : Prog α) := KeptProg.throw _
theorem keptp_failNow {α : Type} (c : Status) : KeptProg (failNow c : Prog α) := KeptProg.throw _

theorem keptp_demand (b : Bool) : KeptProg (demand b) := by
  unfold demand
  split
  · exact KeptProg.pure _
  · exact keptp_failNow _

theorem keptp_once (f : Cmd → State → LineData × State) (hf : ∀ (c : Cmd) (s0 s : State), Kept s0 s → Kept s0 (f c s).2) : KeptProg (once f) := by
  unfold once
  refine KeptProg.bind keptp_takeId fun id => KeptProg.bind keptp_theCmd fun c => ?_
  split
  · exact KeptProg.pure _
  · exact KeptProg.get_set (y := fun x => { x with s := keepSeen x.q x.n id (f c x.s).1 (f c x.s).2 })
      (fun s0 x h => kept_keepSeen _ _ _ _ (hf c s0 x.s h)) fun x => KeptProg.pure _

theorem keptp_onceDo (f : Cmd → State → State) (hf : ∀ (c : Cmd) (s0 s : State), Kept s0 s → Kept s0 (f c s)) : KeptProg (onceDo f) := by
  unfold onceDo
  exact KeptProg.bind (keptp_once _ hf) fun _ => KeptProg.pure _

theorem keptp_onceNat (f : Cmd → State → Nat) : KeptProg (onceNat f) := by
  unfold onceNat
  exact KeptProg.bind (keptp_once _ fun _ _ _ h => h) fun _ => KeptProg.pure _

theorem keptp_freeWord : KeptProg freeWord := by
  unfold freeWord
  exact KeptProg.bind (keptp_once _ fun _ _ _ h => kept_drawFree h) fun _ => KeptProg.pure _

/-- The same of a program from one state. -/
def KeptAt {α : Type} (x : Ctx) (p : Prog α) : Prop := ∀ s0 : State, Kept s0 x.s → Kept s0 (p.run.run x).2.s

theorem KeptProg.get_bind {α : Type} {f : Ctx → Prog α} (h : ∀ x, KeptAt x (f x)) : KeptProg ((MonadState.get : Prog Ctx) >>= f) :=
  ⟨fun s0 x k => h x s0 k⟩

theorem KeptAt.set_bind {α : Type} {x y : Ctx} {f : PUnit → Prog α} (h : ∀ s0, Kept s0 x.s → Kept s0 y.s) (k : KeptProg (f ())) :
    KeptAt x ((MonadStateOf.set y : Prog PUnit) >>= f) := fun s0 e => k.run s0 y (h s0 e)

theorem keptp_accessAs (id va : Nat) (rd wr at_ : Bool) (via : Via) (buffered : Bool) (share dst : Option Nat) (p : Packet) :
    KeptProg (accessAs id va rd wr at_ via buffered share dst p) := by
  unfold accessAs
  refine KeptProg.bind keptp_theCmd fun c => ?_
  split
  · exact KeptProg.pure _
  · split
    · exact KeptProg.pure _
    · refine KeptProg.get_bind fun x => KeptAt.set_bind (fun _ h => kept_translate _ _ _ _ _ h) ?_
      split
      · exact keptp_waitHere
      · exact keptp_failAt _ _
      · split
        · exact keptp_failAt _ _
        · exact KeptProg.bind (keptp_change _ fun _ _ h => kept_issueAccess _ _ _ _ _ _ _ _ _ h) fun _ =>
            KeptProg.bind keptp_theCmd fun _ => KeptProg.pure _

/-- A program that runs beside another keeps what it keeps alone. -/
theorem keptp_attempt (base : Nat) {p : Prog Unit} (hp : KeptProg p) : KeptProg (attempt base p) := by
  refine ⟨fun s0 x h => ?_⟩
  have k := hp.run s0 { x with next := base } h
  unfold attempt
  simp only [ExceptT.run, ExceptT.mk, StateT.run] at *
  generalize p { x with next := base } = r at *
  obtain ⟨a, y⟩ := r
  cases a with
  | ok a => exact k
  | error e => cases e <;> exact k

theorem keptp_resolveFor (rd wr : Bool) (va : Nat) : KeptProg (resolveFor rd wr va) := by
  unfold resolveFor
  refine KeptProg.bind keptp_takeId fun id => KeptProg.bind keptp_theCmd fun c => ?_
  split
  · exact KeptProg.pure _
  · refine KeptProg.get_bind fun x => KeptAt.set_bind (fun _ h => kept_translate _ _ _ _ _ h) ?_
    split
    · exact keptp_waitHere
    · exact keptp_failAt _ _
    · exact KeptProg.bind (keptp_change _ fun _ _ h => kept_keepSeen _ _ _ _ h) fun _ => KeptProg.pure _

end Sys2Proof.Machine
end

