-- ==== Sys2Proof/Laws/KeptProgs.lean ====
section
/-! SUPPORT. What the program of each Booth command keeps (Kept). -/

namespace Sys2Proof.Machine

set_option linter.all false

theorem keptp_tookEffect  : KeptProg (tookEffect) := by
  unfold tookEffect
  repeat' first
    | with_reducible assumption
    | with_reducible exact KeptProg.pure _
    | with_reducible apply KeptProg.bind
    | (intro x; refine Kept.cutG x ?_ (fun k => ?_); rotate_left; clear_value x; rotate_left; subst x)
    | (intro x; clear_value x)
    | (intro x)
    | with_reducible apply keptp_theCmd
    | with_reducible apply keptp_change
    | with_reducible apply kept_modCmd
    | lift_lets -underBinder
    | dsimp only

theorem keptp_entryBytes  : KeptProg (entryBytes) := by
  unfold entryBytes
  repeat' first
    | with_reducible assumption
    | with_reducible exact KeptProg.pure _
    | with_reducible apply KeptProg.bind
    | (intro x)
    | with_reducible apply keptp_theCmd
    | dsimp only

theorem keptp_operand (o n : Nat) : KeptProg (operand o n) := by
  unfold operand
  repeat' first
    | with_reducible assumption
    | with_reducible exact KeptProg.pure _
    | with_reducible apply KeptProg.bind
    | (intro x)
    | with_reducible apply keptp_entryBytes
    | dsimp only

theorem keptp_access (va : Nat) (rd wr at_ : Bool) (via : Via) (buffered : Bool) (p : Packet) : KeptProg (access va rd wr at_ via buffered p) := by
  unfold access
  repeat' first
    | with_reducible assumption
    | with_reducible exact KeptProg.pure _
    | with_reducible apply KeptProg.bind
    | (intro x)
    | with_reducible apply keptp_accessAs
    | with_reducible apply keptp_takeId
    | dsimp only

theorem keptp_tryRead (va : Nat) (buffered : Bool) : KeptProg (tryRead va buffered) := by
  unfold tryRead
  repeat' first
    | with_reducible assumption
    | with_reducible exact KeptProg.pure _
    | with_reducible apply KeptProg.bind
    | (intro x)
    | with_reducible apply keptp_access
    | dsimp only

theorem keptp_readLine (va : Nat) : KeptProg (readLine va) := by
  unfold readLine
  repeat' first
    | with_reducible assumption
    | with_reducible exact KeptProg.pure _
    | with_reducible apply KeptProg.bind
    | (intro x; refine KeptProg.cutJ x ?_ (fun k => ?_); rotate_left; clear_value x; rotate_left; subst x; try dsimp only)
    | (intro x)
    | with_reducible apply keptp_tryRead
    | with_reducible apply keptp_waitHere
    | with_reducible apply keptp_failAt
    | split
    | with_reducible refine KeptProg.app (by assumption)
    | dsimp only

theorem keptp_readBuffered (va : Nat) : KeptProg (readBuffered va) := by
  unfold readBuffered
  repeat' first
    | with_reducible assumption
    | with_reducible exact KeptProg.pure _
    | with_reducible apply KeptProg.bind
    | (intro x; refine KeptProg.cutJ x ?_ (fun k => ?_); rotate_left; clear_value x; rotate_left; subst x; try dsimp only)
    | (intro x)
    | with_reducible apply keptp_tryRead
    | with_reducible apply keptp_waitHere
    | with_reducible apply keptp_failAt
    | split
    | with_reducible refine KeptProg.app (by assumption)
    | dsimp only

theorem keptp_readBurst (va : Nat) : KeptProg (readBurst va) := by
  unfold readBurst
  repeat' first
    | with_reducible assumption
    | with_reducible exact KeptProg.pure _
    | with_reducible apply KeptProg.bind
    | (intro x; refine KeptProg.cutJ x ?_ (fun k => ?_); rotate_left; clear_value x; rotate_left; subst x; try dsimp only)
    | (intro x)
    | with_reducible apply keptp_access
    | with_reducible apply keptp_waitHere
    | with_reducible apply keptp_failAt
    | split
    | with_reducible refine KeptProg.app (by assumption)
    | dsimp only

theorem keptp_lastAccess  : KeptProg (lastAccess) := by
  unfold lastAccess
  repeat' first
    | with_reducible assumption
    | with_reducible exact KeptProg.pure _
    | with_reducible apply KeptProg.bind
    | (intro x; refine Kept.cutG x ?_ (fun k => ?_); rotate_left; clear_value x; rotate_left; subst x)
    | (intro x; clear_value x)
    | (intro x)
    | with_reducible apply keptp_theCmd
    | with_reducible apply keptp_change
    | with_reducible apply kept_modCmd
    | lift_lets -underBinder
    | dsimp only

theorem keptp_writeAs (via : Via) (va : Nat) (d : LineData) (mask : Option Word) (ctr : Option Nat) : KeptProg (writeAs via va d mask ctr) := by
  unfold writeAs
  repeat' first
    | with_reducible assumption
    | with_reducible exact KeptProg.pure _
    | with_reducible apply KeptProg.bind
    | (intro x; refine KeptProg.cutJ x ?_ (fun k => ?_); rotate_left; clear_value x; rotate_left; subst x; try dsimp only)
    | (intro x; clear_value x)
    | (intro x)
    | with_reducible apply keptp_takeId
    | with_reducible apply keptp_accessAs
    | with_reducible apply keptp_failAt
    | split
    | lift_lets -underBinder
    | with_reducible refine KeptProg.app (by assumption)
    | dsimp only

theorem keptp_writeVia (via : Via) (va : Nat) (d : LineData) (mask : Option Word) (ctr : Option Nat) : KeptProg (writeVia via va d mask ctr) := by
  unfold writeVia
  repeat' first
    | with_reducible assumption
    | with_reducible exact KeptProg.pure _
    | with_reducible apply KeptProg.bind
    | (intro x; clear_value x)
    | (intro x)
    | with_reducible apply keptp_writeAs
    | lift_lets -underBinder
    | dsimp only

theorem keptp_writeTo (va : Nat) (d : LineData) (ctr : Option Nat) : KeptProg (writeTo va d ctr) := by
  unfold writeTo
  repeat' first
    | with_reducible assumption
    | with_reducible exact KeptProg.pure _
    | with_reducible apply KeptProg.bind
    | (intro x)
    | with_reducible apply keptp_writeVia
    | dsimp only

theorem keptp_drain  : KeptProg (drain) := by
  unfold drain
  repeat' first
    | with_reducible assumption
    | with_reducible exact KeptProg.pure _
    | with_reducible apply KeptProg.bind
    | (intro x; refine KeptProg.cutJ x ?_ (fun k => ?_); rotate_left; clear_value x; rotate_left; subst x; try dsimp only)
    | (intro x)
    | with_reducible apply keptp_theCmd
    | with_reducible apply keptp_waitHere
    | split
    | with_reducible refine KeptProg.app (by assumption)
    | dsimp only

theorem keptp_bytesBy (read : Nat → Prog LineData) (va n : Nat) (hread : ∀ i, KeptProg (read i)) : KeptProg (bytesBy read va n) := by
  unfold bytesBy
  repeat' first
    | with_reducible assumption
    | with_reducible exact KeptProg.pure _
    | with_reducible apply KeptProg.bind
    | (intro x; refine KeptProg.cutJ x ?_ (fun k => ?_); rotate_left; clear_value x; rotate_left; subst x; try dsimp only)
    | (intro x; refine Kept.cutG x ?_ (fun k => ?_); rotate_left; clear_value x; rotate_left; subst x)
    | (intro x; clear_value x)
    | (intro x)
    | with_reducible apply KeptProg.mapM
    | with_reducible apply hread
    | split
    | lift_lets -underBinder
    | with_reducible refine KeptProg.app (by assumption)
    | dsimp only

theorem keptp_readBytes (va n : Nat) : KeptProg (readBytes va n) := by
  unfold readBytes
  repeat' first
    | with_reducible assumption
    | with_reducible exact KeptProg.pure _
    | with_reducible apply KeptProg.bind
    | (intro x)
    | with_reducible apply keptp_bytesBy
    | with_reducible apply keptp_readLine
    | dsimp only

theorem keptp_readHeld (va n : Nat) : KeptProg (readHeld va n) := by
  unfold readHeld
  repeat' first
    | with_reducible assumption
    | with_reducible exact KeptProg.pure _
    | with_reducible apply KeptProg.bind
    | (intro x)
    | with_reducible apply keptp_bytesBy
    | with_reducible apply keptp_readBuffered
    | dsimp only

theorem keptp_holdStream (n : Nat) : KeptProg (holdStream n) := by
  unfold holdStream
  repeat' first
    | with_reducible assumption
    | with_reducible exact KeptProg.pure _
    | with_reducible apply KeptProg.bind
    | (intro x; refine KeptProg.cutJ x ?_ (fun k => ?_); rotate_left; clear_value x; rotate_left; subst x; try dsimp only)
    | (intro x; refine Kept.cutG x ?_ (fun k => ?_); rotate_left; clear_value x; rotate_left; subst x)
    | (intro x; clear_value x)
    | (intro x)
    | with_reducible apply keptp_takeId
    | with_reducible apply keptp_theCmd
    | with_reducible apply keptp_theState
    | with_reducible apply keptp_change
    | with_reducible apply keptp_waitHere
    | with_reducible apply kept_keepSeen
    | with_reducible apply kept_modCmd
    | split
    | lift_lets -underBinder
    | with_reducible refine KeptProg.app (by assumption)
    | dsimp only

theorem keptp_freeStream  : KeptProg (freeStream) := by
  unfold freeStream
  repeat' first
    | with_reducible assumption
    | with_reducible exact KeptProg.pure _
    | with_reducible apply KeptProg.bind
    | (intro x)
    | with_reducible apply keptp_onceDo
    | with_reducible apply kept_modCmd
    | dsimp only

theorem keptp_useArray  : KeptProg (useArray) := by
  unfold useArray
  repeat' first
    | with_reducible assumption
    | with_reducible exact KeptProg.pure _
    | with_reducible apply KeptProg.bind
    | (intro x; refine KeptProg.cutJ x ?_ (fun k => ?_); rotate_left; clear_value x; rotate_left; subst x; try dsimp only)
    | (intro x; refine Kept.cutG x ?_ (fun k => ?_); rotate_left; clear_value x; rotate_left; subst x)
    | (intro x; clear_value x)
    | (intro x)
    | with_reducible apply keptp_takeId
    | with_reducible apply keptp_theCmd
    | with_reducible apply keptp_theState
    | with_reducible apply keptp_change
    | with_reducible apply keptp_waitHere
    | with_reducible apply kept_modCmd
    | with_reducible apply kept_keepSeen
    | with_reducible apply kept_modBooth
    | split
    | lift_lets -underBinder
    | with_reducible refine KeptProg.app (by assumption)
    | dsimp only

theorem keptp_counterOf (on : Bool) (n : Nat) : KeptProg (counterOf on n) := by
  unfold counterOf
  repeat' first
    | with_reducible assumption
    | with_reducible exact KeptProg.pure _
    | with_reducible apply KeptProg.bind
    | (intro x; refine KeptProg.cutJ x ?_ (fun k => ?_); rotate_left; clear_value x; rotate_left; subst x; try dsimp only)
    | (intro x)
    | with_reducible apply keptp_demand
    | split
    | with_reducible refine KeptProg.app (by assumption)
    | dsimp only

theorem keptp_readSource (va dst : Nat) : KeptProg (readSource va dst) := by
  unfold readSource
  repeat' first
    | with_reducible assumption
    | with_reducible exact KeptProg.pure _
    | with_reducible apply KeptProg.bind
    | (intro x; refine KeptProg.cutJ x ?_ (fun k => ?_); rotate_left; clear_value x; rotate_left; subst x; try dsimp only)
    | (intro x)
    | with_reducible apply keptp_accessAs
    | with_reducible apply keptp_takeId
    | with_reducible apply keptp_waitHere
    | with_reducible apply keptp_failAt
    | split
    | with_reducible refine KeptProg.app (by assumption)
    | dsimp only

theorem keptp_checkTwice (src dst : Nat) : KeptProg (checkTwice src dst) := by
  unfold checkTwice
  repeat' first
    | with_reducible assumption
    | with_reducible exact KeptProg.pure _
    | with_reducible exact keptp_get
    | with_reducible apply KeptProg.bind
    | (intro x; refine KeptProg.cutJ x ?_ (fun k => ?_); rotate_left; clear_value x; rotate_left; subst x; try dsimp only)
    | (intro x; refine Kept.cutG x ?_ (fun k => ?_); rotate_left; clear_value x; rotate_left; subst x)
    | (intro x; clear_value x)
    | (intro x)
    | with_reducible apply keptp_takeId
    | with_reducible apply keptp_theCmd
    | with_reducible apply keptp_change
    | with_reducible apply keptp_waitHere
    | with_reducible apply keptp_failAt
    | with_reducible apply kept_translate
    | with_reducible apply kept_keepSeen
    | with_reducible apply kept_strike
    | split
    | lift_lets -underBinder
    | with_reducible refine KeptProg.app (by assumption)
    | dsimp only

theorem keptp_copyLines (src dst n : Nat) (ctr : Option Nat) : KeptProg (copyLines src dst n ctr) := by
  unfold copyLines
  repeat' first
    | with_reducible assumption
    | with_reducible exact KeptProg.pure _
    | with_reducible apply KeptProg.bind
    | (intro x; clear_value x)
    | (intro x)
    | with_reducible apply keptp_readSource
    | with_reducible apply keptp_checkTwice
    | with_reducible apply keptp_writeTo
    | with_reducible apply KeptProg.forM
    | lift_lets -underBinder
    | dsimp only

theorem keptp_nopProg  : KeptProg (nopProg) := by
  unfold nopProg
  repeat' first
    | with_reducible assumption
    | with_reducible exact KeptProg.pure _
    | with_reducible apply KeptProg.bind
    | (intro x)
    | with_reducible apply keptp_demand
    | with_reducible apply keptp_entryBytes
    | with_reducible apply keptp_freeWord
    | dsimp only

theorem keptp_fillProg  : KeptProg (fillProg) := by
  unfold fillProg
  repeat' first
    | with_reducible assumption
    | with_reducible exact KeptProg.pure _
    | with_reducible apply KeptProg.bind
    | (intro x; clear_value x)
    | (intro x)
    | with_reducible apply keptp_entryBytes
    | with_reducible apply keptp_demand
    | with_reducible apply keptp_counterOf
    | with_reducible apply keptp_writeTo
    | with_reducible apply KeptProg.forM
    | lift_lets -underBinder
    | dsimp only

theorem keptp_copyProg  : KeptProg (copyProg) := by
  unfold copyProg
  repeat' first
    | with_reducible assumption
    | with_reducible exact KeptProg.pure _
    | with_reducible apply KeptProg.bind
    | (intro x; clear_value x)
    | (intro x)
    | with_reducible apply keptp_entryBytes
    | with_reducible apply keptp_demand
    | with_reducible apply keptp_counterOf
    | with_reducible apply keptp_copyLines
    | lift_lets -underBinder
    | dsimp only

theorem keptp_readLast (va : Nat) : KeptProg (readLast va) := by
  unfold readLast
  repeat' first
    | with_reducible assumption
    | with_reducible exact KeptProg.pure _
    | with_reducible apply KeptProg.bind
    | (intro x; refine KeptProg.cutJ x ?_ (fun k => ?_); rotate_left; clear_value x; rotate_left; subst x; try dsimp only)
    | (intro x; clear_value x)
    | (intro x)
    | with_reducible apply keptp_tryRead
    | with_reducible apply keptp_lastAccess
    | with_reducible apply keptp_waitHere
    | with_reducible apply keptp_failAt
    | split
    | lift_lets -underBinder
    | with_reducible refine KeptProg.app (by assumption)
    | dsimp only

theorem keptp_compareLines (a b : Nat) (stop : Bool) : ∀ (z0 : List Nat) (z1 : Option Nat × Nat × Nat), KeptProg (compareLines a b stop z0 z1) := by
  intro z0 z1
  induction z0 generalizing z1
  case nil => 
    unfold compareLines
    repeat' first
      | with_reducible assumption
      | with_reducible exact KeptProg.pure _
      | with_reducible apply KeptProg.bind
      | (intro x; refine KeptProg.cutJ x ?_ (fun k => ?_); rotate_left; clear_value x; rotate_left; subst x; try dsimp only)
      | (intro x; clear_value x)
      | (intro x)
      | with_reducible apply keptp_readLine
      | with_reducible apply keptp_readLast
      | with_reducible apply ih
      | split
      | lift_lets -underBinder
      | with_reducible refine KeptProg.app (by assumption)
      | dsimp only
  case cons i l ih =>
    unfold compareLines
    repeat' first
      | with_reducible assumption
      | with_reducible exact KeptProg.pure _
      | with_reducible apply KeptProg.bind
      | (intro x; refine KeptProg.cutJ x ?_ (fun k => ?_); rotate_left; clear_value x; rotate_left; subst x; try dsimp only)
      | (intro x; clear_value x)
      | (intro x)
      | with_reducible apply keptp_readLine
      | with_reducible apply keptp_readLast
      | with_reducible apply ih
      | split
      | lift_lets -underBinder
      | with_reducible refine KeptProg.app (by assumption)
      | dsimp only

theorem keptp_compareProg  : KeptProg (compareProg) := by
  unfold compareProg
  repeat' first
    | with_reducible assumption
    | with_reducible exact KeptProg.pure _
    | with_reducible apply KeptProg.bind
    | (intro x; clear_value x)
    | (intro x)
    | with_reducible apply keptp_entryBytes
    | with_reducible apply keptp_demand
    | with_reducible apply keptp_compareLines
    | lift_lets -underBinder
    | dsimp only

theorem keptp_fenceProg  : KeptProg (fenceProg) := by
  unfold fenceProg
  repeat' first
    | with_reducible assumption
    | with_reducible exact KeptProg.pure _
    | with_reducible apply KeptProg.bind
    | (intro x; refine KeptProg.cutJ x ?_ (fun k => ?_); rotate_left; clear_value x; rotate_left; subst x; try dsimp only)
    | (intro x; clear_value x)
    | (intro x)
    | with_reducible apply keptp_entryBytes
    | with_reducible apply keptp_demand
    | with_reducible apply keptp_theCmd
    | with_reducible apply keptp_theState
    | with_reducible apply keptp_waitHere
    | with_reducible apply keptp_freeWord
    | split
    | lift_lets -underBinder
    | with_reducible refine KeptProg.app (by assumption)
    | dsimp only

theorem keptp_counterWaitProg  : KeptProg (counterWaitProg) := by
  unfold counterWaitProg
  repeat' first
    | with_reducible assumption
    | with_reducible exact KeptProg.pure _
    | with_reducible apply KeptProg.bind
    | (intro x; refine KeptProg.cutJ x ?_ (fun k => ?_); rotate_left; clear_value x; rotate_left; subst x; try dsimp only)
    | (intro x; refine Kept.cutG x ?_ (fun k => ?_); rotate_left; clear_value x; rotate_left; subst x)
    | (intro x; clear_value x)
    | (intro x)
    | with_reducible apply keptp_entryBytes
    | with_reducible apply keptp_demand
    | with_reducible apply keptp_theCmd
    | with_reducible apply keptp_theState
    | with_reducible apply keptp_failNow
    | with_reducible apply keptp_waitHere
    | with_reducible apply keptp_change
    | with_reducible apply kept_enterWait
    | split
    | lift_lets -underBinder
    | with_reducible refine KeptProg.app (by assumption)
    | dsimp only

theorem keptp_atomicProg  : KeptProg (atomicProg) := by
  unfold atomicProg
  repeat' first
    | with_reducible assumption
    | with_reducible exact KeptProg.pure _
    | with_reducible apply KeptProg.bind
    | (intro x; refine KeptProg.cutJ x ?_ (fun k => ?_); rotate_left; clear_value x; rotate_left; subst x; try dsimp only)
    | (intro x; clear_value x)
    | (intro x)
    | with_reducible apply keptp_entryBytes
    | with_reducible apply keptp_demand
    | with_reducible apply keptp_access
    | with_reducible apply keptp_lastAccess
    | with_reducible apply keptp_waitHere
    | with_reducible apply keptp_freeWord
    | with_reducible apply keptp_failAt
    | split
    | lift_lets -underBinder
    | with_reducible refine KeptProg.app (by assumption)
    | dsimp only

theorem keptp_reduceProg (remote : Bool) : KeptProg (reduceProg remote) := by
  unfold reduceProg
  repeat' first
    | with_reducible assumption
    | with_reducible exact KeptProg.pure _
    | with_reducible apply KeptProg.bind
    | (intro x; refine KeptProg.cutJ x ?_ (fun k => ?_); rotate_left; clear_value x; rotate_left; subst x; try dsimp only)
    | (intro x; clear_value x)
    | (intro x)
    | with_reducible apply keptp_entryBytes
    | with_reducible apply keptp_demand
    | with_reducible apply keptp_counterOf
    | with_reducible apply keptp_readBytes
    | with_reducible apply keptp_readSource
    | with_reducible apply keptp_writeVia
    | with_reducible apply KeptProg.foldlM
    | with_reducible apply KeptProg.mapM
    | split
    | lift_lets -underBinder
    | with_reducible refine KeptProg.app (by assumption)
    | dsimp only

theorem keptp_readDesc (va : Nat) (buffered : Bool) : KeptProg (readDesc va buffered) := by
  unfold readDesc
  repeat' first
    | with_reducible assumption
    | with_reducible exact KeptProg.pure _
    | with_reducible apply KeptProg.bind
    | (intro x; refine KeptProg.cutJ x ?_ (fun k => ?_); rotate_left; clear_value x; rotate_left; subst x; try dsimp only)
    | (intro x)
    | with_reducible apply keptp_demand
    | with_reducible apply keptp_readBuffered
    | with_reducible apply keptp_readLine
    | with_reducible apply keptp_failNow
    | split
    | with_reducible refine KeptProg.app (by assumption)
    | dsimp only

theorem keptp_countBlock  : KeptProg (countBlock) := by
  unfold countBlock
  repeat' first
    | with_reducible assumption
    | with_reducible exact KeptProg.pure _
    | with_reducible apply KeptProg.bind
    | (intro x)
    | with_reducible apply keptp_onceDo
    | with_reducible apply kept_modBooth
    | dsimp only

theorem keptp_readBlock (f d va : Nat) : KeptProg (readBlock f d va) := by
  unfold readBlock
  repeat' first
    | with_reducible assumption
    | with_reducible exact KeptProg.pure _
    | with_reducible apply KeptProg.bind
    | (intro x; clear_value x)
    | (intro x)
    | with_reducible apply keptp_readBurst
    | with_reducible apply keptp_countBlock
    | with_reducible apply KeptProg.mapM
    | lift_lets -underBinder
    | dsimp only

theorem keptp_writeLines (va : Nat) (b : List Byte) (ctr : Option Nat) : KeptProg (writeLines va b ctr) := by
  unfold writeLines
  repeat' first
    | with_reducible assumption
    | with_reducible exact KeptProg.pure _
    | with_reducible apply KeptProg.bind
    | (intro x)
    | with_reducible apply keptp_writeTo
    | with_reducible apply KeptProg.forM
    | dsimp only

theorem keptp_writeSet (x : Desc) (va first last : Nat) (fin : Bool) (ctr : Option Nat) (sts : List Soft) : KeptProg (writeSet x va first last fin ctr sts) := by
  unfold writeSet
  repeat' first
    | with_reducible assumption
    | with_reducible exact KeptProg.pure _
    | with_reducible apply KeptProg.bind
    | (intro x)
    | with_reducible apply keptp_writeLines
    | with_reducible apply KeptProg.forM
    | dsimp only

theorem keptp_attendedOf (o : DecodeOps) (blk : Nat) : KeptProg (attendedOf o blk) := by
  unfold attendedOf
  repeat' first
    | with_reducible assumption
    | with_reducible exact KeptProg.pure _
    | with_reducible apply KeptProg.bind
    | (intro x; refine KeptProg.cutJ x ?_ (fun k => ?_); rotate_left; clear_value x; rotate_left; subst x; try dsimp only)
    | (intro x; clear_value x)
    | (intro x)
    | with_reducible apply keptp_readBytes
    | split
    | lift_lets -underBinder
    | with_reducible refine KeptProg.app (by assumption)
    | dsimp only

theorem keptp_countSkipped  : KeptProg (countSkipped) := by
  unfold countSkipped
  repeat' first
    | with_reducible assumption
    | with_reducible exact KeptProg.pure _
    | with_reducible apply KeptProg.bind
    | (intro x)
    | with_reducible apply keptp_onceDo
    | with_reducible apply kept_modBooth
    | dsimp only

theorem keptp_chargePair (x : Desc) : KeptProg (chargePair x) := by
  unfold chargePair
  repeat' first
    | with_reducible assumption
    | with_reducible exact KeptProg.pure _
    | with_reducible apply KeptProg.bind
    | (intro x)
    | with_reducible apply keptp_onceDo
    | with_reducible apply kept_charge
    | dsimp only

theorem keptp_attnBlock (x : Desc) (o : DecodeOps) (acc : List Soft × Nat × Nat) (blk : Nat) : KeptProg (attnBlock x o acc blk) := by
  unfold attnBlock
  repeat' first
    | with_reducible assumption
    | with_reducible exact KeptProg.pure _
    | with_reducible apply KeptProg.bind
    | (intro x; refine KeptProg.cutJ x ?_ (fun k => ?_); rotate_left; clear_value x; rotate_left; subst x; try dsimp only)
    | (intro x; clear_value x)
    | (intro x)
    | with_reducible apply keptp_attendedOf
    | with_reducible apply keptp_readBytes
    | with_reducible apply keptp_countSkipped
    | with_reducible apply keptp_failAt
    | with_reducible apply keptp_readBlock
    | with_reducible apply keptp_useArray
    | with_reducible apply keptp_chargePair
    | split
    | lift_lets -underBinder
    | with_reducible refine KeptProg.app (by assumption)
    | dsimp only

theorem keptp_decodeSegment (x : Desc) (o : DecodeOps) (seg tokens blocks : Nat) : KeptProg (decodeSegment x o seg tokens blocks) := by
  unfold decodeSegment
  repeat' first
    | with_reducible assumption
    | with_reducible exact KeptProg.pure _
    | with_reducible apply KeptProg.bind
    | (intro x; clear_value x)
    | (intro x)
    | with_reducible apply keptp_attnBlock
    | with_reducible apply KeptProg.foldlM
    | lift_lets -underBinder
    | dsimp only

theorem keptp_decodePartials (x : Desc) (o : DecodeOps) (out first : Nat) (segs : List Nat) : KeptProg (decodePartials x o out first segs) := by
  unfold decodePartials
  repeat' first
    | with_reducible assumption
    | with_reducible exact KeptProg.pure _
    | with_reducible apply KeptProg.bind
    | (intro x; clear_value x)
    | (intro x)
    | with_reducible apply keptp_decodeSegment
    | with_reducible apply keptp_writeSet
    | with_reducible apply KeptProg.foldlM
    | lift_lets -underBinder
    | dsimp only

theorem keptp_decodeFinal (x : Desc) (o : DecodeOps) (out : Nat) (segs : List Nat) : KeptProg (decodeFinal x o out segs) := by
  unfold decodeFinal
  repeat' first
    | with_reducible assumption
    | with_reducible exact KeptProg.pure _
    | with_reducible apply KeptProg.bind
    | (intro x; refine KeptProg.cutJ x ?_ (fun k => ?_); rotate_left; clear_value x; rotate_left; subst x; try dsimp only)
    | (intro x; clear_value x)
    | (intro x)
    | with_reducible apply keptp_decodeSegment
    | with_reducible apply keptp_writeSet
    | with_reducible apply KeptProg.foldlM
    | split
    | lift_lets -underBinder
    | with_reducible refine KeptProg.app (by assumption)
    | dsimp only

theorem keptp_attnDecodeProg  : KeptProg (attnDecodeProg) := by
  unfold attnDecodeProg
  repeat' first
    | with_reducible assumption
    | with_reducible exact KeptProg.pure _
    | with_reducible apply KeptProg.bind
    | (intro x; refine KeptProg.cutJ x ?_ (fun k => ?_); rotate_left; clear_value x; rotate_left; subst x; try dsimp only)
    | (intro x; clear_value x)
    | (intro x)
    | with_reducible apply keptp_entryBytes
    | with_reducible apply keptp_demand
    | with_reducible apply keptp_readDesc
    | with_reducible apply keptp_readBytes
    | with_reducible apply keptp_holdStream
    | with_reducible apply keptp_decodePartials
    | with_reducible apply keptp_decodeFinal
    | split
    | lift_lets -underBinder
    | with_reducible refine KeptProg.app (by assumption)
    | dsimp only

theorem keptp_readRecord (va n : Nat) : KeptProg (readRecord va n) := by
  unfold readRecord
  repeat' first
    | with_reducible assumption
    | with_reducible exact KeptProg.pure _
    | with_reducible apply KeptProg.bind
    | (intro x; clear_value x)
    | (intro x)
    | with_reducible apply keptp_readBuffered
    | with_reducible apply KeptProg.mapM
    | lift_lets -underBinder
    | dsimp only

theorem keptp_readHeaders (x : Desc) (va : Nat) : KeptProg (readHeaders x va) := by
  unfold readHeaders
  repeat' first
    | with_reducible assumption
    | with_reducible exact KeptProg.pure _
    | with_reducible apply KeptProg.bind
    | (intro x; clear_value x)
    | (intro x)
    | with_reducible apply keptp_readRecord
    | with_reducible apply KeptProg.foldlM
    | lift_lets -underBinder
    | dsimp only

theorem keptp_readState (x : Desc) (p : Nat × Bool) : KeptProg (readState x p) := by
  unfold readState
  repeat' first
    | with_reducible assumption
    | with_reducible exact KeptProg.pure _
    | with_reducible apply KeptProg.bind
    | (intro x; refine KeptProg.cutJ x ?_ (fun k => ?_); rotate_left; clear_value x; rotate_left; subst x; try dsimp only)
    | (intro x; clear_value x)
    | (intro x)
    | with_reducible apply keptp_readRecord
    | split
    | lift_lets -underBinder
    | with_reducible refine KeptProg.app (by assumption)
    | dsimp only

theorem keptp_checkSets (x : Desc) : ∀ (z0 : List Nat) (z1 : Option Nat) (z2 : List (Nat × Nat × List (Nat × Bool))), KeptProg (checkSets x z0 z1 z2) := by
  intro z0 z1 z2
  induction z0 generalizing z1 z2
  case nil => 
    unfold checkSets
    repeat' first
      | with_reducible assumption
      | with_reducible exact KeptProg.pure _
      | with_reducible apply KeptProg.bind
      | (intro x; refine KeptProg.cutJ x ?_ (fun k => ?_); rotate_left; clear_value x; rotate_left; subst x; try dsimp only)
      | (intro x; clear_value x)
      | (intro x)
      | with_reducible apply keptp_failAt
      | with_reducible apply keptp_readHeaders
      | with_reducible apply ih
      | split
      | lift_lets -underBinder
      | with_reducible refine KeptProg.app (by assumption)
      | dsimp only
  case cons i l ih =>
    unfold checkSets
    repeat' first
      | with_reducible assumption
      | with_reducible exact KeptProg.pure _
      | with_reducible apply KeptProg.bind
      | (intro x; refine KeptProg.cutJ x ?_ (fun k => ?_); rotate_left; clear_value x; rotate_left; subst x; try dsimp only)
      | (intro x; clear_value x)
      | (intro x)
      | with_reducible apply keptp_failAt
      | with_reducible apply keptp_readHeaders
      | with_reducible apply ih
      | split
      | lift_lets -underBinder
      | with_reducible refine KeptProg.app (by assumption)
      | dsimp only

theorem keptp_attnMergeProg  : KeptProg (attnMergeProg) := by
  unfold attnMergeProg
  repeat' first
    | with_reducible assumption
    | with_reducible exact KeptProg.pure _
    | with_reducible apply KeptProg.bind
    | (intro x; refine KeptProg.cutJ x ?_ (fun k => ?_); rotate_left; clear_value x; rotate_left; subst x; try dsimp only)
    | (intro x; clear_value x)
    | (intro x)
    | with_reducible apply keptp_entryBytes
    | with_reducible apply keptp_demand
    | with_reducible apply keptp_counterOf
    | with_reducible apply keptp_readDesc
    | with_reducible apply keptp_readHeld
    | with_reducible apply keptp_checkSets
    | with_reducible apply keptp_readState
    | with_reducible apply keptp_writeSet
    | with_reducible apply KeptProg.foldlM
    | with_reducible apply KeptProg.mapM
    | split
    | lift_lets -underBinder
    | with_reducible refine KeptProg.app (by assumption)
    | dsimp only

theorem keptp_writeSpanAs (va : Nat) (b : List Byte) : KeptProg (writeSpanAs va b) := by
  unfold writeSpanAs
  repeat' first
    | with_reducible assumption
    | with_reducible exact KeptProg.pure _
    | with_reducible apply KeptProg.bind
    | (intro x; refine KeptProg.cutJ x ?_ (fun k => ?_); rotate_left; clear_value x; rotate_left; subst x; try dsimp only)
    | (intro x; clear_value x)
    | (intro x)
    | with_reducible apply keptp_writeAs
    | with_reducible apply KeptProg.mapM
    | split
    | lift_lets -underBinder
    | with_reducible refine KeptProg.app (by assumption)
    | dsimp only

theorem keptp_writeSpan (va : Nat) (b : List Byte) : KeptProg (writeSpan va b) := by
  unfold writeSpan
  repeat' first
    | with_reducible assumption
    | with_reducible exact KeptProg.pure _
    | with_reducible apply KeptProg.bind
    | (intro x; clear_value x)
    | (intro x)
    | with_reducible apply keptp_writeSpanAs
    | lift_lets -underBinder
    | dsimp only

theorem keptp_appendScale (f d block : Nat) (own : Bool) (opScale : F32) : KeptProg (appendScale f d block own opScale) := by
  unfold appendScale
  repeat' first
    | with_reducible assumption
    | with_reducible exact KeptProg.pure _
    | with_reducible apply KeptProg.bind
    | (intro x; refine KeptProg.cutJ x ?_ (fun k => ?_); rotate_left; clear_value x; rotate_left; subst x; try dsimp only)
    | (intro x; clear_value x)
    | (intro x)
    | with_reducible apply keptp_readBytes
    | with_reducible apply keptp_demand
    | split
    | lift_lets -underBinder
    | with_reducible refine KeptProg.app (by assumption)
    | dsimp only

theorem keptp_appendRow (f d block tok : Nat) (scale : F32) (row : List Nat) : KeptProg (appendRow f d block tok scale row) := by
  unfold appendRow
  repeat' first
    | with_reducible assumption
    | with_reducible exact KeptProg.pure _
    | with_reducible apply KeptProg.bind
    | (intro x; refine KeptProg.cutJ x ?_ (fun k => ?_); rotate_left; clear_value x; rotate_left; subst x; try dsimp only)
    | (intro x; refine Kept.cutG x ?_ (fun k => ?_); rotate_left; clear_value x; rotate_left; subst x)
    | (intro x; clear_value x)
    | (intro x)
    | with_reducible apply keptp_writeSpanAs
    | with_reducible apply keptp_onceDo
    | with_reducible apply kept_countRows
    | with_reducible apply kept_modCmd
    | split
    | lift_lets -underBinder
    | with_reducible refine KeptProg.app (by assumption)
    | dsimp only

theorem keptp_appendBlock (x : Desc) (table pos count ks vs : Nat) (row : Nat → List Nat) (acc : Nat × Nat) (blk : Nat) : KeptProg (appendBlock x table pos count ks vs row acc blk) := by
  unfold appendBlock
  repeat' first
    | with_reducible assumption
    | with_reducible exact KeptProg.pure _
    | with_reducible apply KeptProg.bind
    | (intro x; refine KeptProg.cutJ x ?_ (fun k => ?_); rotate_left; clear_value x; rotate_left; subst x; try dsimp only)
    | (intro x; clear_value x)
    | (intro x)
    | with_reducible apply keptp_readBytes
    | with_reducible apply keptp_failAt
    | with_reducible apply keptp_appendScale
    | with_reducible apply keptp_appendRow
    | with_reducible apply KeptProg.foldlM
    | split
    | lift_lets -underBinder
    | with_reducible refine KeptProg.app (by assumption)
    | dsimp only

theorem keptp_kvAppendProg  : KeptProg (kvAppendProg) := by
  unfold kvAppendProg
  repeat' first
    | with_reducible assumption
    | with_reducible exact KeptProg.pure _
    | with_reducible apply KeptProg.bind
    | (intro x; clear_value x)
    | (intro x)
    | with_reducible apply keptp_entryBytes
    | with_reducible apply keptp_demand
    | with_reducible apply keptp_readDesc
    | with_reducible apply keptp_readHeld
    | with_reducible apply keptp_appendBlock
    | with_reducible apply KeptProg.foldlM
    | lift_lets -underBinder
    | dsimp only

theorem keptp_readIndex (va : Nat) : KeptProg (readIndex va) := by
  unfold readIndex
  repeat' first
    | with_reducible assumption
    | with_reducible exact KeptProg.pure _
    | with_reducible apply KeptProg.bind
    | (intro x; refine KeptProg.cutJ x ?_ (fun k => ?_); rotate_left; clear_value x; rotate_left; subst x; try dsimp only)
    | (intro x)
    | with_reducible apply keptp_demand
    | with_reducible apply keptp_readBytes
    | with_reducible apply keptp_failNow
    | split
    | with_reducible refine KeptProg.app (by assumption)
    | dsimp only

theorem keptp_listHeader (x : Index) (b : List Byte) : KeptProg (listHeader x b) := by
  unfold listHeader
  repeat' first
    | with_reducible assumption
    | with_reducible exact KeptProg.pure _
    | with_reducible apply KeptProg.bind
    | (intro x; clear_value x)
    | (intro x)
    | with_reducible apply keptp_demand
    | lift_lets -underBinder
    | dsimp only

theorem keptp_readListHeader (x : Index) (l : Nat) : KeptProg (readListHeader x l) := by
  unfold readListHeader
  repeat' first
    | with_reducible assumption
    | with_reducible exact KeptProg.pure _
    | with_reducible apply KeptProg.bind
    | (intro x)
    | with_reducible apply keptp_listHeader
    | with_reducible apply keptp_readBytes
    | dsimp only

theorem keptp_readShared (list va : Nat) : KeptProg (readShared list va) := by
  unfold readShared
  repeat' first
    | with_reducible assumption
    | with_reducible exact KeptProg.pure _
    | with_reducible apply KeptProg.bind
    | (intro x; refine KeptProg.cutJ x ?_ (fun k => ?_); rotate_left; clear_value x; rotate_left; subst x; try dsimp only)
    | (intro x; refine Kept.cutG x ?_ (fun k => ?_); rotate_left; clear_value x; rotate_left; subst x)
    | (intro x; clear_value x)
    | (intro x)
    | with_reducible apply keptp_takeId
    | with_reducible apply keptp_theCmd
    | with_reducible apply keptp_theState
    | with_reducible apply keptp_change
    | with_reducible apply keptp_waitHere
    | with_reducible apply keptp_accessAs
    | with_reducible apply keptp_failAt
    | with_reducible apply kept_keepSeen
    | split
    | lift_lets -underBinder
    | with_reducible refine KeptProg.app (by assumption)
    | dsimp only

theorem keptp_bestLists (x : Index) (q : List F32) (n : Nat) : KeptProg (bestLists x q n) := by
  unfold bestLists
  repeat' first
    | with_reducible assumption
    | with_reducible exact KeptProg.pure _
    | with_reducible apply KeptProg.bind
    | (intro x; clear_value x)
    | (intro x)
    | with_reducible apply keptp_bytesBy
    | with_reducible apply keptp_readShared
    | with_reducible apply KeptProg.foldlM
    | lift_lets -underBinder
    | dsimp only

theorem keptp_readCentroid (x : Index) (j c : Nat) : KeptProg (readCentroid x j c) := by
  unfold readCentroid
  repeat' first
    | with_reducible assumption
    | with_reducible exact KeptProg.pure _
    | with_reducible apply KeptProg.bind
    | (intro x; clear_value x)
    | (intro x)
    | with_reducible apply keptp_readBytes
    | lift_lets -underBinder
    | dsimp only

theorem keptp_buildTable (x : Index) (q : List F32) : KeptProg (buildTable x q) := by
  unfold buildTable
  repeat' first
    | with_reducible assumption
    | with_reducible exact KeptProg.pure _
    | with_reducible apply KeptProg.bind
    | (intro x; clear_value x)
    | (intro x)
    | with_reducible apply keptp_readCentroid
    | with_reducible apply KeptProg.mapM
    | lift_lets -underBinder
    | dsimp only

theorem keptp_filterBit (va item : Nat) (ls : FilterLines) : KeptProg (filterBit va item ls) := by
  unfold filterBit
  repeat' first
    | with_reducible assumption
    | with_reducible exact KeptProg.pure _
    | with_reducible apply KeptProg.bind
    | (intro x; refine KeptProg.cutJ x ?_ (fun k => ?_); rotate_left; clear_value x; rotate_left; subst x; try dsimp only)
    | (intro x; clear_value x)
    | (intro x)
    | with_reducible apply keptp_readLine
    | split
    | lift_lets -underBinder
    | with_reducible refine KeptProg.app (by assumption)
    | dsimp only

theorem keptp_scanRecord (x : Index) (compat : Bool) (pin filter cap l : Nat) (h : Header) (dist : List Byte → F32) (st : Scan) (slot : Nat) (r : List Byte) : KeptProg (scanRecord x compat pin filter cap l h dist st slot r) := by
  unfold scanRecord
  repeat' first
    | with_reducible assumption
    | with_reducible exact KeptProg.pure _
    | with_reducible apply KeptProg.bind
    | (intro x; refine KeptProg.cutJ x ?_ (fun k => ?_); rotate_left; clear_value x; rotate_left; subst x; try dsimp only)
    | (intro x; clear_value x)
    | (intro x)
    | with_reducible apply keptp_filterBit
    | split
    | lift_lets -underBinder
    | with_reducible refine KeptProg.app (by assumption)
    | dsimp only

theorem keptp_countScanned (n : Nat) : KeptProg (countScanned n) := by
  unfold countScanned
  repeat' first
    | with_reducible assumption
    | with_reducible exact KeptProg.pure _
    | with_reducible apply KeptProg.bind
    | (intro x)
    | with_reducible apply keptp_onceDo
    | with_reducible apply kept_modBooth
    | dsimp only

theorem keptp_readRecords (x : Index) (l va n : Nat) : KeptProg (readRecords x l va n) := by
  unfold readRecords
  repeat' first
    | with_reducible assumption
    | with_reducible exact KeptProg.pure _
    | with_reducible apply KeptProg.bind
    | (intro x; refine KeptProg.cutJ x ?_ (fun k => ?_); rotate_left; clear_value x; rotate_left; subst x; try dsimp only)
    | (intro x; clear_value x)
    | (intro x)
    | with_reducible apply keptp_readShared
    | with_reducible apply keptp_countScanned
    | with_reducible apply keptp_takeId
    | with_reducible apply KeptProg.mapM
    | split
    | lift_lets -underBinder
    | with_reducible refine KeptProg.app (by assumption)
    | dsimp only

theorem keptp_scanList (x : Index) (compat : Bool) (pin filter cap : Nat) (dist : List Byte → F32) (st : Scan) (l : Nat) : KeptProg (scanList x compat pin filter cap dist st l) := by
  unfold scanList
  repeat' first
    | with_reducible assumption
    | with_reducible exact KeptProg.pure _
    | with_reducible apply KeptProg.bind
    | (intro x; clear_value x)
    | (intro x)
    | with_reducible apply keptp_listHeader
    | with_reducible apply keptp_bytesBy
    | with_reducible apply keptp_readShared
    | with_reducible apply keptp_readRecords
    | with_reducible apply keptp_scanRecord
    | with_reducible apply KeptProg.foldlM
    | lift_lets -underBinder
    | dsimp only

theorem keptp_readProbes (x : Index) (va n : Nat) : KeptProg (readProbes x va n) := by
  unfold readProbes
  repeat' first
    | with_reducible assumption
    | with_reducible exact KeptProg.pure _
    | with_reducible apply KeptProg.bind
    | (intro x; clear_value x)
    | (intro x)
    | with_reducible apply keptp_readBytes
    | with_reducible apply keptp_demand
    | lift_lets -underBinder
    | dsimp only

theorem keptp_rerankOne (x : Index) (q : List F32) (c : Cand) : KeptProg (rerankOne x q c) := by
  unfold rerankOne
  repeat' first
    | with_reducible assumption
    | with_reducible exact KeptProg.pure _
    | with_reducible apply KeptProg.bind
    | (intro x)
    | with_reducible apply keptp_readBytes
    | dsimp only

theorem keptp_batchWait  : KeptProg (batchWait) := by
  unfold batchWait
  repeat' first
    | with_reducible assumption
    | with_reducible exact KeptProg.pure _
    | with_reducible apply KeptProg.bind
    | (intro x; refine KeptProg.cutJ x ?_ (fun k => ?_); rotate_left; clear_value x; rotate_left; subst x; try dsimp only)
    | (intro x; clear_value x)
    | (intro x)
    | with_reducible apply keptp_theCmd
    | with_reducible apply keptp_theState
    | with_reducible apply keptp_waitHere
    | split
    | lift_lets -underBinder
    | with_reducible refine KeptProg.app (by assumption)
    | dsimp only

theorem keptp_asMember (f : Member → Member) : KeptProg (asMember f) := by
  unfold asMember
  repeat' first
    | with_reducible assumption
    | with_reducible exact KeptProg.pure _
    | with_reducible apply KeptProg.bind
    | (intro x; refine KeptProg.cutJ x ?_ (fun k => ?_); rotate_left; clear_value x; rotate_left; subst x; try dsimp only)
    | (intro x)
    | with_reducible apply keptp_onceDo
    | with_reducible apply kept_modBatch
    | split
    | with_reducible refine KeptProg.app (by assumption)
    | dsimp only

theorem keptp_untilMembers (ok : Cmd → Member → Bool) : KeptProg (untilMembers ok) := by
  unfold untilMembers
  repeat' first
    | with_reducible assumption
    | with_reducible exact KeptProg.pure _
    | with_reducible apply KeptProg.bind
    | (intro x; refine KeptProg.cutJ x ?_ (fun k => ?_); rotate_left; clear_value x; rotate_left; subst x; try dsimp only)
    | (intro x; refine Kept.cutG x ?_ (fun k => ?_); rotate_left; clear_value x; rotate_left; subst x)
    | (intro x; clear_value x)
    | (intro x)
    | with_reducible apply keptp_takeId
    | with_reducible apply keptp_theCmd
    | with_reducible apply keptp_theState
    | with_reducible apply keptp_change
    | with_reducible apply keptp_waitHere
    | with_reducible apply kept_keepSeen
    | split
    | lift_lets -underBinder
    | with_reducible refine KeptProg.app (by assumption)
    | dsimp only

theorem keptp_listScanned (l : Nat) : KeptProg (listScanned l) := by
  unfold listScanned
  repeat' first
    | with_reducible assumption
    | with_reducible exact KeptProg.pure _
    | with_reducible apply KeptProg.bind
    | (intro x; refine KeptProg.cutJ x ?_ (fun k => ?_); rotate_left; clear_value x; rotate_left; subst x; try dsimp only)
    | (intro x)
    | with_reducible apply keptp_onceDo
    | with_reducible apply keptp_asMember
    | with_reducible apply kept_batchReads
    | with_reducible apply kept_modBatch
    | split
    | with_reducible refine KeptProg.app (by assumption)
    | dsimp only

theorem keptp_metricRow (x : Index) (row : List F32) : KeptProg (metricRow x row) := by
  unfold metricRow
  repeat' first
    | with_reducible assumption
    | with_reducible exact KeptProg.pure _
    | with_reducible apply KeptProg.bind
    | (intro x; refine KeptProg.cutJ x ?_ (fun k => ?_); rotate_left; clear_value x; rotate_left; subst x; try dsimp only)
    | (intro x)
    | with_reducible apply keptp_failNow
    | split
    | with_reducible refine KeptProg.app (by assumption)
    | dsimp only

theorem keptp_readQuery (x : Index) (q : Nat) : KeptProg (readQuery x q) := by
  unfold readQuery
  repeat' first
    | with_reducible assumption
    | with_reducible exact KeptProg.pure _
    | with_reducible apply KeptProg.bind
    | (intro x; refine KeptProg.cutJ x ?_ (fun k => ?_); rotate_left; clear_value x; rotate_left; subst x; try dsimp only)
    | (intro x; clear_value x)
    | (intro x)
    | with_reducible apply keptp_metricRow
    | with_reducible apply keptp_readBytes
    | split
    | lift_lets -underBinder
    | with_reducible refine KeptProg.app (by assumption)
    | dsimp only

theorem keptp_searchLists (x : Index) (k pin filter : Nat) (row : List F32) (lists : List Nat) : KeptProg (searchLists x k pin filter row lists) := by
  unfold searchLists
  repeat' first
    | with_reducible assumption
    | with_reducible exact KeptProg.pure _
    | with_reducible apply KeptProg.bind
    | (intro x; refine KeptProg.cutJ x ?_ (fun k => ?_); rotate_left; clear_value x; rotate_left; subst x; try dsimp only)
    | (intro x; clear_value x)
    | (intro x)
    | with_reducible apply keptp_theState
    | with_reducible apply keptp_holdStream
    | with_reducible apply keptp_buildTable
    | with_reducible apply keptp_untilMembers
    | with_reducible apply keptp_scanList
    | with_reducible apply keptp_listScanned
    | with_reducible apply keptp_freeStream
    | with_reducible apply keptp_rerankOne
    | with_reducible apply KeptProg.foldlM
    | with_reducible apply KeptProg.mapM
    | split
    | lift_lets -underBinder
    | with_reducible refine KeptProg.app (by assumption)
    | dsimp only

theorem keptp_searchProg  : KeptProg (searchProg) := by
  unfold searchProg
  repeat' first
    | with_reducible assumption
    | with_reducible exact KeptProg.pure _
    | with_reducible apply KeptProg.bind
    | (intro x; refine KeptProg.cutJ x ?_ (fun k => ?_); rotate_left; clear_value x; rotate_left; subst x; try dsimp only)
    | (intro x; refine Kept.cutG x ?_ (fun k => ?_); rotate_left; clear_value x; rotate_left; subst x)
    | (intro x; clear_value x)
    | (intro x)
    | with_reducible apply keptp_entryBytes
    | with_reducible apply keptp_demand
    | with_reducible apply keptp_batchWait
    | with_reducible apply keptp_readIndex
    | with_reducible apply keptp_readQuery
    | with_reducible apply keptp_bestLists
    | with_reducible apply keptp_readProbes
    | with_reducible apply keptp_onceNat
    | with_reducible apply keptp_onceDo
    | with_reducible apply keptp_asMember
    | with_reducible apply keptp_searchLists
    | with_reducible apply keptp_writeLines
    | with_reducible apply kept_batchReads
    | with_reducible apply kept_wrote
    | split
    | lift_lets -underBinder
    | with_reducible refine KeptProg.app (by assumption)
    | dsimp only

theorem keptp_homeAtomic (last : Bool) (va op size a b : Nat) : KeptProg (homeAtomic last va op size a b) := by
  unfold homeAtomic
  repeat' first
    | with_reducible assumption
    | with_reducible exact KeptProg.pure _
    | with_reducible apply KeptProg.bind
    | (intro x; refine KeptProg.cutJ x ?_ (fun k => ?_); rotate_left; clear_value x; rotate_left; subst x; try dsimp only)
    | (intro x; clear_value x)
    | (intro x)
    | with_reducible apply keptp_access
    | with_reducible apply keptp_lastAccess
    | with_reducible apply keptp_waitHere
    | with_reducible apply keptp_failAt
    | split
    | lift_lets -underBinder
    | with_reducible refine KeptProg.app (by assumption)
    | dsimp only

theorem keptp_pqCode (x : Index) (j : Nat) (row : List F32) : KeptProg (pqCode x j row) := by
  unfold pqCode
  repeat' first
    | with_reducible assumption
    | with_reducible exact KeptProg.pure _
    | with_reducible apply KeptProg.bind
    | (intro x; refine KeptProg.cutJ x ?_ (fun k => ?_); rotate_left; clear_value x; rotate_left; subst x; try dsimp only)
    | (intro x; clear_value x)
    | (intro x)
    | with_reducible apply keptp_readCentroid
    | with_reducible apply KeptProg.foldlM
    | split
    | lift_lets -underBinder
    | with_reducible refine KeptProg.app (by assumption)
    | dsimp only

theorem keptp_countRefused  : KeptProg (countRefused) := by
  unfold countRefused
  repeat' first
    | with_reducible assumption
    | with_reducible exact KeptProg.pure _
    | with_reducible apply KeptProg.bind
    | (intro x)
    | with_reducible apply keptp_onceDo
    | with_reducible apply kept_modBooth
    | dsimp only

theorem keptp_insertOne (x : Index) (item list : Nat) (raw : List Byte) : KeptProg (insertOne x item list raw) := by
  unfold insertOne
  repeat' first
    | with_reducible assumption
    | with_reducible exact KeptProg.pure _
    | with_reducible apply KeptProg.bind
    | (intro x; refine KeptProg.cutJ x ?_ (fun k => ?_); rotate_left; clear_value x; rotate_left; subst x; try dsimp only)
    | (intro x; clear_value x)
    | (intro x)
    | with_reducible apply keptp_countRefused
    | with_reducible apply keptp_bestLists
    | with_reducible apply keptp_metricRow
    | with_reducible apply keptp_pqCode
    | with_reducible apply keptp_readListHeader
    | with_reducible apply keptp_homeAtomic
    | with_reducible apply keptp_writeSpan
    | with_reducible apply keptp_drain
    | with_reducible apply KeptProg.mapM
    | split
    | lift_lets -underBinder
    | with_reducible refine KeptProg.app (by assumption)
    | dsimp only

theorem keptp_searchInsertProg  : KeptProg (searchInsertProg) := by
  unfold searchInsertProg
  repeat' first
    | with_reducible assumption
    | with_reducible exact KeptProg.pure _
    | with_reducible apply KeptProg.bind
    | (intro x; refine KeptProg.cutJ x ?_ (fun k => ?_); rotate_left; clear_value x; rotate_left; subst x; try dsimp only)
    | (intro x; clear_value x)
    | (intro x)
    | with_reducible apply keptp_entryBytes
    | with_reducible apply keptp_demand
    | with_reducible apply keptp_readIndex
    | with_reducible apply keptp_readHeld
    | with_reducible apply keptp_insertOne
    | with_reducible apply keptp_writeSpan
    | with_reducible apply keptp_lastAccess
    | with_reducible apply keptp_drain
    | with_reducible apply KeptProg.mapM
    | split
    | lift_lets -underBinder
    | with_reducible refine KeptProg.app (by assumption)
    | dsimp only

theorem keptp_findRecord (x : Index) (item list slot : Nat) : KeptProg (findRecord x item list slot) := by
  unfold findRecord
  repeat' first
    | with_reducible assumption
    | with_reducible exact KeptProg.pure _
    | with_reducible apply KeptProg.bind
    | (intro x; refine KeptProg.cutJ x ?_ (fun k => ?_); rotate_left; clear_value x; rotate_left; subst x; try dsimp only)
    | (intro x; clear_value x)
    | (intro x)
    | with_reducible apply keptp_readListHeader
    | with_reducible apply keptp_readBytes
    | split
    | lift_lets -underBinder
    | with_reducible refine KeptProg.app (by assumption)
    | dsimp only

theorem keptp_searchDeleteProg  : KeptProg (searchDeleteProg) := by
  unfold searchDeleteProg
  repeat' first
    | with_reducible assumption
    | with_reducible exact KeptProg.pure _
    | with_reducible apply KeptProg.bind
    | (intro x; refine KeptProg.cutJ x ?_ (fun k => ?_); rotate_left; clear_value x; rotate_left; subst x; try dsimp only)
    | (intro x; clear_value x)
    | (intro x)
    | with_reducible apply keptp_entryBytes
    | with_reducible apply keptp_demand
    | with_reducible apply keptp_readIndex
    | with_reducible apply keptp_readHeld
    | with_reducible apply keptp_findRecord
    | with_reducible apply keptp_countRefused
    | with_reducible apply keptp_homeAtomic
    | with_reducible apply KeptProg.foldlM
    | split
    | lift_lets -underBinder
    | with_reducible refine KeptProg.app (by assumption)
    | dsimp only

theorem keptp_advanceEpoch (va base : Nat) : ∀ (z0 : Nat) (z1 : Nat), KeptProg (advanceEpoch va base z0 z1) := by
  intro z0 z1
  induction z0 generalizing z1
  case zero => 
    unfold advanceEpoch
    repeat' first
      | with_reducible assumption
      | with_reducible exact KeptProg.pure _
      | with_reducible apply KeptProg.bind
      | (intro x; refine KeptProg.cutJ x ?_ (fun k => ?_); rotate_left; clear_value x; rotate_left; subst x; try dsimp only)
      | (intro x; clear_value x)
      | (intro x)
      | with_reducible apply keptp_waitHere
      | with_reducible apply keptp_failNow
      | with_reducible apply keptp_homeAtomic
      | with_reducible apply ih
      | split
      | lift_lets -underBinder
      | with_reducible refine KeptProg.app (by assumption)
      | dsimp only
  case succ i ih =>
    unfold advanceEpoch
    repeat' first
      | with_reducible assumption
      | with_reducible exact KeptProg.pure _
      | with_reducible apply KeptProg.bind
      | (intro x; refine KeptProg.cutJ x ?_ (fun k => ?_); rotate_left; clear_value x; rotate_left; subst x; try dsimp only)
      | (intro x; clear_value x)
      | (intro x)
      | with_reducible apply keptp_waitHere
      | with_reducible apply keptp_failNow
      | with_reducible apply keptp_homeAtomic
      | with_reducible apply ih
      | split
      | lift_lets -underBinder
      | with_reducible refine KeptProg.app (by assumption)
      | dsimp only

theorem keptp_searchEpochAdvanceProg  : KeptProg (searchEpochAdvanceProg) := by
  unfold searchEpochAdvanceProg
  repeat' first
    | with_reducible assumption
    | with_reducible exact KeptProg.pure _
    | with_reducible apply KeptProg.bind
    | (intro x; clear_value x)
    | (intro x)
    | with_reducible apply keptp_entryBytes
    | with_reducible apply keptp_demand
    | with_reducible apply keptp_readIndex
    | with_reducible apply keptp_advanceEpoch
    | lift_lets -underBinder
    | dsimp only

theorem keptp_readRun (va : Nat) : KeptProg (readRun va) := by
  unfold readRun
  repeat' first
    | with_reducible assumption
    | with_reducible exact KeptProg.pure _
    | with_reducible apply KeptProg.bind
    | (intro x; clear_value x)
    | (intro x)
    | with_reducible apply keptp_readBytes
    | with_reducible apply keptp_demand
    | lift_lets -underBinder
    | dsimp only

theorem keptp_readStep (va : Nat) : KeptProg (readStep va) := by
  unfold readStep
  repeat' first
    | with_reducible assumption
    | with_reducible exact KeptProg.pure _
    | with_reducible apply KeptProg.bind
    | (intro x; clear_value x)
    | (intro x)
    | with_reducible apply keptp_readBytes
    | with_reducible apply keptp_demand
    | with_reducible apply keptp_counterOf
    | lift_lets -underBinder
    | dsimp only

theorem keptp_tellPass (steps : List Begun) (pass : Nat) : KeptProg (tellPass steps pass) := by
  unfold tellPass
  repeat' first
    | with_reducible assumption
    | with_reducible exact KeptProg.pure _
    | with_reducible apply KeptProg.bind
    | (intro x; refine Kept.cutG x ?_ (fun k => ?_); rotate_left; clear_value x; rotate_left; subst x)
    | (intro x; clear_value x)
    | (intro x)
    | with_reducible apply keptp_theCmd
    | with_reducible apply keptp_change
    | with_reducible apply kept_modCmd
    | lift_lets -underBinder
    | dsimp only

theorem keptp_awaitSteps (steps : List Begun) : KeptProg (awaitSteps steps) := by
  unfold awaitSteps
  repeat' first
    | with_reducible assumption
    | with_reducible exact KeptProg.pure _
    | with_reducible apply KeptProg.bind
    | (intro x; refine KeptProg.cutJ x ?_ (fun k => ?_); rotate_left; clear_value x; rotate_left; subst x; try dsimp only)
    | (intro x)
    | with_reducible apply keptp_theCmd
    | with_reducible apply keptp_waitHere
    | split
    | with_reducible refine KeptProg.app (by assumption)
    | dsimp only

theorem keptp_awaitPlace (ahead : Nat) (steps : List Begun) : KeptProg (awaitPlace ahead steps) := by
  unfold awaitPlace
  repeat' first
    | with_reducible assumption
    | with_reducible exact KeptProg.pure _
    | with_reducible apply KeptProg.bind
    | (intro x; refine KeptProg.cutJ x ?_ (fun k => ?_); rotate_left; clear_value x; rotate_left; subst x; try dsimp only)
    | (intro x; refine Kept.cutG x ?_ (fun k => ?_); rotate_left; clear_value x; rotate_left; subst x)
    | (intro x; clear_value x)
    | (intro x)
    | with_reducible apply keptp_takeId
    | with_reducible apply keptp_theCmd
    | with_reducible apply keptp_waitHere
    | with_reducible apply keptp_change
    | with_reducible apply kept_keepSeen
    | split
    | lift_lets -underBinder
    | with_reducible refine KeptProg.app (by assumption)
    | dsimp only

theorem keptp_awaitDue (ctr : Nat) (thr : Word) (limit : Nat) (steps : List Begun) : KeptProg (awaitDue ctr thr limit steps) := by
  unfold awaitDue
  repeat' first
    | with_reducible assumption
    | with_reducible exact KeptProg.pure _
    | with_reducible apply KeptProg.bind
    | (intro x; refine KeptProg.cutJ x ?_ (fun k => ?_); rotate_left; clear_value x; rotate_left; subst x; try dsimp only)
    | (intro x; refine Kept.cutG x ?_ (fun k => ?_); rotate_left; clear_value x; rotate_left; subst x)
    | (intro x; clear_value x)
    | (intro x)
    | with_reducible apply keptp_takeId
    | with_reducible apply keptp_theCmd
    | with_reducible apply keptp_theState
    | with_reducible apply keptp_change
    | with_reducible apply keptp_waitHere
    | with_reducible apply keptp_awaitSteps
    | with_reducible apply keptp_failNow
    | with_reducible apply kept_keepSeen
    | with_reducible apply kept_modOrder
    | split
    | lift_lets -underBinder
    | with_reducible refine KeptProg.app (by assumption)
    | dsimp only

theorem keptp_restOnce  : KeptProg (restOnce) := by
  unfold restOnce
  repeat' first
    | with_reducible assumption
    | with_reducible exact KeptProg.pure _
    | with_reducible apply KeptProg.bind
    | (intro x; refine KeptProg.cutJ x ?_ (fun k => ?_); rotate_left; clear_value x; rotate_left; subst x; try dsimp only)
    | (intro x; refine Kept.cutG x ?_ (fun k => ?_); rotate_left; clear_value x; rotate_left; subst x)
    | (intro x; clear_value x)
    | (intro x)
    | with_reducible apply keptp_takeId
    | with_reducible apply keptp_theCmd
    | with_reducible apply keptp_change
    | with_reducible apply keptp_waitHere
    | with_reducible apply kept_keepSeen
    | split
    | lift_lets -underBinder
    | with_reducible refine KeptProg.app (by assumption)
    | dsimp only

theorem keptp_runStep (prog : Nat) (h : RunHeader) (pass limit : Nat) (acc : RunSoFar) (i : Nat) : KeptProg (runStep prog h pass limit acc i) := by
  unfold runStep
  repeat' first
    | with_reducible assumption
    | with_reducible exact KeptProg.pure _
    | with_reducible apply KeptProg.bind
    | (intro x; clear_value x)
    | (intro x)
    | with_reducible apply keptp_tellPass
    | with_reducible apply keptp_readStep
    | with_reducible apply keptp_awaitPlace
    | with_reducible apply keptp_awaitDue
    | with_reducible apply keptp_attempt
    | with_reducible apply keptp_copyLines
    | lift_lets -underBinder
    | dsimp only

theorem keptp_runPasses (prog limit : Nat) : ∀ (z0 : Nat) (z1 : Nat) (z2 : RunSoFar), KeptProg (runPasses prog limit z0 z1 z2) := by
  intro z0 z1 z2
  induction z0 generalizing z1 z2
  case zero => 
    unfold runPasses
    repeat' first
      | with_reducible assumption
      | with_reducible exact KeptProg.pure _
      | with_reducible apply KeptProg.bind
      | (intro x; refine KeptProg.cutJ x ?_ (fun k => ?_); rotate_left; clear_value x; rotate_left; subst x; try dsimp only)
      | (intro x; clear_value x)
      | (intro x)
      | with_reducible apply keptp_tellPass
      | with_reducible apply keptp_readRun
      | with_reducible apply keptp_runStep
      | with_reducible apply keptp_restOnce
      | with_reducible apply KeptProg.foldlM
      | with_reducible apply ih
      | split
      | lift_lets -underBinder
      | with_reducible refine KeptProg.app (by assumption)
      | dsimp only
  case succ i ih =>
    unfold runPasses
    repeat' first
      | with_reducible assumption
      | with_reducible exact KeptProg.pure _
      | with_reducible apply KeptProg.bind
      | (intro x; refine KeptProg.cutJ x ?_ (fun k => ?_); rotate_left; clear_value x; rotate_left; subst x; try dsimp only)
      | (intro x; clear_value x)
      | (intro x)
      | with_reducible apply keptp_tellPass
      | with_reducible apply keptp_readRun
      | with_reducible apply keptp_runStep
      | with_reducible apply keptp_restOnce
      | with_reducible apply KeptProg.foldlM
      | with_reducible apply ih
      | split
      | lift_lets -underBinder
      | with_reducible refine KeptProg.app (by assumption)
      | dsimp only

theorem keptp_prefetchRunProg  : KeptProg (prefetchRunProg) := by
  unfold prefetchRunProg
  repeat' first
    | with_reducible assumption
    | with_reducible exact KeptProg.pure _
    | with_reducible apply KeptProg.bind
    | (intro x; refine KeptProg.cutJ x ?_ (fun k => ?_); rotate_left; clear_value x; rotate_left; subst x; try dsimp only)
    | (intro x; clear_value x)
    | (intro x)
    | with_reducible apply keptp_entryBytes
    | with_reducible apply keptp_demand
    | with_reducible apply keptp_tellPass
    | with_reducible apply keptp_readRun
    | with_reducible apply keptp_theCmd
    | with_reducible apply keptp_theState
    | with_reducible apply keptp_failNow
    | with_reducible apply keptp_runPasses
    | with_reducible apply keptp_lastAccess
    | with_reducible apply keptp_awaitSteps
    | with_reducible apply keptp_drain
    | split
    | lift_lets -underBinder
    | with_reducible refine KeptProg.app (by assumption)
    | dsimp only

theorem keptp_resolve (va : Nat) : KeptProg (resolve va) := by
  unfold resolve
  repeat' first
    | with_reducible assumption
    | with_reducible exact KeptProg.pure _
    | with_reducible apply KeptProg.bind
    | (intro x)
    | with_reducible apply keptp_resolveFor
    | dsimp only

theorem keptp_resolveRw (va : Nat) : KeptProg (resolveRw va) := by
  unfold resolveRw
  repeat' first
    | with_reducible assumption
    | with_reducible exact KeptProg.pure _
    | with_reducible apply KeptProg.bind
    | (intro x)
    | with_reducible apply keptp_resolveFor
    | dsimp only

theorem keptp_commitAccess (va : Nat) (b : List Byte) (ctr : Option Nat) : KeptProg (commitAccess va b ctr) := by
  unfold commitAccess
  repeat' first
    | with_reducible assumption
    | with_reducible exact KeptProg.pure _
    | with_reducible apply KeptProg.bind
    | (intro x; refine KeptProg.cutJ x ?_ (fun k => ?_); rotate_left; clear_value x; rotate_left; subst x; try dsimp only)
    | (intro x; clear_value x)
    | (intro x)
    | with_reducible apply keptp_access
    | with_reducible apply keptp_lastAccess
    | with_reducible apply keptp_waitHere
    | split
    | lift_lets -underBinder
    | with_reducible refine KeptProg.app (by assumption)
    | dsimp only

theorem keptp_publishProg  : KeptProg (publishProg) := by
  unfold publishProg
  repeat' first
    | with_reducible assumption
    | with_reducible exact KeptProg.pure _
    | with_reducible apply KeptProg.bind
    | (intro x; refine KeptProg.cutJ x ?_ (fun k => ?_); rotate_left; clear_value x; rotate_left; subst x; try dsimp only)
    | (intro x; clear_value x)
    | (intro x)
    | with_reducible apply keptp_entryBytes
    | with_reducible apply keptp_demand
    | with_reducible apply keptp_counterOf
    | with_reducible apply keptp_resolve
    | with_reducible apply keptp_theState
    | with_reducible apply keptp_failAt
    | with_reducible apply keptp_readLine
    | with_reducible apply keptp_copyLines
    | with_reducible apply keptp_drain
    | with_reducible apply keptp_theCmd
    | with_reducible apply keptp_commitAccess
    | with_reducible apply KeptProg.forM
    | with_reducible apply KeptProg.mapM
    | split
    | lift_lets -underBinder
    | with_reducible refine KeptProg.app (by assumption)
    | dsimp only

theorem keptp_pageHome (va size : Nat) : KeptProg (pageHome va size) := by
  unfold pageHome
  repeat' first
    | with_reducible assumption
    | with_reducible exact KeptProg.pure _
    | with_reducible apply KeptProg.bind
    | (intro x; refine KeptProg.cutJ x ?_ (fun k => ?_); rotate_left; clear_value x; rotate_left; subst x; try dsimp only)
    | (intro x; clear_value x)
    | (intro x)
    | with_reducible apply keptp_resolveRw
    | with_reducible apply keptp_theState
    | with_reducible apply keptp_failAt
    | with_reducible apply KeptProg.mapM
    | split
    | lift_lets -underBinder
    | with_reducible refine KeptProg.app (by assumption)
    | dsimp only

theorem keptp_hintProg.hintWait (page n h : Nat) : KeptProg (hintProg.hintWait page n h) := by
  unfold hintProg.hintWait
  repeat' first
    | with_reducible assumption
    | with_reducible exact KeptProg.pure _
    | with_reducible apply KeptProg.bind
    | (intro x; refine KeptProg.cutJ x ?_ (fun k => ?_); rotate_left; clear_value x; rotate_left; subst x; try dsimp only)
    | (intro x)
    | with_reducible apply keptp_theState
    | with_reducible apply keptp_waitHere
    | with_reducible apply keptp_failNow
    | with_reducible apply keptp_onceDo
    | with_reducible apply kept_setAttrs
    | split
    | with_reducible refine KeptProg.app (by assumption)
    | dsimp only

theorem keptp_hintProg  : KeptProg (hintProg) := by
  unfold hintProg
  repeat' first
    | with_reducible assumption
    | with_reducible exact KeptProg.pure _
    | with_reducible apply KeptProg.bind
    | (intro x; refine KeptProg.cutJ x ?_ (fun k => ?_); rotate_left; clear_value x; rotate_left; subst x; try dsimp only)
    | (intro x; refine Kept.cutG x ?_ (fun k => ?_); rotate_left; clear_value x; rotate_left; subst x)
    | (intro x; clear_value x)
    | (intro x)
    | with_reducible apply keptp_entryBytes
    | with_reducible apply keptp_demand
    | with_reducible apply keptp_pageHome
    | with_reducible apply keptp_once
    | with_reducible apply keptp_failNow
    | with_reducible apply keptp_hintProg.hintWait
    | with_reducible apply kept_setAttrs
    | split
    | lift_lets -underBinder
    | with_reducible refine KeptProg.app (by assumption)
    | dsimp only

theorem keptp_mirrorAccess (f : Cmd → Nat → State → State) (hf : ∀ c n (s0 s : State), Kept s0 s → Kept s0 (f c n s)) : KeptProg (mirrorAccess f) := by
  unfold mirrorAccess
  repeat' first
    | with_reducible assumption
    | with_reducible exact KeptProg.pure _
    | with_reducible apply KeptProg.bind
    | (intro x; refine KeptProg.cutJ x ?_ (fun k => ?_); rotate_left; clear_value x; rotate_left; subst x; try dsimp only)
    | (intro x; refine Kept.cutG x ?_ (fun k => ?_); rotate_left; clear_value x; rotate_left; subst x)
    | (intro x; clear_value x)
    | (intro x)
    | with_reducible apply keptp_takeId
    | with_reducible apply keptp_theCmd
    | with_reducible apply keptp_waitHere
    | with_reducible apply keptp_change
    | with_reducible apply keptp_access
    | with_reducible apply kept_modCmd
    | with_reducible apply hf
    | split
    | lift_lets -underBinder
    | with_reducible refine KeptProg.app (by assumption)
    | dsimp only

theorem keptp_openPair (g : Nat) : KeptProg (openPair g) := by
  unfold openPair
  repeat' first
    | with_reducible assumption
    | with_reducible exact KeptProg.pure _
    | with_reducible apply KeptProg.bind
    | (intro x; refine KeptProg.cutJ x ?_ (fun k => ?_); rotate_left; clear_value x; rotate_left; subst x; try dsimp only)
    | (intro x; refine Kept.cutG x ?_ (fun k => ?_); rotate_left; clear_value x; rotate_left; subst x)
    | (intro x; clear_value x)
    | (intro x)
    | with_reducible apply keptp_onceNat
    | with_reducible apply keptp_mirrorAccess
    | with_reducible apply keptp_onceDo
    | with_reducible apply keptp_failNow
    | with_reducible apply keptp_waitHere
    | with_reducible apply kept_modMirror
    | with_reducible apply kept_sendMirror
    | with_reducible apply kept_boothAnswer
    | split
    | lift_lets -underBinder
    | with_reducible refine KeptProg.app (by assumption)
    | dsimp only

theorem keptp_awaitLines (ls : State → List Nat) (f : Cmd → State → LineData × State) (hf : ∀ c (s0 s : State), Kept s0 s → Kept s0 (f c s).2) : KeptProg (awaitLines ls f) := by
  unfold awaitLines
  repeat' first
    | with_reducible assumption
    | with_reducible exact KeptProg.pure _
    | with_reducible apply KeptProg.bind
    | (intro x; refine KeptProg.cutJ x ?_ (fun k => ?_); rotate_left; clear_value x; rotate_left; subst x; try dsimp only)
    | (intro x; refine Kept.cutG x ?_ (fun k => ?_); rotate_left; clear_value x; rotate_left; subst x)
    | (intro x; clear_value x)
    | (intro x)
    | with_reducible apply keptp_takeId
    | with_reducible apply keptp_theCmd
    | with_reducible apply keptp_theState
    | with_reducible apply keptp_waitHere
    | with_reducible apply keptp_change
    | with_reducible apply kept_keepSeen
    | with_reducible apply hf
    | split
    | lift_lets -underBinder
    | with_reducible refine KeptProg.app (by assumption)
    | dsimp only

theorem keptp_awaitFree (ls : List Nat) (f : Cmd → State → LineData × State) (hf : ∀ c (s0 s : State), Kept s0 s → Kept s0 (f c s).2) : KeptProg (awaitFree ls f) := by
  unfold awaitFree
  repeat' first
    | with_reducible assumption
    | with_reducible exact KeptProg.pure _
    | with_reducible apply KeptProg.bind
    | (intro x)
    | with_reducible apply keptp_awaitLines
    | with_reducible apply hf
    | dsimp only

theorem keptp_awaitNat (ls : List Nat) (f : State → Nat) : KeptProg (awaitNat ls f) := by
  unfold awaitNat
  repeat' first
    | with_reducible assumption
    | with_reducible exact KeptProg.pure _
    | with_reducible apply KeptProg.bind
    | (intro x)
    | with_reducible apply keptp_awaitFree
    | dsimp only

theorem keptp_meetBars (fences : Bool) (ls : List Nat) : KeptProg (meetBars fences ls) := by
  unfold meetBars
  repeat' first
    | with_reducible assumption
    | with_reducible exact KeptProg.pure _
    | with_reducible apply KeptProg.bind
    | (intro x; refine KeptProg.cutJ x ?_ (fun k => ?_); rotate_left; clear_value x; rotate_left; subst x; try dsimp only)
    | (intro x; refine Kept.cutG x ?_ (fun k => ?_); rotate_left; clear_value x; rotate_left; subst x)
    | (intro x; clear_value x)
    | (intro x)
    | with_reducible apply keptp_once
    | with_reducible apply kept_eachS
    | with_reducible apply kept_keyMissingOf
    | split
    | lift_lets -underBinder
    | with_reducible refine KeptProg.app (by assumption)
    | dsimp only

theorem keptp_readSettled (fix : Bool) (lasting : Nat → BitVec 32 → State → State) (l : Nat) (hlasting : ∀ c n (s0 s : State), Kept s0 s → Kept s0 (lasting c n s)) : KeptProg (readSettled fix lasting l) := by
  unfold readSettled
  repeat' first
    | with_reducible assumption
    | with_reducible exact KeptProg.pure _
    | with_reducible apply KeptProg.bind
    | (intro x; refine KeptProg.cutJ x ?_ (fun k => ?_); rotate_left; clear_value x; rotate_left; subst x; try dsimp only)
    | (intro x; refine Kept.cutG x ?_ (fun k => ?_); rotate_left; clear_value x; rotate_left; subst x)
    | (intro x; clear_value x)
    | (intro x)
    | with_reducible apply keptp_awaitLines
    | with_reducible apply kept_settleRead
    | with_reducible apply hlasting
    | split
    | lift_lets -underBinder
    | with_reducible refine KeptProg.app (by assumption)
    | dsimp only

theorem keptp_poisonedOf (l : Nat) (ls : List Nat) : KeptProg (poisonedOf l ls) := by
  unfold poisonedOf
  repeat' first
    | with_reducible assumption
    | with_reducible exact KeptProg.pure _
    | with_reducible apply KeptProg.bind
    | (intro x; refine KeptProg.cutJ x ?_ (fun k => ?_); rotate_left; clear_value x; rotate_left; subst x; try dsimp only)
    | (intro x)
    | with_reducible apply keptp_awaitNat
    | split
    | with_reducible refine KeptProg.app (by assumption)
    | dsimp only

theorem keptp_settleOne (l : Nat) : KeptProg (settleOne l) := by
  unfold settleOne
  repeat' first
    | with_reducible assumption
    | with_reducible exact KeptProg.pure _
    | with_reducible apply KeptProg.bind
    | (intro x; refine Kept.cutG x ?_ (fun k => ?_); rotate_left; clear_value x; rotate_left; subst x)
    | (intro x; clear_value x)
    | (intro x)
    | with_reducible apply keptp_readSettled
    | with_reducible apply keptp_poisonedOf
    | with_reducible apply kept_settleLasting
    | lift_lets -underBinder
    | dsimp only

theorem keptp_moveOne (page base : Nat) (a : Moved) (l : Nat) : KeptProg (moveOne page base a l) := by
  unfold moveOne
  repeat' first
    | with_reducible assumption
    | with_reducible exact KeptProg.pure _
    | with_reducible apply KeptProg.bind
    | (intro x; refine KeptProg.cutJ x ?_ (fun k => ?_); rotate_left; clear_value x; rotate_left; subst x; try dsimp only)
    | (intro x; refine Kept.cutG x ?_ (fun k => ?_); rotate_left; clear_value x; rotate_left; subst x)
    | (intro x; clear_value x)
    | (intro x)
    | with_reducible apply keptp_onceNat
    | with_reducible apply keptp_meetBars
    | with_reducible apply keptp_failAt
    | with_reducible apply keptp_settleOne
    | with_reducible apply keptp_awaitFree
    | with_reducible apply keptp_tookEffect
    | with_reducible apply KeptProg.foldlM
    | with_reducible apply kept_moveBlock
    | split
    | lift_lets -underBinder
    | with_reducible refine KeptProg.app (by assumption)
    | dsimp only

theorem keptp_moveRun (page base last : Nat) : ∀ (z0 : Nat) (z1 : Nat) (z2 : Moved), KeptProg (moveRun page base last z0 z1 z2) := by
  intro z0 z1 z2
  induction z0 generalizing z1 z2
  case zero => 
    unfold moveRun
    repeat' first
      | with_reducible assumption
      | with_reducible exact KeptProg.pure _
      | with_reducible apply KeptProg.bind
      | (intro x; refine KeptProg.cutJ x ?_ (fun k => ?_); rotate_left; clear_value x; rotate_left; subst x; try dsimp only)
      | (intro x; refine Kept.cutG x ?_ (fun k => ?_); rotate_left; clear_value x; rotate_left; subst x)
      | (intro x; clear_value x)
      | (intro x)
      | with_reducible apply keptp_once
      | with_reducible apply keptp_tookEffect
      | with_reducible apply keptp_moveOne
      | with_reducible apply kept_passBlocks
      | with_reducible apply ih
      | split
      | lift_lets -underBinder
      | with_reducible refine KeptProg.app (by assumption)
      | dsimp only
  case succ i ih =>
    unfold moveRun
    repeat' first
      | with_reducible assumption
      | with_reducible exact KeptProg.pure _
      | with_reducible apply KeptProg.bind
      | (intro x; refine KeptProg.cutJ x ?_ (fun k => ?_); rotate_left; clear_value x; rotate_left; subst x; try dsimp only)
      | (intro x; refine Kept.cutG x ?_ (fun k => ?_); rotate_left; clear_value x; rotate_left; subst x)
      | (intro x; clear_value x)
      | (intro x)
      | with_reducible apply keptp_once
      | with_reducible apply keptp_tookEffect
      | with_reducible apply keptp_moveOne
      | with_reducible apply kept_passBlocks
      | with_reducible apply ih
      | split
      | lift_lets -underBinder
      | with_reducible refine KeptProg.app (by assumption)
      | dsimp only

theorem keptp_runMove (base page pages ptr : Nat) (x : MoveSum) : KeptProg (runMove base page pages ptr x) := by
  unfold runMove
  repeat' first
    | with_reducible assumption
    | with_reducible exact KeptProg.pure _
    | with_reducible apply KeptProg.bind
    | (intro x; refine KeptProg.cutJ x ?_ (fun k => ?_); rotate_left; clear_value x; rotate_left; subst x; try dsimp only)
    | (intro x; refine Kept.cutG x ?_ (fun k => ?_); rotate_left; clear_value x; rotate_left; subst x)
    | (intro x; clear_value x)
    | (intro x)
    | with_reducible apply keptp_moveRun
    | with_reducible apply keptp_once
    | with_reducible apply kept_endMove
    | split
    | lift_lets -underBinder
    | with_reducible refine KeptProg.app (by assumption)
    | dsimp only

theorem keptp_moveStart (page n : Nat) (a : PageAttr) : KeptProg (moveStart page n a) := by
  unfold moveStart
  repeat' first
    | with_reducible assumption
    | with_reducible exact KeptProg.pure _
    | with_reducible apply KeptProg.bind
    | (intro x; refine KeptProg.cutJ x ?_ (fun k => ?_); rotate_left; clear_value x; rotate_left; subst x; try dsimp only)
    | (intro x; refine Kept.cutG x ?_ (fun k => ?_); rotate_left; clear_value x; rotate_left; subst x)
    | (intro x; clear_value x)
    | (intro x)
    | with_reducible apply keptp_takeId
    | with_reducible apply keptp_theCmd
    | with_reducible apply keptp_theState
    | with_reducible apply keptp_change
    | with_reducible apply keptp_waitHere
    | with_reducible apply kept_keepSeen
    | with_reducible apply kept_modMoves
    | split
    | lift_lets -underBinder
    | with_reducible refine KeptProg.app (by assumption)
    | dsimp only

theorem keptp_moveOpen (page n : Nat) (fresh : Bool) : KeptProg (moveOpen page n fresh) := by
  refine ⟨fun s0 x h => ?_⟩
  have k := (keptp_openPair (groupOfPage page)).run s0 x h
  unfold moveOpen
  simp only [ExceptT.run, StateT.run] at *
  generalize openPair (groupOfPage page) x = r at *
  obtain ⟨a, y⟩ := r
  cases a with
  | ok a => exact k
  | error e =>
    cases e with
    | wait => exact k
    | fault c va =>
      cases fresh with
      | true =>
        simp only [if_true]
        exact kept_modMoves _ k
      | false => exact k

theorem keptp_moveAll (page n base : Nat) (a : PageAttr) : ∀ (z0 : Nat) (z1 : MoveSum), KeptProg (moveAll page n base a z0 z1) := by
  intro z0 z1
  induction z0 generalizing z1
  case zero => 
    unfold moveAll
    repeat' first
      | with_reducible assumption
      | with_reducible exact KeptProg.pure _
      | with_reducible apply KeptProg.bind
      | (intro x; refine KeptProg.cutJ x ?_ (fun k => ?_); rotate_left; clear_value x; rotate_left; subst x; try dsimp only)
      | (intro x; clear_value x)
      | (intro x)
      | with_reducible apply keptp_moveStart
      | with_reducible apply keptp_failNow
      | with_reducible apply keptp_moveOpen
      | with_reducible apply keptp_once
      | with_reducible apply keptp_runMove
      | with_reducible apply ih
      | split
      | lift_lets -underBinder
      | with_reducible refine KeptProg.app (by assumption)
      | dsimp only
  case succ i ih =>
    unfold moveAll
    repeat' first
      | with_reducible assumption
      | with_reducible exact KeptProg.pure _
      | with_reducible apply KeptProg.bind
      | (intro x; refine KeptProg.cutJ x ?_ (fun k => ?_); rotate_left; clear_value x; rotate_left; subst x; try dsimp only)
      | (intro x; clear_value x)
      | (intro x)
      | with_reducible apply keptp_moveStart
      | with_reducible apply keptp_failNow
      | with_reducible apply keptp_moveOpen
      | with_reducible apply keptp_once
      | with_reducible apply keptp_runMove
      | with_reducible apply ih
      | split
      | lift_lets -underBinder
      | with_reducible refine KeptProg.app (by assumption)
      | dsimp only

theorem keptp_tierMoveProg  : KeptProg (tierMoveProg) := by
  unfold tierMoveProg
  repeat' first
    | with_reducible assumption
    | with_reducible exact KeptProg.pure _
    | with_reducible apply KeptProg.bind
    | (intro x; refine KeptProg.cutJ x ?_ (fun k => ?_); rotate_left; clear_value x; rotate_left; subst x; try dsimp only)
    | (intro x; clear_value x)
    | (intro x)
    | with_reducible apply keptp_entryBytes
    | with_reducible apply keptp_demand
    | with_reducible apply keptp_pageHome
    | with_reducible apply keptp_moveAll
    | with_reducible apply keptp_failNow
    | split
    | lift_lets -underBinder
    | with_reducible refine KeptProg.app (by assumption)
    | dsimp only

theorem keptp_compareOne (l : Nat) (fix sweep : Bool) : KeptProg (compareOne l fix sweep) := by
  unfold compareOne
  repeat' first
    | with_reducible assumption
    | with_reducible exact KeptProg.pure _
    | with_reducible apply KeptProg.bind
    | (intro x; refine KeptProg.cutJ x ?_ (fun k => ?_); rotate_left; clear_value x; rotate_left; subst x; try dsimp only)
    | (intro x; refine Kept.cutG x ?_ (fun k => ?_); rotate_left; clear_value x; rotate_left; subst x)
    | (intro x; clear_value x)
    | (intro x)
    | with_reducible apply keptp_awaitLines
    | with_reducible apply keptp_mirrorAccess
    | with_reducible apply keptp_once
    | with_reducible apply kept_holdLine
    | with_reducible apply kept_homeRead
    | with_reducible apply kept_askPartner
    | with_reducible apply kept_freeLine
    | with_reducible apply kept_settlePair
    | split
    | lift_lets -underBinder
    | with_reducible refine KeptProg.app (by assumption)
    | dsimp only

theorem keptp_scrubRead (fix : Bool) (l : Nat) : KeptProg (scrubRead fix l) := by
  unfold scrubRead
  repeat' first
    | with_reducible assumption
    | with_reducible exact KeptProg.pure _
    | with_reducible apply KeptProg.bind
    | (intro x; refine KeptProg.cutJ x ?_ (fun k => ?_); rotate_left; clear_value x; rotate_left; subst x; try dsimp only)
    | (intro x; refine Kept.cutG x ?_ (fun k => ?_); rotate_left; clear_value x; rotate_left; subst x)
    | (intro x; clear_value x)
    | (intro x)
    | with_reducible apply keptp_readSettled
    | with_reducible apply keptp_poisonedOf
    | with_reducible apply kept_settleLasting
    | with_reducible apply kept_lastingLeft
    | split
    | lift_lets -underBinder
    | with_reducible refine KeptProg.app (by assumption)
    | dsimp only

theorem keptp_scrubPair (fix : Bool) (x : Scrub) (l a : Nat) (met : Bool) : KeptProg (scrubPair fix x l a met) := by
  unfold scrubPair
  repeat' first
    | with_reducible assumption
    | with_reducible exact KeptProg.pure _
    | with_reducible apply KeptProg.bind
    | (intro x; refine KeptProg.cutJ x ?_ (fun k => ?_); rotate_left; clear_value x; rotate_left; subst x; try dsimp only)
    | (intro x)
    | with_reducible apply keptp_compareOne
    | split
    | with_reducible refine KeptProg.app (by assumption)
    | dsimp only

theorem keptp_scrubLine (fix compare : Bool) (x : Scrub) (l : Nat) : KeptProg (scrubLine fix compare x l) := by
  unfold scrubLine
  repeat' first
    | with_reducible assumption
    | with_reducible exact KeptProg.pure _
    | with_reducible apply KeptProg.bind
    | (intro x; refine KeptProg.cutJ x ?_ (fun k => ?_); rotate_left; clear_value x; rotate_left; subst x; try dsimp only)
    | (intro x; clear_value x)
    | (intro x)
    | with_reducible apply keptp_meetBars
    | with_reducible apply keptp_failNow
    | with_reducible apply keptp_theState
    | with_reducible apply keptp_awaitNat
    | with_reducible apply keptp_scrubRead
    | with_reducible apply keptp_tookEffect
    | with_reducible apply keptp_onceNat
    | with_reducible apply keptp_scrubPair
    | split
    | lift_lets -underBinder
    | with_reducible refine KeptProg.app (by assumption)
    | dsimp only

theorem keptp_scrubProg  : KeptProg (scrubProg) := by
  unfold scrubProg
  repeat' first
    | with_reducible assumption
    | with_reducible exact KeptProg.pure _
    | with_reducible apply KeptProg.bind
    | (intro x; refine KeptProg.cutJ x ?_ (fun k => ?_); rotate_left; clear_value x; rotate_left; subst x; try dsimp only)
    | (intro x; clear_value x)
    | (intro x)
    | with_reducible apply keptp_entryBytes
    | with_reducible apply keptp_demand
    | with_reducible apply keptp_theCmd
    | with_reducible apply keptp_onceNat
    | with_reducible apply keptp_failNow
    | with_reducible apply keptp_theState
    | with_reducible apply keptp_waitHere
    | with_reducible apply keptp_scrubLine
    | with_reducible apply keptp_writeTo
    | with_reducible apply keptp_freeWord
    | with_reducible apply KeptProg.foldlM
    | split
    | lift_lets -underBinder
    | with_reducible refine KeptProg.app (by assumption)
    | dsimp only

theorem keptp_openDone (st : Status) : KeptProg (openDone st) := by
  unfold openDone
  repeat' first
    | with_reducible assumption
    | with_reducible exact KeptProg.pure _
    | with_reducible apply KeptProg.bind
    | (intro x; clear_value x)
    | (intro x)
    | with_reducible apply keptp_freeWord
    | lift_lets -underBinder
    | dsimp only

theorem keptp_resyncStart (g : Nat) : KeptProg (resyncStart g) := by
  unfold resyncStart
  repeat' first
    | with_reducible assumption
    | with_reducible exact KeptProg.pure _
    | with_reducible exact keptp_get
    | with_reducible apply KeptProg.bind
    | (intro x; refine KeptProg.cutJ x ?_ (fun k => ?_); rotate_left; clear_value x; rotate_left; subst x; try dsimp only)
    | (intro x; refine Kept.cutG x ?_ (fun k => ?_); rotate_left; clear_value x; rotate_left; subst x)
    | (intro x; clear_value x)
    | (intro x)
    | with_reducible apply keptp_takeId
    | with_reducible apply keptp_theCmd
    | with_reducible apply keptp_theState
    | with_reducible apply keptp_failNow
    | with_reducible apply keptp_waitHere
    | with_reducible apply keptp_change
    | with_reducible apply kept_keepSeen
    | with_reducible apply kept_modMirror
    | split
    | lift_lets -underBinder
    | with_reducible refine KeptProg.app (by assumption)
    | dsimp only

theorem keptp_resyncOpen (g line : Nat) (st : Pair) : KeptProg (resyncOpen g line st) := by
  unfold resyncOpen
  repeat' first
    | with_reducible assumption
    | with_reducible exact KeptProg.pure _
    | with_reducible apply KeptProg.bind
    | (intro x; refine KeptProg.cutJ x ?_ (fun k => ?_); rotate_left; clear_value x; rotate_left; subst x; try dsimp only)
    | (intro x; refine Kept.cutG x ?_ (fun k => ?_); rotate_left; clear_value x; rotate_left; subst x)
    | (intro x; clear_value x)
    | (intro x)
    | with_reducible apply keptp_mirrorAccess
    | with_reducible apply keptp_failNow
    | with_reducible apply keptp_waitHere
    | with_reducible apply kept_sendMirror
    | with_reducible apply kept_targetDead
    | split
    | lift_lets -underBinder
    | with_reducible refine KeptProg.app (by assumption)
    | dsimp only

theorem keptp_sweepLine (l : Nat) : KeptProg (sweepLine l) := by
  unfold sweepLine
  repeat' first
    | with_reducible assumption
    | with_reducible exact KeptProg.pure _
    | with_reducible apply KeptProg.bind
    | (intro x; refine KeptProg.cutJ x ?_ (fun k => ?_); rotate_left; clear_value x; rotate_left; subst x; try dsimp only)
    | (intro x; refine Kept.cutG x ?_ (fun k => ?_); rotate_left; clear_value x; rotate_left; subst x)
    | (intro x; clear_value x)
    | (intro x)
    | with_reducible apply keptp_meetBars
    | with_reducible apply keptp_failNow
    | with_reducible apply keptp_readSettled
    | with_reducible apply keptp_awaitFree
    | with_reducible apply kept_settleLasting
    | with_reducible apply kept_modHome
    | with_reducible apply kept_sendHome
    | split
    | lift_lets -underBinder
    | with_reducible refine KeptProg.app (by assumption)
    | dsimp only

theorem keptp_resyncLine (g : Nat) (fromHome mended : Bool) (l : Nat) : KeptProg (resyncLine g fromHome mended l) := by
  unfold resyncLine
  repeat' first
    | with_reducible assumption
    | with_reducible exact KeptProg.pure _
    | with_reducible apply KeptProg.bind
    | (intro x; refine KeptProg.cutJ x ?_ (fun k => ?_); rotate_left; clear_value x; rotate_left; subst x; try dsimp only)
    | (intro x; refine Kept.cutG x ?_ (fun k => ?_); rotate_left; clear_value x; rotate_left; subst x)
    | (intro x; clear_value x)
    | (intro x)
    | with_reducible apply keptp_onceNat
    | with_reducible apply keptp_sweepLine
    | with_reducible apply keptp_meetBars
    | with_reducible apply keptp_failNow
    | with_reducible apply keptp_compareOne
    | with_reducible apply keptp_awaitFree
    | with_reducible apply kept_targetDead
    | split
    | lift_lets -underBinder
    | with_reducible refine KeptProg.app (by assumption)
    | dsimp only

theorem keptp_mirrorResyncProg  : KeptProg (mirrorResyncProg) := by
  unfold mirrorResyncProg
  repeat' first
    | with_reducible assumption
    | with_reducible exact KeptProg.pure _
    | with_reducible apply KeptProg.bind
    | (intro x; refine KeptProg.cutJ x ?_ (fun k => ?_); rotate_left; clear_value x; rotate_left; subst x; try dsimp only)
    | (intro x; refine Kept.cutG x ?_ (fun k => ?_); rotate_left; clear_value x; rotate_left; subst x)
    | (intro x; clear_value x)
    | (intro x)
    | with_reducible apply keptp_entryBytes
    | with_reducible apply keptp_demand
    | with_reducible apply keptp_onceNat
    | with_reducible apply keptp_failNow
    | with_reducible apply keptp_resyncStart
    | with_reducible apply keptp_tookEffect
    | with_reducible apply keptp_resyncOpen
    | with_reducible apply keptp_resyncLine
    | with_reducible apply keptp_onceDo
    | with_reducible apply keptp_openDone
    | with_reducible apply KeptProg.foldlM
    | with_reducible apply kept_modMirror
    | split
    | lift_lets -underBinder
    | with_reducible refine KeptProg.app (by assumption)
    | dsimp only

theorem keptp_mirrorPromoteProg.promoteDrain (queued : State → Bool) : KeptProg (mirrorPromoteProg.promoteDrain queued) := by
  unfold mirrorPromoteProg.promoteDrain
  repeat' first
    | with_reducible assumption
    | with_reducible exact KeptProg.pure _
    | with_reducible apply KeptProg.bind
    | (intro x; refine KeptProg.cutJ x ?_ (fun k => ?_); rotate_left; clear_value x; rotate_left; subst x; try dsimp only)
    | (intro x; refine Kept.cutG x ?_ (fun k => ?_); rotate_left; clear_value x; rotate_left; subst x)
    | (intro x; clear_value x)
    | (intro x)
    | with_reducible apply keptp_takeId
    | with_reducible apply keptp_theCmd
    | with_reducible apply keptp_theState
    | with_reducible apply keptp_waitHere
    | with_reducible apply keptp_change
    | with_reducible apply kept_keepSeen
    | split
    | lift_lets -underBinder
    | with_reducible refine KeptProg.app (by assumption)
    | dsimp only

theorem keptp_mirrorPromoteProg  : KeptProg (mirrorPromoteProg) := by
  unfold mirrorPromoteProg
  repeat' first
    | with_reducible assumption
    | with_reducible exact KeptProg.pure _
    | with_reducible exact keptp_get
    | with_reducible apply KeptProg.bind
    | (intro x; refine KeptProg.cutJ x ?_ (fun k => ?_); rotate_left; clear_value x; rotate_left; subst x; try dsimp only)
    | (intro x; refine Kept.cutG x ?_ (fun k => ?_); rotate_left; clear_value x; rotate_left; subst x)
    | (intro x; clear_value x)
    | (intro x)
    | with_reducible apply keptp_entryBytes
    | with_reducible apply keptp_demand
    | with_reducible apply keptp_onceNat
    | with_reducible apply keptp_failNow
    | with_reducible apply keptp_once
    | with_reducible apply keptp_openDone
    | with_reducible apply keptp_mirrorPromoteProg.promoteDrain
    | with_reducible apply keptp_onceDo
    | with_reducible apply keptp_tookEffect
    | with_reducible apply kept_modMirror
    | with_reducible apply kept_promote
    | split
    | lift_lets -underBinder
    | with_reducible refine KeptProg.app (by assumption)
    | dsimp only

end Sys2Proof.Machine
end

