-- ==== Sys2Proof/Laws/KeptCommands.lean ====
section
/-! SUPPORT. What the operations of Machine/Commands.lean keep (Kept). -/

namespace Sys2Proof.Machine

set_option linter.all false
set_option Elab.async false

theorem keptp_program {op : Nat} {p : Prog Done} (e : program op = some p) : KeptProg p := by
  unfold program at e
  split at e <;> cases e
  · exact keptp_nopProg
  · exact keptp_fillProg
  · exact keptp_copyProg
  · exact keptp_compareProg
  · exact keptp_reduceProg _
  · exact keptp_reduceProg _
  · exact keptp_attnDecodeProg
  · exact keptp_attnMergeProg
  · exact keptp_kvAppendProg
  · exact keptp_searchProg
  · exact keptp_searchInsertProg
  · exact keptp_searchDeleteProg
  · exact keptp_searchEpochAdvanceProg
  · exact keptp_prefetchRunProg
  · exact keptp_tierMoveProg
  · exact keptp_hintProg
  · exact keptp_publishProg
  · exact keptp_scrubProg
  · exact keptp_mirrorResyncProg
  · exact keptp_mirrorPromoteProg
  · exact keptp_counterWaitProg
  · exact keptp_fenceProg
  · exact keptp_atomicProg

theorem kept_runProgram {s0 : State} {p : Prog Done} (hp : KeptProg p) (q n : Nat) {s : State} (hK : Kept s0 s) : Kept s0 (runProgram p q n s).2.s :=
  hp.run s0 _ hK

theorem kept_runCmd {s0 : State} (c : Cmd) {s : State} (hK : Kept s0 s) : Kept s0 (runCmd c s) := by
  unfold runCmd
  split
  · exact hK
  · rename_i p e
    have k := kept_runProgram (keptp_program e) c.qp c.count hK
    generalize runProgram p c.qp c.count s = r at k
    obtain ⟨a, x⟩ := r
    cases a with
    | ok d => exact kept_closeCmd _ _ (kept_modCmd _ _ _ k)
    | error h =>
      cases h with
      | wait => exact k
      | fault st va => exact kept_closeCmd _ _ (kept_payPoison _ _ (kept_faultCmd _ _ _ _ k))

theorem kept_advance {s0 : State} (q n : Nat) {s : State}  (hK : Kept s0 s) : Kept s0 (advance q n s) := by
  unfold advance
  repeat' first
    | with_reducible assumption
    | with_reducible apply kept_closeCmd
    | with_reducible apply kept_payPoison
    | with_reducible apply kept_runCmd
    | split

theorem kept_closeBatch {s0 : State} (b : Nat) {s : State}  (hK : Kept s0 s) : Kept s0 (closeBatch b s) := by
  unfold closeBatch
  repeat' first
    | with_reducible assumption
    | (intro x; refine Kept.cut (s0 := s0) x ?_ (fun k => ?_); rotate_left; clear_value x; rotate_left; subst x)
    | (intro x; clear_value x)
    | (intro x)
    | with_reducible apply kept_modBooth
    | with_reducible apply kept_wrote
    | with_reducible apply kept_eachS
    | with_reducible apply kept_advance
    | split
    | lift_lets -underBinder

theorem kept_forgetBatches {s0 : State} (b : Nat) {s : State}  (hK : Kept s0 s) : Kept s0 (forgetBatches b s) := by
  unfold forgetBatches
  repeat' first
    | with_reducible assumption
    | (intro x; refine Kept.cut (s0 := s0) x ?_ (fun k => ?_); rotate_left; clear_value x; rotate_left; subst x)
    | (intro x; clear_value x)
    | (intro x)
    | with_reducible apply kept_modBooth

theorem kept_joinBatch {s0 : State} (c : Cmd) {s : State}  (hK : Kept s0 s) : Kept s0 (joinBatch c s) := by
  unfold joinBatch
  repeat' first
    | with_reducible assumption
    | (intro x; refine Kept.cut (s0 := s0) x ?_ (fun k => ?_); rotate_left; clear_value x; rotate_left; subst x)
    | (intro x; clear_value x)
    | (intro x)
    | with_reducible apply kept_closeBatch
    | with_reducible apply kept_modBooth
    | with_reducible apply kept_whenS
    | split
    | lift_lets -underBinder

theorem kept_begin_ {s0 : State} (c : Cmd) {s : State}  (hK : Kept s0 s) : Kept s0 (begin_ c s) := by
  unfold begin_
  repeat' first
    | with_reducible assumption
    | (intro x; refine Kept.cut (s0 := s0) x ?_ (fun k => ?_); rotate_left; clear_value x; rotate_left; subst x)
    | (intro x; clear_value x)
    | (intro x)
    | with_reducible apply kept_modCmd
    | with_reducible apply kept_modBooth
    | with_reducible apply kept_whenS
    | with_reducible apply kept_joinBatch
    | split
    | lift_lets -underBinder
    | with_reducible exact Kept.of_eq k rfl rfl rfl
    | with_reducible exact Kept.of_eq hK rfl rfl rfl

theorem kept_boothStep {s0 : State} (op : Nat) (r : CmdRef) {s : State}  (hK : Kept s0 s) : Kept s0 (boothStep op r s) := by
  unfold boothStep
  repeat' first
    | with_reducible assumption
    | (intro x; refine Kept.cut (s0 := s0) x ?_ (fun k => ?_); rotate_left; clear_value x; rotate_left; subst x)
    | (intro x; clear_value x)
    | (intro x)
    | with_reducible apply kept_begin_
    | with_reducible apply kept_settle
    | with_reducible apply kept_forgetBatches
    | with_reducible apply kept_advance
    | split
    | lift_lets -underBinder

theorem kept_takeEntry {s0 : State} (c : Cmd) (d : LineData) {s : State}  (hK : Kept s0 s) : Kept s0 (takeEntry c d s) := by
  unfold takeEntry
  repeat' first
    | with_reducible assumption
    | (intro x; refine Kept.cut (s0 := s0) x ?_ (fun k => ?_); rotate_left; clear_value x; rotate_left; subst x)
    | (intro x; clear_value x)
    | (intro x)
    | with_reducible apply kept_modQp
    | with_reducible apply kept_nextHead
    | with_reducible apply kept_modCmd
    | with_reducible apply kept_closeCmd
    | with_reducible apply kept_faultCmd
    | split
    | lift_lets -underBinder

theorem kept_shareEntries {s0 : State} (c : Cmd) (as : List Fetched) {s : State}  (hK : Kept s0 s) : Kept s0 (shareEntries c as s) := by
  unfold shareEntries
  repeat' first
    | with_reducible assumption
    | (intro x; refine Kept.cut (s0 := s0) x ?_ (fun k => ?_); rotate_left; clear_value x; rotate_left; subst x)
    | (intro x; clear_value x)
    | (intro x)
    | with_reducible apply kept_eachS
    | with_reducible apply kept_modCmd

theorem kept_entryCame {s0 : State} (c : Cmd) (a : Fetched) {s : State}  (hK : Kept s0 s) : Kept s0 (entryCame c a s) := by
  unfold entryCame
  repeat' first
    | with_reducible assumption
    | (intro x; refine Kept.cut (s0 := s0) x ?_ (fun k => ?_); rotate_left; clear_value x; rotate_left; subst x)
    | (intro x; clear_value x)
    | (intro x)
    | with_reducible apply kept_modCmd
    | with_reducible apply kept_takeEntry
    | with_reducible apply kept_fetchFailed
    | split
    | lift_lets -underBinder

theorem kept_fetchEntry {s0 : State} (q : Nat) {s : State}  (hK : Kept s0 s) : Kept s0 (fetchEntry q s) := by
  unfold fetchEntry
  repeat' first
    | with_reducible assumption
    | (intro x; refine Kept.cutF (s0 := s0) x ?_ (fun k => ?_); rotate_left; clear_value x; rotate_left; subst x; intro u hu; try dsimp only)
    | (intro x; refine Kept.cutF1 (s0 := s0) x ?_ (fun k => ?_); rotate_left; clear_value x; rotate_left; subst x; intro a u hu; try dsimp only)
    | (intro x; refine Kept.cutF2 (s0 := s0) x ?_ (fun k => ?_); rotate_left; clear_value x; rotate_left; subst x; intro a b u hu; try dsimp only)
    | (intro x; refine Kept.cut (s0 := s0) x ?_ (fun k => ?_); rotate_left; clear_value x; rotate_left; subst x)
    | (intro x; clear_value x)
    | (intro x)
    | with_reducible apply kept_serve
    | with_reducible apply kept_eachS
    | with_reducible apply kept_modCmd
    | with_reducible apply kept_entryCame
    | with_reducible apply kept_shareEntries
    | split
    | lift_lets -underBinder
    | refine Kept.app (by assumption) ?_
    | refine Kept.app1 (by assumption) ?_
    | refine Kept.app2 (by assumption) ?_

theorem kept_qpGuard {s0 : State} (w : Writer) (q off : Nat) (v : Nat) (f : State → Wrote) {s : State} (hf : ∀  {u : State}, Kept s0 u → Kept s0 (f  u).2) (hK : Kept s0 s) : Kept s0 (qpGuard w q off v f s).2 := by
  unfold qpGuard
  repeat' first
    | with_reducible assumption
    | (intro x; refine Kept.cut (s0 := s0) x ?_ (fun k => ?_); rotate_left; clear_value x; rotate_left; subst x)
    | (intro x; clear_value x)
    | (intro x)
    | with_reducible apply kept_denyWrite
    | with_reducible refine kept_denyWrite_eq ?_ ‹_›
    | with_reducible apply hf
    | split

theorem kept_qpBell {s0 : State} (w : Writer) (q : Nat) (sq : Bool) (v : Nat) {s : State}  (hK : Kept s0 s) : Kept s0 (qpBell w q sq v s).2 := by
  unfold qpBell
  repeat' first
    | with_reducible assumption
    | (intro x; refine Kept.cut (s0 := s0) x ?_ (fun k => ?_); rotate_left; clear_value x; rotate_left; subst x)
    | (intro x; clear_value x)
    | (intro x)
    | with_reducible apply kept_denyWrite
    | with_reducible apply kept_qpGuard
    | with_reducible apply kept_sqDoorbell
    | with_reducible apply kept_cqDoorbell
    | split
    | lift_lets -underBinder

theorem kept_qpControl {s0 : State} (w : Writer) (q action : Nat) {s : State}  (hK : Kept s0 s) : Kept s0 (qpControl w q action s).2 := by
  unfold qpControl
  repeat' first
    | with_reducible assumption
    | (intro x; refine Kept.cut (s0 := s0) x ?_ (fun k => ?_); rotate_left; clear_value x; rotate_left; subst x)
    | (intro x; clear_value x)
    | (intro x)
    | with_reducible apply kept_qpGuard
    | with_reducible apply kept_wrote
    | with_reducible apply kept_qpEnable
    | with_reducible apply kept_qpResult
    | with_reducible apply kept_qpDisable
    | with_reducible apply kept_qpAbort
    | with_reducible apply kept_qpReset
    | with_reducible apply kept_denyWrite
    | split

end Sys2Proof.Machine
end

