-- ==== Sys2Proof/Laws/KeptTenants.lean ====
section
/-! SUPPORT. What the operations of Machine/Tenants.lean keep (Kept). -/

namespace Sys2Proof.Machine

set_option linter.all false
set_option Elab.async false

theorem kept_emptyPartBufs {s0 : State} (p : Nat) {s : State}  (hK : Kept s0 s) : Kept s0 (emptyPartBufs p s) := by
  unfold emptyPartBufs
  repeat' first
    | with_reducible assumption
    | (intro x; refine Kept.cut (s0 := s0) x ?_ (fun k => ?_); rotate_left; clear_value x; rotate_left; subst x)
    | (intro x; clear_value x)
    | (intro x)
    | with_reducible apply kept_eachS
    | with_reducible apply kept_emptySiteBuf
    | with_reducible apply kept_emptyBoothBuf

theorem kept_haltWork {s0 : State} (p : Nat) {s : State}  (hK : Kept s0 s) : Kept s0 (haltWork p s) := by
  unfold haltWork
  repeat' first
    | with_reducible assumption
    | (intro x; refine Kept.cut (s0 := s0) x ?_ (fun k => ?_); rotate_left; clear_value x; rotate_left; subst x)
    | (intro x; clear_value x)
    | (intro x)
    | with_reducible apply kept_emptyPartBufs
    | with_reducible apply kept_eachS
    | with_reducible apply kept_abortQp

theorem kept_enterStopping {s0 : State} (p : Nat) {s : State}  (hK : Kept s0 s) : Kept s0 (enterStopping p s) := by
  unfold enterStopping
  repeat' first
    | with_reducible assumption
    | (intro x; refine Kept.cut (s0 := s0) x ?_ (fun k => ?_); rotate_left; clear_value x; rotate_left; subst x)
    | (intro x; clear_value x)
    | (intro x)
    | with_reducible apply kept_setPartSt
    | with_reducible apply kept_haltWork
    | with_reducible apply kept_modPart

theorem kept_enterFaulted {s0 : State} (p cause : Nat) {s : State}  (hK : Kept s0 s) : Kept s0 (enterFaulted p cause s) := by
  unfold enterFaulted
  repeat' first
    | with_reducible assumption
    | (intro x; refine Kept.cut (s0 := s0) x ?_ (fun k => ?_); rotate_left; clear_value x; rotate_left; subst x)
    | (intro x; clear_value x)
    | (intro x)
    | with_reducible apply kept_setPartSt
    | with_reducible apply kept_haltWork
    | with_reducible apply kept_modPart

theorem kept_enterStarting {s0 : State} (p : Nat) {s : State}  (hK : Kept s0 s) : Kept s0 (enterStarting p s) := by
  unfold enterStarting
  repeat' first
    | with_reducible assumption
    | (intro x; refine Kept.cut (s0 := s0) x ?_ (fun k => ?_); rotate_left; clear_value x; rotate_left; subst x)
    | (intro x; clear_value x)
    | (intro x)
    | with_reducible apply kept_setPartSt
    | with_reducible apply kept_modPart
    | with_reducible apply kept_wakePart
    | with_reducible apply kept_queueWake
    | split
    | lift_lets -underBinder

theorem kept_clearBooth {s0 : State} (b : Nat) {s : State}  (hK : Kept s0 s) : Kept s0 (clearBooth b s) := by
  unfold clearBooth
  repeat' first
    | with_reducible assumption
    | (intro x; refine Kept.cut (s0 := s0) x ?_ (fun k => ?_); rotate_left; clear_value x; rotate_left; subst x)
    | (intro x; clear_value x)
    | (intro x)
    | with_reducible apply kept_modBooth
    | with_reducible apply kept_modTlb
    | with_reducible apply kept_emptyBoothBuf

theorem kept_enterRunning {s0 : State} (p : Nat) {s : State}  (hK : Kept s0 s) : Kept s0 (enterRunning p s) := by
  unfold enterRunning
  repeat' first
    | with_reducible assumption
    | (intro x; refine Kept.cut (s0 := s0) x ?_ (fun k => ?_); rotate_left; clear_value x; rotate_left; subst x)
    | (intro x; clear_value x)
    | (intro x)
    | with_reducible apply kept_eachS
    | with_reducible apply kept_clearBooth
    | with_reducible apply kept_emptyPartBufs
    | with_reducible apply kept_openBank
    | with_reducible apply kept_setPartSt
    | with_reducible apply kept_modPart
    | split
    | lift_lets -underBinder

theorem kept_unassign {s0 : State} (p : Nat) {s : State}  (hK : Kept s0 s) : Kept s0 (unassign p s) := by
  unfold unassign
  repeat' first
    | with_reducible assumption
    | (intro x; refine Kept.cut (s0 := s0) x ?_ (fun k => ?_); rotate_left; clear_value x; rotate_left; subst x)
    | (intro x; clear_value x)
    | (intro x)
    | with_reducible apply kept_modQps
    | with_reducible apply kept_modPower
    | with_reducible apply kept_modRig
    | with_reducible apply kept_setPartSt
    | with_reducible apply kept_modPart
    | split
    | lift_lets -underBinder

theorem kept_resetBooths {s0 : State} (p : Nat) {s : State}  (hK : Kept s0 s) : Kept s0 (resetBooths p s) := by
  unfold resetBooths
  repeat' first
    | with_reducible assumption
    | (intro x; refine Kept.cut (s0 := s0) x ?_ (fun k => ?_); rotate_left; clear_value x; rotate_left; subst x)
    | (intro x; clear_value x)
    | (intro x)
    | with_reducible apply kept_eachS
    | with_reducible apply kept_modBooth
    | with_reducible apply kept_clearBooth
    | with_reducible apply kept_modQp
    | lift_lets -underBinder

theorem kept_quiesce {s0 : State} (p : Nat) {s : State}  (hK : Kept s0 s) : Kept s0 (quiesce p s) := by
  unfold quiesce
  repeat' first
    | with_reducible assumption
    | (intro x; refine Kept.cut (s0 := s0) x ?_ (fun k => ?_); rotate_left; clear_value x; rotate_left; subst x)
    | (intro x; clear_value x)
    | (intro x)
    | with_reducible apply kept_unassign
    | with_reducible apply kept_enterStarting
    | with_reducible apply kept_setPartSt
    | with_reducible apply kept_resetBooths
    | split
    | lift_lets -underBinder

theorem kept_partResult {s0 : State} (p r : Nat) {s : State}  (hK : Kept s0 s) : Kept s0 (partResult p r s) := by
  unfold partResult
  repeat' first
    | with_reducible assumption
    | (intro x; refine Kept.cut (s0 := s0) x ?_ (fun k => ?_); rotate_left; clear_value x; rotate_left; subst x)
    | (intro x; clear_value x)
    | (intro x)
    | with_reducible apply kept_modPart

theorem kept_partStart {s0 : State} (p : Nat) {s : State}  (hK : Kept s0 s) : Kept s0 (partStart p s) := by
  unfold partStart
  repeat' first
    | with_reducible assumption
    | (intro x; refine Kept.cut (s0 := s0) x ?_ (fun k => ?_); rotate_left; clear_value x; rotate_left; subst x)
    | (intro x; clear_value x)
    | (intro x)
    | with_reducible apply kept_partResult
    | with_reducible apply kept_enterStarting
    | with_reducible apply kept_modPart
    | split
    | lift_lets -underBinder

theorem kept_partStop {s0 : State} (p : Nat) {s : State}  (hK : Kept s0 s) : Kept s0 (partStop p s) := by
  unfold partStop
  repeat' first
    | with_reducible assumption
    | (intro x; refine Kept.cut (s0 := s0) x ?_ (fun k => ?_); rotate_left; clear_value x; rotate_left; subst x)
    | (intro x; clear_value x)
    | (intro x)
    | with_reducible apply kept_partResult
    | with_reducible apply kept_enterStopping
    | with_reducible apply kept_modPart
    | split
    | lift_lets -underBinder

theorem kept_partClearFault {s0 : State} (p : Nat) {s : State}  (hK : Kept s0 s) : Kept s0 (partClearFault p s) := by
  unfold partClearFault
  repeat' first
    | with_reducible assumption
    | (intro x; refine Kept.cut (s0 := s0) x ?_ (fun k => ?_); rotate_left; clear_value x; rotate_left; subst x)
    | (intro x; clear_value x)
    | (intro x)
    | with_reducible apply kept_partResult
    | with_reducible apply kept_setPartSt
    | with_reducible apply kept_modPart
    | split

theorem kept_partitionFault {s0 : State} (p cause loc : Nat) {s : State}  (hK : Kept s0 s) : Kept s0 (partitionFault p cause loc s) := by
  unfold partitionFault
  repeat' first
    | with_reducible assumption
    | (intro x; refine Kept.cutF (s0 := s0) x ?_ (fun k => ?_); rotate_left; clear_value x; rotate_left; subst x; intro u hu; try dsimp only)
    | (intro x; refine Kept.cutF1 (s0 := s0) x ?_ (fun k => ?_); rotate_left; clear_value x; rotate_left; subst x; intro a u hu; try dsimp only)
    | (intro x; refine Kept.cutF2 (s0 := s0) x ?_ (fun k => ?_); rotate_left; clear_value x; rotate_left; subst x; intro a b u hu; try dsimp only)
    | (intro x; refine Kept.cut (s0 := s0) x ?_ (fun k => ?_); rotate_left; clear_value x; rotate_left; subst x)
    | (intro x; clear_value x)
    | (intro x)
    | with_reducible apply kept_post
    | with_reducible apply kept_enterFaulted
    | split
    | lift_lets -underBinder
    | refine Kept.app (by assumption) ?_
    | refine Kept.app1 (by assumption) ?_
    | refine Kept.app2 (by assumption) ?_

theorem kept_faultAll {s0 : State} (cause : Nat) {s : State}  (hK : Kept s0 s) : Kept s0 (faultAll cause s) := by
  unfold faultAll
  repeat' first
    | with_reducible assumption
    | (intro x; refine Kept.cut (s0 := s0) x ?_ (fun k => ?_); rotate_left; clear_value x; rotate_left; subst x)
    | (intro x; clear_value x)
    | (intro x)
    | with_reducible apply kept_eachS
    | with_reducible apply kept_enterFaulted

theorem kept_paySuppressed {s0 : State} (loc : Nat) {s : State}  (hK : Kept s0 s) : Kept s0 (paySuppressed loc s) := by
  unfold paySuppressed
  repeat' first
    | with_reducible assumption
    | (intro x; refine Kept.cut (s0 := s0) x ?_ (fun k => ?_); rotate_left; clear_value x; rotate_left; subst x)
    | (intro x; clear_value x)
    | (intro x)
    | with_reducible apply kept_post
    | with_reducible apply kept_modBarker
    | split
    | lift_lets -underBinder

theorem kept_refillBarker {s0 : State} {s : State}  (hK : Kept s0 s) : Kept s0 (refillBarker s) := by
  unfold refillBarker
  repeat' first
    | with_reducible assumption
    | (intro x; refine Kept.cut (s0 := s0) x ?_ (fun k => ?_); rotate_left; clear_value x; rotate_left; subst x)
    | (intro x; clear_value x)
    | (intro x)
    | with_reducible apply kept_modBarker
    | with_reducible apply kept_eachS
    | with_reducible apply kept_paySuppressed
    | lift_lets -underBinder

end Sys2Proof.Machine
end

