-- ==== Sys2Proof/Laws/KeptRigging.lean ====
section
/-! SUPPORT. What the operations of Machine/Rigging.lean keep (Kept). -/

namespace Sys2Proof.Machine

set_option linter.all false
set_option Elab.async false

theorem kept_refuseImage {s0 : State} (e : Refuse) {s : State}  (hK : Kept s0 s) : Kept s0 (refuseImage e s) := by
  unfold refuseImage
  repeat' first
    | with_reducible assumption
    | (intro x; refine Kept.cut (s0 := s0) x ?_ (fun k => ?_); rotate_left; clear_value x; rotate_left; subst x)
    | (intro x; clear_value x)
    | (intro x)
    | with_reducible apply kept_modRig
    | with_reducible apply kept_post
    | lift_lets -underBinder

theorem kept_applySites {s0 : State} {s : State}  (hK : Kept s0 s) : Kept s0 (applySites s) := by
  unfold applySites
  repeat' first
    | with_reducible assumption
    | (intro x; refine Kept.cut (s0 := s0) x ?_ (fun k => ?_); rotate_left; clear_value x; rotate_left; subst x)
    | (intro x; clear_value x)
    | (intro x)
    | with_reducible apply kept_eachS
    | with_reducible apply kept_siteTrain
    | with_reducible apply kept_modSite
    | split

theorem kept_applyPorts {s0 : State} {s : State}  (hK : Kept s0 s) : Kept s0 (applyPorts s) := by
  unfold applyPorts
  repeat' first
    | with_reducible assumption
    | (intro x; refine Kept.cut (s0 := s0) x ?_ (fun k => ?_); rotate_left; clear_value x; rotate_left; subst x)
    | (intro x; clear_value x)
    | (intro x)
    | with_reducible apply kept_eachS
    | with_reducible apply kept_startTraining

theorem kept_startParts {s0 : State} {s : State}  (hK : Kept s0 s) : Kept s0 (startParts s) := by
  unfold startParts
  repeat' first
    | with_reducible assumption
    | (intro x; refine Kept.cutF (s0 := s0) x ?_ (fun k => ?_); rotate_left; clear_value x; rotate_left; subst x; intro u hu; try dsimp only)
    | (intro x; refine Kept.cutF1 (s0 := s0) x ?_ (fun k => ?_); rotate_left; clear_value x; rotate_left; subst x; intro a u hu; try dsimp only)
    | (intro x; refine Kept.cutF2 (s0 := s0) x ?_ (fun k => ?_); rotate_left; clear_value x; rotate_left; subst x; intro a b u hu; try dsimp only)
    | (intro x; refine Kept.cut (s0 := s0) x ?_ (fun k => ?_); rotate_left; clear_value x; rotate_left; subst x)
    | (intro x; clear_value x)
    | (intro x)
    | with_reducible apply kept_eachS
    | with_reducible apply kept_modPart
    | with_reducible apply kept_whenS
    | with_reducible apply kept_setPartSt
    | with_reducible apply kept_queueWake
    | with_reducible apply kept_enterFaulted
    | with_reducible apply kept_modPower
    | split
    | lift_lets -underBinder
    | refine Kept.app (by assumption) ?_
    | refine Kept.app1 (by assumption) ?_
    | refine Kept.app2 (by assumption) ?_

theorem kept_applyFull {s0 : State} (i : Image) (m : Maps) {s : State}  (hK : Kept s0 s) : Kept s0 (applyFull i m s) := by
  unfold applyFull
  repeat' first
    | with_reducible assumption
    | (intro x; refine Kept.cut (s0 := s0) x ?_ (fun k => ?_); rotate_left; clear_value x; rotate_left; subst x)
    | (intro x; clear_value x)
    | (intro x)
    | with_reducible apply kept_modRig
    | with_reducible apply kept_whenS
    | with_reducible apply kept_modHome
    | with_reducible apply kept_applyPorts
    | with_reducible apply kept_applySites
    | with_reducible apply kept_eachS
    | with_reducible apply kept_openBank
    | with_reducible apply kept_modMgmt
    | with_reducible apply kept_startParts
    | split
    | lift_lets -underBinder

theorem kept_presentImage {s0 : State} (t : Option Transport) (raw : List Byte) {s : State}  (hK : Kept s0 s) : Kept s0 (presentImage t raw s) := by
  unfold presentImage
  repeat' first
    | with_reducible assumption
    | (intro x; refine Kept.cut (s0 := s0) x ?_ (fun k => ?_); rotate_left; clear_value x; rotate_left; subst x)
    | (intro x; clear_value x)
    | (intro x)
    | with_reducible apply kept_refuseImage
    | with_reducible apply kept_applyFull
    | with_reducible apply kept_inOrder
    | with_reducible apply kept_wakePart
    | with_reducible apply kept_modPower
    | with_reducible apply kept_modRig
    | split
    | lift_lets -underBinder

theorem kept_takeImage {s0 : State} (t : Option Transport) (segment : Bool) (raw : List Byte) {s : State}  (hK : Kept s0 s) : Kept s0 (takeImage t segment raw s) := by
  unfold takeImage
  repeat' first
    | with_reducible assumption
    | (intro x; refine Kept.cut (s0 := s0) x ?_ (fun k => ?_); rotate_left; clear_value x; rotate_left; subst x)
    | (intro x; clear_value x)
    | (intro x)
    | with_reducible apply kept_settle
    | with_reducible apply kept_presentImage
    | with_reducible apply kept_refuseImage
    | split
    | lift_lets -underBinder

theorem kept_switchPart {s0 : State} (p : Nat) (enable : Bool) {s : State}  (hK : Kept s0 s) : Kept s0 (switchPart p enable s) := by
  unfold switchPart
  repeat' first
    | with_reducible assumption
    | (intro x; refine Kept.cutF (s0 := s0) x ?_ (fun k => ?_); rotate_left; clear_value x; rotate_left; subst x; intro u hu; try dsimp only)
    | (intro x; refine Kept.cutF1 (s0 := s0) x ?_ (fun k => ?_); rotate_left; clear_value x; rotate_left; subst x; intro a u hu; try dsimp only)
    | (intro x; refine Kept.cutF2 (s0 := s0) x ?_ (fun k => ?_); rotate_left; clear_value x; rotate_left; subst x; intro a b u hu; try dsimp only)
    | (intro x; refine Kept.cut (s0 := s0) x ?_ (fun k => ?_); rotate_left; clear_value x; rotate_left; subst x)
    | (intro x; clear_value x)
    | (intro x)
    | with_reducible apply kept_modPart
    | with_reducible apply kept_enterStarting
    | with_reducible apply kept_setPartSt
    | with_reducible apply kept_enterStopping
    | split
    | lift_lets -underBinder
    | refine Kept.app (by assumption) ?_
    | refine Kept.app1 (by assumption) ?_
    | refine Kept.app2 (by assumption) ?_

theorem kept_recheckRings {s0 : State} (p : Nat) {s : State}  (hK : Kept s0 s) : Kept s0 (recheckRings p s) := by
  unfold recheckRings
  repeat' first
    | with_reducible assumption
    | (intro x; refine Kept.cut (s0 := s0) x ?_ (fun k => ?_); rotate_left; clear_value x; rotate_left; subst x)
    | (intro x; clear_value x)
    | (intro x)
    | with_reducible apply kept_eachS
    | with_reducible apply kept_abortQp
    | lift_lets -underBinder

theorem kept_adjust {s0 : State} (old new : Maps) (p : Nat) {s : State}  (hK : Kept s0 s) : Kept s0 (adjust old new p s) := by
  unfold adjust
  repeat' first
    | with_reducible assumption
    | (intro x; refine Kept.cut (s0 := s0) x ?_ (fun k => ?_); rotate_left; clear_value x; rotate_left; subst x)
    | (intro x; clear_value x)
    | (intro x)
    | with_reducible apply kept_modPart
    | with_reducible apply kept_modPower
    | split
    | lift_lets -underBinder

theorem kept_switchSegment {s0 : State} (l : Loaded) {s : State}  (hK : Kept s0 s) : Kept s0 (switchSegment l s) := by
  unfold switchSegment
  repeat' first
    | with_reducible assumption
    | (intro x; refine Kept.cut (s0 := s0) x ?_ (fun k => ?_); rotate_left; clear_value x; rotate_left; subst x)
    | (intro x; clear_value x)
    | (intro x)
    | with_reducible apply kept_modQps
    | with_reducible apply kept_modRig
    | with_reducible apply kept_eachS
    | with_reducible apply kept_clearBooth
    | with_reducible apply kept_openBank
    | with_reducible apply kept_adjust
    | with_reducible apply kept_recheckRings
    | with_reducible apply kept_switchPart
    | with_reducible apply kept_post
    | lift_lets -underBinder

theorem kept_retire {s0 : State} (d : Drain) {s : State}  (hK : Kept s0 s) : Kept s0 (retire d s) := by
  unfold retire
  repeat' first
    | with_reducible assumption
    | (intro x; refine Kept.cut (s0 := s0) x ?_ (fun k => ?_); rotate_left; clear_value x; rotate_left; subst x)
    | (intro x; clear_value x)
    | (intro x)
    | with_reducible apply kept_modRig
    | with_reducible apply kept_modXlat
    | with_reducible apply kept_eachS
    | with_reducible apply kept_modBank
    | with_reducible apply kept_quiesce
    | with_reducible apply kept_modPart
    | lift_lets -underBinder

theorem kept_drainCmd {s0 : State} (d : Drain) (c : Cmd) {s : State}  (hK : Kept s0 s) : Kept s0 (drainCmd d c s) := by
  unfold drainCmd
  repeat' first
    | with_reducible assumption
    | (intro x; refine Kept.cut (s0 := s0) x ?_ (fun k => ?_); rotate_left; clear_value x; rotate_left; subst x)
    | (intro x; clear_value x)
    | (intro x)
    | with_reducible apply kept_modCmd
    | with_reducible apply kept_modOrder
    | with_reducible apply kept_modXlat
    | with_reducible apply kept_eachS
    | with_reducible apply kept_stopCmd
    | with_reducible apply kept_closeCmd
    | with_reducible apply kept_enterError
    | lift_lets -underBinder

theorem kept_clearGroup {s0 : State} (g : Nat) {s : State}  (hK : Kept s0 s) : Kept s0 (clearGroup g s) := by
  unfold clearGroup
  repeat' first
    | with_reducible assumption
    | exact fun _ => rfl
    | (intro x; refine Kept.cut (s0 := s0) x ?_ (fun k => ?_); rotate_left; clear_value x; rotate_left; subst x)
    | (intro x; clear_value x)
    | (intro x)
    | with_reducible apply kept_modForms
    | with_reducible apply kept_eachS
    | with_reducible apply kept_handOver
    | with_reducible apply kept_whenS
    | with_reducible apply kept_storeLine
    | with_reducible apply kept_modRig
    | split
    | lift_lets -underBinder

end Sys2Proof.Machine
end

