-- ==== Sys2Proof/Laws/KeptTestPort.lean ====
section
/-! SUPPORT. What the operations of Machine/TestPort.lean keep (Kept). -/

namespace Sys2Proof.Machine

set_option linter.all false
set_option Elab.async false

theorem kept_tapCycle {s0 : State} (p : TapPins) {s : State}  (hK : Kept s0 s) : Kept s0 (tapCycle p s) := by
  unfold tapCycle
  repeat' first
    | with_reducible assumption
    | (intro x; refine Kept.cut (s0 := s0) x ?_ (fun k => ?_); rotate_left; clear_value x; rotate_left; subst x)
    | (intro x; clear_value x)
    | (intro x)
    | with_reducible apply kept_modPower
    | with_reducible apply kept_emit
    | split
    | lift_lets -underBinder

end Sys2Proof.Machine
end

