-- ==== Sys2Proof/Laws/KeptPower.lean ====
section
/-! SUPPORT. What the operations of Machine/Power.lean keep (Kept). -/

namespace Sys2Proof.Machine

set_option linter.all false
set_option Elab.async false

theorem kept_setSref {s0 : State} (gs : List Nat) (b : Bool) {s : State}  (hK : Kept s0 s) : Kept s0 (setSref gs b s) := by
  unfold setSref
  repeat' first
    | with_reducible assumption
    | (intro x; refine Kept.cut (s0 := s0) x ?_ (fun k => ?_); rotate_left; clear_value x; rotate_left; subst x)
    | (intro x; clear_value x)
    | (intro x)
    | with_reducible apply kept_eachS
    | with_reducible apply kept_modStack

theorem kept_powerResult {s0 : State} (p r : Nat) {s : State}  (hK : Kept s0 s) : Kept s0 (powerResult p r s) := by
  unfold powerResult
  repeat' first
    | with_reducible assumption
    | (intro x; refine Kept.cut (s0 := s0) x ?_ (fun k => ?_); rotate_left; clear_value x; rotate_left; subst x)
    | (intro x; clear_value x)
    | (intro x)
    | with_reducible apply kept_modPart

theorem kept_askCurtain {s0 : State} (p : Nat) {s : State}  (hK : Kept s0 s) : Kept s0 (askCurtain p s) := by
  unfold askCurtain
  repeat' first
    | with_reducible assumption
    | (intro x; refine Kept.cut (s0 := s0) x ?_ (fun k => ?_); rotate_left; clear_value x; rotate_left; subst x)
    | (intro x; clear_value x)
    | (intro x)
    | with_reducible apply kept_powerResult
    | with_reducible apply kept_modPart
    | split
    | lift_lets -underBinder

theorem kept_askWake {s0 : State} (p : Nat) {s : State}  (hK : Kept s0 s) : Kept s0 (askWake p s) := by
  unfold askWake
  repeat' first
    | with_reducible assumption
    | with_reducible apply kept_powerResult
    | with_reducible apply kept_wakePart
    | split

theorem kept_enterCurtain {s0 : State} (p : Nat) {s : State}  (hK : Kept s0 s) : Kept s0 (enterCurtain p s) := by
  unfold enterCurtain
  repeat' first
    | with_reducible assumption
    | (intro x; refine Kept.cut (s0 := s0) x ?_ (fun k => ?_); rotate_left; clear_value x; rotate_left; subst x)
    | (intro x; clear_value x)
    | (intro x)
    | with_reducible apply kept_emptyPartBufs
    | with_reducible apply kept_eachS
    | with_reducible apply kept_hotClose
    | with_reducible apply kept_setSref
    | with_reducible apply kept_modPower
    | with_reducible apply kept_modPart
    | with_reducible apply kept_whenS
    | with_reducible apply kept_wakePart
    | lift_lets -underBinder

theorem kept_moveWakeList {s0 : State} (p : Nat) {s : State}  (hK : Kept s0 s) : Kept s0 (moveWakeList p s) := by
  unfold moveWakeList
  repeat' first
    | with_reducible assumption
    | (intro x; refine Kept.cut (s0 := s0) x ?_ (fun k => ?_); rotate_left; clear_value x; rotate_left; subst x)
    | (intro x; clear_value x)
    | (intro x)
    | with_reducible apply kept_eachS
    | with_reducible apply kept_modPort
    | with_reducible apply kept_bounce
    | lift_lets -underBinder

theorem kept_leaveCurtain {s0 : State} (p : Nat) {s : State}  (hK : Kept s0 s) : Kept s0 (leaveCurtain p s) := by
  unfold leaveCurtain
  repeat' first
    | with_reducible assumption
    | (intro x; refine Kept.cut (s0 := s0) x ?_ (fun k => ?_); rotate_left; clear_value x; rotate_left; subst x)
    | (intro x; clear_value x)
    | (intro x)
    | with_reducible apply kept_modPart
    | with_reducible apply kept_setSref
    | with_reducible apply kept_charge
    | with_reducible apply kept_moveWakeList
    | split
    | lift_lets -underBinder

theorem kept_askDark {s0 : State} {s : State}  (hK : Kept s0 s) : Kept s0 (askDark s) := by
  unfold askDark
  repeat' first
    | with_reducible assumption
    | (intro x; refine Kept.cut (s0 := s0) x ?_ (fun k => ?_); rotate_left; clear_value x; rotate_left; subst x)
    | (intro x; clear_value x)
    | (intro x)
    | with_reducible apply kept_modPower
    | split

theorem kept_queueDevice {s0 : State} {s : State}  (hK : Kept s0 s) : Kept s0 (queueDevice s) := by
  unfold queueDevice
  repeat' first
    | with_reducible assumption
    | with_reducible apply kept_queueWake

theorem kept_wakeDevice {s0 : State} (source : Nat) {s : State}  (hK : Kept s0 s) : Kept s0 (wakeDevice source s) := by
  unfold wakeDevice
  repeat' first
    | with_reducible assumption
    | (intro x; refine Kept.cut (s0 := s0) x ?_ (fun k => ?_); rotate_left; clear_value x; rotate_left; subst x)
    | (intro x; clear_value x)
    | (intro x)
    | with_reducible apply kept_modPower
    | with_reducible apply kept_queueDevice
    | split

theorem kept_flushDirectory {s0 : State} {s : State}  (hK : Kept s0 s) : Kept s0 (flushDirectory s) := by
  unfold flushDirectory
  repeat' first
    | with_reducible assumption
    | (intro x; refine Kept.cut (s0 := s0) x ?_ (fun k => ?_); rotate_left; clear_value x; rotate_left; subst x)
    | (intro x; clear_value x)
    | (intro x)
    | with_reducible apply kept_eachS
    | with_reducible apply kept_writeDir
    | with_reducible apply kept_modHome
    | lift_lets -underBinder

theorem kept_releaseAll {s0 : State} {s : State}  (hK : Kept s0 s) : Kept s0 (releaseAll s) := by
  unfold releaseAll
  repeat' first
    | with_reducible assumption
    | (intro x; refine Kept.cut (s0 := s0) x ?_ (fun k => ?_); rotate_left; clear_value x; rotate_left; subst x)
    | (intro x; clear_value x)
    | (intro x)
    | with_reducible apply kept_eachS
    | with_reducible apply kept_whenS
    | with_reducible apply kept_modPart

theorem kept_darkSite {s0 : State} (k : Nat) {s : State}  (hK : Kept s0 s) : Kept s0 (darkSite k s) := by
  unfold darkSite
  repeat' first
    | with_reducible assumption
    | (intro x; refine Kept.cut (s0 := s0) x ?_ (fun k => ?_); rotate_left; clear_value x; rotate_left; subst x)
    | (intro x; clear_value x)
    | (intro x)
    | with_reducible apply kept_whenS
    | with_reducible apply kept_modSite

theorem kept_enterDark {s0 : State} {s : State}  (hK : Kept s0 s) : Kept s0 (enterDark s) := by
  unfold enterDark
  repeat' first
    | with_reducible assumption
    | (intro x; refine Kept.cut (s0 := s0) x ?_ (fun k => ?_); rotate_left; clear_value x; rotate_left; subst x)
    | (intro x; clear_value x)
    | (intro x)
    | with_reducible apply kept_eachS
    | with_reducible apply kept_linkDropped
    | with_reducible apply kept_setLinkSt
    | with_reducible apply kept_releaseAll
    | with_reducible apply kept_darkSite
    | with_reducible apply kept_flushDirectory
    | with_reducible apply kept_modOrder
    | with_reducible apply kept_setSref
    | with_reducible apply kept_modPower
    | with_reducible apply kept_queueDevice
    | split
    | lift_lets -underBinder

theorem kept_resumeDark {s0 : State} {s : State}  (hK : Kept s0 s) : Kept s0 (resumeDark s) := by
  unfold resumeDark
  repeat' first
    | with_reducible assumption
    | (intro x; refine Kept.cut (s0 := s0) x ?_ (fun k => ?_); rotate_left; clear_value x; rotate_left; subst x)
    | (intro x; clear_value x)
    | (intro x)
    | with_reducible apply kept_modPower
    | with_reducible apply kept_setSref
    | with_reducible apply kept_eachS
    | with_reducible apply kept_startTraining
    | split
    | lift_lets -underBinder

theorem kept_meterResume {s0 : State} {s : State}  (hK : Kept s0 s) : Kept s0 (meterResume s) := by
  unfold meterResume
  repeat' first
    | with_reducible assumption
    | (intro x; refine Kept.cut (s0 := s0) x ?_ (fun k => ?_); rotate_left; clear_value x; rotate_left; subst x)
    | (intro x; clear_value x)
    | (intro x)
    | with_reducible apply kept_modBanks
    | split
    | lift_lets -underBinder

theorem kept_leaveDark {s0 : State} {s : State}  (hK : Kept s0 s) : Kept s0 (leaveDark s) := by
  unfold leaveDark
  repeat' first
    | with_reducible assumption
    | (intro x; refine Kept.cut (s0 := s0) x ?_ (fun k => ?_); rotate_left; clear_value x; rotate_left; subst x)
    | (intro x; clear_value x)
    | (intro x)
    | with_reducible apply kept_modPower
    | with_reducible apply kept_meterResume
    | split

theorem kept_wakePin {s0 : State} (source : Nat) {s : State}  (hK : Kept s0 s) : Kept s0 (wakePin source s) := by
  unfold wakePin
  repeat' first
    | with_reducible assumption
    | (intro x; refine Kept.cut (s0 := s0) x ?_ (fun k => ?_); rotate_left; clear_value x; rotate_left; subst x)
    | (intro x; clear_value x)
    | (intro x)
    | with_reducible apply kept_whenS
    | with_reducible apply kept_wakeDevice
    | with_reducible apply kept_eachS
    | with_reducible apply kept_wakePart
    | lift_lets -underBinder

/-- The lines that a warm reset keeps are in canonical form. -/
theorem wf_keptStore {s : State} (h : Memory.wf s.mem = true) : Memory.wf (keptStore s) = true := by
  unfold Memory.wf at h ⊢
  rw [Bool.and_eq_true] at h
  rw [Bool.and_eq_true]
  exact ⟨Tab.wf_trim _ h.1, Tab.lean_trim _ _⟩

theorem wf_resetMem : Memory.wf State.reset.mem = true := by decide

theorem kept_resetDevice {s0 : State} (f : Power → Power) (cycle halts : Nat) (store : Mem) {s : State} (hs : Memory.wf s0.mem = true → Memory.wf store = true) (hK : Kept s0 s) :
    Kept s0 (resetDevice f cycle halts store s) := by
  unfold resetDevice
  exact ⟨hK.pending, hK.outbox, hs⟩

theorem kept_goOff {s0 : State} (trip : Bool) {s : State}  (hK : Kept s0 s) : Kept s0 (goOff trip s) := by
  unfold goOff
  repeat' first
    | with_reducible assumption
    | (intro x; refine Kept.cut (s0 := s0) x ?_ (fun k => ?_); rotate_left; clear_value x; rotate_left; subst x)
    | (intro x; clear_value x)
    | (intro x)
    | with_reducible apply kept_resetDevice
    | exact fun _ => wf_resetMem
    | exact wf_resetMem
    | exact fun w => wf_keptStore (hK.store w)
    | exact wf_keptStore (hK.store ‹_›)

theorem kept_clocksStart {s0 : State} {s : State}  (hK : Kept s0 s) : Kept s0 (clocksStart s) := by
  unfold clocksStart
  repeat' first
    | with_reducible assumption
    | (intro x; refine Kept.cut (s0 := s0) x ?_ (fun k => ?_); rotate_left; clear_value x; rotate_left; subst x)
    | (intro x; clear_value x)
    | (intro x)
    | with_reducible apply kept_modPower

theorem kept_brownCmd {s0 : State} (c : Cmd) {s : State}  (hK : Kept s0 s) : Kept s0 (brownCmd c s) := by
  unfold brownCmd
  repeat' first
    | with_reducible assumption
    | (intro x; refine Kept.cut (s0 := s0) x ?_ (fun k => ?_); rotate_left; clear_value x; rotate_left; subst x)
    | (intro x; clear_value x)
    | (intro x)
    | with_reducible apply kept_modCmd
    | with_reducible apply kept_modOrder
    | with_reducible apply kept_modXlat
    | with_reducible apply kept_closeCmd
    | with_reducible apply kept_enterError
    | lift_lets -underBinder

theorem kept_releaseBooths {s0 : State} (p : Nat) {s : State}  (hK : Kept s0 s) : Kept s0 (releaseBooths p s) := by
  unfold releaseBooths
  repeat' first
    | with_reducible assumption
    | (intro x; refine Kept.cut (s0 := s0) x ?_ (fun k => ?_); rotate_left; clear_value x; rotate_left; subst x)
    | (intro x; clear_value x)
    | (intro x)
    | with_reducible apply kept_modPart
    | with_reducible apply kept_modPower
    | split
    | lift_lets -underBinder

theorem kept_brownOut {s0 : State} {s : State}  (hK : Kept s0 s) : Kept s0 (brownOut s) := by
  unfold brownOut
  repeat' first
    | with_reducible assumption
    | (intro x; refine Kept.cut (s0 := s0) x ?_ (fun k => ?_); rotate_left; clear_value x; rotate_left; subst x)
    | (intro x; clear_value x)
    | (intro x)
    | with_reducible apply kept_modPower
    | with_reducible apply kept_eachS
    | with_reducible apply kept_brownCmd
    | with_reducible apply kept_stopCmd
    | with_reducible apply kept_faultAll
    | with_reducible apply kept_clearBooth
    | with_reducible apply kept_modQps
    | with_reducible apply kept_releaseBooths
    | with_reducible apply kept_post
    | lift_lets -underBinder

theorem kept_sampleSensor {s0 : State} (e : Nat × Int) {s : State}  (hK : Kept s0 s) : Kept s0 (sampleSensor e s) := by
  unfold sampleSensor
  repeat' first
    | with_reducible assumption
    | (intro x; refine Kept.cut (s0 := s0) x ?_ (fun k => ?_); rotate_left; clear_value x; rotate_left; subst x)
    | (intro x; clear_value x)
    | (intro x)
    | with_reducible apply kept_modMgmt
    | with_reducible apply kept_whenS
    | with_reducible apply kept_emit
    | split
    | lift_lets -underBinder

theorem kept_powerPartCtrl {s0 : State} (w : Writer) (p v : Nat) {s : State}  (hK : Kept s0 s) : Kept s0 (powerPartCtrl w p v s).2 := by
  unfold powerPartCtrl
  repeat' first
    | with_reducible assumption
    | (intro x; refine Kept.cut (s0 := s0) x ?_ (fun k => ?_); rotate_left; clear_value x; rotate_left; subst x)
    | (intro x; clear_value x)
    | (intro x)
    | with_reducible apply kept_denyWrite
    | with_reducible apply kept_wrote
    | with_reducible apply kept_askCurtain
    | with_reducible apply kept_askWake
    | split
    | lift_lets -underBinder

theorem kept_powerDeviceCtrl {s0 : State} (w : Writer) (v : Nat) {s : State}  (hK : Kept s0 s) : Kept s0 (powerDeviceCtrl w v s).2 := by
  unfold powerDeviceCtrl
  repeat' first
    | with_reducible assumption
    | with_reducible apply kept_denyWrite
    | with_reducible apply kept_wrote
    | with_reducible apply kept_askDark
    | split

end Sys2Proof.Machine
end

