-- ==== Sys2Proof/Laws/KeptMgmt.lean ====
section
/-! SUPPORT. What the operations of Machine/Mgmt.lean keep (Kept). -/

namespace Sys2Proof.Machine

set_option linter.all false
set_option Elab.async false

theorem kept_assignEids {s0 : State} {s : State}  (hK : Kept s0 s) : Kept s0 (assignEids s) := by
  unfold assignEids
  repeat' first
    | with_reducible assumption
    | (intro x; refine Kept.cut (s0 := s0) x ?_ (fun k => ?_); rotate_left; clear_value x; rotate_left; subst x)
    | (intro x; clear_value x)
    | (intro x)
    | with_reducible apply kept_eachS
    | with_reducible apply kept_drawFree
    | with_reducible apply kept_emit
    | with_reducible apply kept_modSite
    | lift_lets -underBinder

theorem kept_runFirmware {s0 : State} {s : State}  (hK : Kept s0 s) : Kept s0 (runFirmware s) := by
  unfold runFirmware
  repeat' first
    | with_reducible assumption
    | (intro x; refine Kept.cut (s0 := s0) x ?_ (fun k => ?_); rotate_left; clear_value x; rotate_left; subst x)
    | (intro x; clear_value x)
    | (intro x)
    | with_reducible apply kept_assignEids
    | with_reducible apply kept_modMgmt
    | lift_lets -underBinder

theorem kept_halt {s0 : State} (c : HaltCause) {s : State}  (hK : Kept s0 s) : Kept s0 (halt c s) := by
  unfold halt
  repeat' first
    | with_reducible assumption
    | (intro x; refine Kept.cut (s0 := s0) x ?_ (fun k => ?_); rotate_left; clear_value x; rotate_left; subst x)
    | (intro x; clear_value x)
    | (intro x)
    | with_reducible apply kept_faultAll
    | with_reducible apply kept_modMgmt
    | with_reducible apply kept_modPower
    | with_reducible apply kept_modRig
    | with_reducible apply kept_refillBarker
    | with_reducible apply kept_post
    | split
    | lift_lets -underBinder

theorem kept_bootChain {s0 : State} (selfTest flashAnswers : Bool) {s : State}  (hK : Kept s0 s) : Kept s0 (bootChain selfTest flashAnswers s) := by
  unfold bootChain
  repeat' first
    | with_reducible assumption
    | (intro x; refine Kept.cut (s0 := s0) x ?_ (fun k => ?_); rotate_left; clear_value x; rotate_left; subst x)
    | (intro x; clear_value x)
    | (intro x)
    | with_reducible apply kept_halt
    | with_reducible apply kept_forwardHead
    | with_reducible apply kept_runFirmware
    | with_reducible apply kept_modMgmt
    | split
    | lift_lets -underBinder

theorem kept_modMbox {s0 : State} (p : Nat) (f : Mailbox → Mailbox) {s : State}  (hK : Kept s0 s) : Kept s0 (modMbox p f s) := by
  unfold modMbox
  repeat' first
    | with_reducible assumption
    | (intro x; refine Kept.cut (s0 := s0) x ?_ (fun k => ?_); rotate_left; clear_value x; rotate_left; subst x)
    | (intro x; clear_value x)
    | (intro x)
    | with_reducible apply kept_modMgmt

theorem kept_mgmtReply {s0 : State} (t : Transport) (name : String) (code : Nat) (data : List Byte) (refused : Bool) {s : State}  (hK : Kept s0 s) : Kept s0 (mgmtReply t name code data refused s) := by
  unfold mgmtReply
  repeat' first
    | with_reducible assumption
    | (intro x; refine Kept.cut (s0 := s0) x ?_ (fun k => ?_); rotate_left; clear_value x; rotate_left; subst x)
    | (intro x; clear_value x)
    | (intro x)
    | with_reducible apply kept_emit
    | with_reducible apply kept_modMbox
    | split
    | lift_lets -underBinder

theorem kept_unsupported {s0 : State} (t : Transport) {s : State}  (hK : Kept s0 s) : Kept s0 (unsupported t s) := by
  unfold unsupported
  repeat' first
    | with_reducible assumption
    | (intro x; refine Kept.cut (s0 := s0) x ?_ (fun k => ?_); rotate_left; clear_value x; rotate_left; subst x)
    | (intro x; clear_value x)
    | (intro x)
    | with_reducible apply kept_post
    | with_reducible apply kept_mgmtReply
    | split
    | lift_lets -underBinder

theorem kept_manage {s0 : State} (t : Transport) (k : MsgKind) (f : State → State) {s : State} (hf : ∀  {u : State}, Kept s0 u → Kept s0 (f  u)) (hK : Kept s0 s) : Kept s0 (manage t k f s) := by
  unfold manage
  repeat' first
    | with_reducible assumption
    | (intro x; refine Kept.cut (s0 := s0) x ?_ (fun k => ?_); rotate_left; clear_value x; rotate_left; subst x)
    | (intro x; clear_value x)
    | (intro x)
    | with_reducible apply kept_unsupported
    | with_reducible apply hf
    | split
    | lift_lets -underBinder

theorem kept_modUpdate {s0 : State} (f : Update → Update) {s : State}  (hK : Kept s0 s) : Kept s0 (modUpdate f s) := by
  unfold modUpdate
  repeat' first
    | with_reducible assumption
    | (intro x; refine Kept.cut (s0 := s0) x ?_ (fun k => ?_); rotate_left; clear_value x; rotate_left; subst x)
    | (intro x; clear_value x)
    | (intro x)
    | with_reducible apply kept_modMgmt

theorem kept_updateStep {s0 : State} (t : Transport) (stage : UpdStage) (f : Update → State → State) {s : State} (hf : ∀ (y0 : Update) {u : State}, Kept s0 u → Kept s0 (f y0 u)) (hK : Kept s0 s) : Kept s0 (updateStep t stage f s) := by
  unfold updateStep
  repeat' first
    | with_reducible assumption
    | (intro x; refine Kept.cut (s0 := s0) x ?_ (fun k => ?_); rotate_left; clear_value x; rotate_left; subst x)
    | (intro x; clear_value x)
    | (intro x)
    | with_reducible apply kept_mgmtReply
    | with_reducible apply hf
    | split
    | lift_lets -underBinder

theorem kept_tornImage {s0 : State} (image : List Byte) {s : State}  (hK : Kept s0 s) : Kept s0 (tornImage image s).2 := by
  unfold tornImage
  repeat' first
    | with_reducible assumption
    | (intro x; refine Kept.cut (s0 := s0) x ?_ (fun k => ?_); rotate_left; clear_value x; rotate_left; subst x)
    | (intro x; clear_value x)
    | (intro x)
    | with_reducible apply kept_drawFree
    | lift_lets -underBinder

theorem kept_writeFlash {s0 : State} (n : Nat) (image : List Byte) {s : State}  (hK : Kept s0 s) : Kept s0 (writeFlash n image s) := by
  unfold writeFlash
  repeat' first
    | with_reducible assumption
    | (intro x; refine Kept.cut (s0 := s0) x ?_ (fun k => ?_); rotate_left; clear_value x; rotate_left; subst x)
    | (intro x; clear_value x)
    | (intro x)
    | with_reducible apply kept_modMgmt
    | split

theorem kept_activate {s0 : State} (t : Transport) (u : Update) {s : State}  (hK : Kept s0 s) : Kept s0 (activate t u s) := by
  unfold activate
  repeat' first
    | with_reducible assumption
    | (intro x; refine Kept.cut (s0 := s0) x ?_ (fun k => ?_); rotate_left; clear_value x; rotate_left; subst x)
    | (intro x; clear_value x)
    | (intro x)
    | with_reducible apply kept_modUpdate
    | with_reducible apply kept_mgmtReply
    | with_reducible apply kept_whenS
    | with_reducible apply kept_modMgmt
    | with_reducible apply kept_presentImage
    | with_reducible apply kept_switchSegment
    | split
    | lift_lets -underBinder

theorem kept_activateWaited {s0 : State} (t : Transport) {s : State}  (hK : Kept s0 s) : Kept s0 (activateWaited t s) := by
  unfold activateWaited
  repeat' first
    | with_reducible assumption
    | (intro x; refine Kept.cut (s0 := s0) x ?_ (fun k => ?_); rotate_left; clear_value x; rotate_left; subst x)
    | (intro x; clear_value x)
    | (intro x)
    | with_reducible apply kept_whenS
    | with_reducible apply kept_activate
    | lift_lets -underBinder

theorem kept_modSpdm {s0 : State} (t : Transport) (f : Spdm → Spdm) {s : State}  (hK : Kept s0 s) : Kept s0 (modSpdm t f s) := by
  unfold modSpdm
  repeat' first
    | with_reducible assumption
    | (intro x; refine Kept.cut (s0 := s0) x ?_ (fun k => ?_); rotate_left; clear_value x; rotate_left; subst x)
    | (intro x; clear_value x)
    | (intro x)
    | with_reducible apply kept_modMgmt

theorem kept_spdmAnswer {s0 : State} (t : Transport) (name : String) (data : List Byte) {s : State}  (hK : Kept s0 s) : Kept s0 (spdmAnswer t name data s) := by
  unfold spdmAnswer
  repeat' first
    | with_reducible assumption
    | (intro x; refine Kept.cut (s0 := s0) x ?_ (fun k => ?_); rotate_left; clear_value x; rotate_left; subst x)
    | (intro x; clear_value x)
    | (intro x)
    | with_reducible apply kept_mgmtReply
    | with_reducible apply kept_modSpdm
    | split

theorem kept_spdmError {s0 : State} (t : Transport) (name : String) {s : State}  (hK : Kept s0 s) : Kept s0 (spdmError t name s) := by
  unfold spdmError
  repeat' first
    | with_reducible assumption
    | with_reducible apply kept_mgmtReply

theorem kept_spdm {s0 : State} (t : Transport) (ok : Spdm → Bool) (f : State → State) {s : State} (hf : ∀  {u : State}, Kept s0 u → Kept s0 (f  u)) (hK : Kept s0 s) : Kept s0 (spdm t ok f s) := by
  unfold spdm
  repeat' first
    | with_reducible assumption
    | (intro x; refine Kept.cut (s0 := s0) x ?_ (fun k => ?_); rotate_left; clear_value x; rotate_left; subst x)
    | (intro x; clear_value x)
    | (intro x)
    | with_reducible apply kept_manage
    | with_reducible apply kept_modSpdm
    | with_reducible apply kept_spdmError
    | with_reducible apply hf
    | split
    | lift_lets -underBinder

theorem kept_record {s0 : State} (t : Transport) (b : List Byte) {s : State}  (hK : Kept s0 s) : Kept s0 (record t b s) := by
  unfold record
  repeat' first
    | with_reducible assumption
    | (intro x; refine Kept.cut (s0 := s0) x ?_ (fun k => ?_); rotate_left; clear_value x; rotate_left; subst x)
    | (intro x; clear_value x)
    | (intro x)
    | with_reducible apply kept_modSpdm

theorem kept_signAnswer {s0 : State} (t : Transport) (name : String) (data : List Byte) {s : State}  (hK : Kept s0 s) : Kept s0 (signAnswer t name data s) := by
  unfold signAnswer
  repeat' first
    | with_reducible assumption
    | (intro x; refine Kept.cut (s0 := s0) x ?_ (fun k => ?_); rotate_left; clear_value x; rotate_left; subst x)
    | (intro x; clear_value x)
    | (intro x)
    | with_reducible apply kept_record
    | with_reducible apply kept_spdmAnswer
    | with_reducible apply kept_modSpdm
    | lift_lets -underBinder

theorem kept_keyRequest {s0 : State} (t : Transport) (slot : Nat) (f : State → State) {s : State} (hf : ∀  {u : State}, Kept s0 u → Kept s0 (f  u)) (hK : Kept s0 s) : Kept s0 (keyRequest t slot f s) := by
  unfold keyRequest
  repeat' first
    | with_reducible assumption
    | (intro x; refine Kept.cut (s0 := s0) x ?_ (fun k => ?_); rotate_left; clear_value x; rotate_left; subst x)
    | (intro x; clear_value x)
    | (intro x)
    | with_reducible apply kept_spdm
    | with_reducible apply kept_spdmError
    | with_reducible apply kept_unsupported
    | with_reducible apply hf
    | split

theorem kept_mboxCtrl {s0 : State} (w : Writer) (p v : Nat) {s : State}  (hK : Kept s0 s) : Kept s0 (mboxCtrl w p v s).2 := by
  unfold mboxCtrl
  repeat' first
    | with_reducible assumption
    | (intro x; refine Kept.cut (s0 := s0) x ?_ (fun k => ?_); rotate_left; clear_value x; rotate_left; subst x)
    | (intro x; clear_value x)
    | (intro x)
    | with_reducible apply kept_denyWrite
    | with_reducible apply kept_wrote
    | with_reducible apply kept_modMbox
    | split
    | lift_lets -underBinder

theorem kept_mboxBuffer {s0 : State} (w : Writer) (p i v : Nat) {s : State}  (hK : Kept s0 s) : Kept s0 (mboxBuffer w p i v s).2 := by
  unfold mboxBuffer
  repeat' first
    | with_reducible assumption
    | (intro x; refine Kept.cut (s0 := s0) x ?_ (fun k => ?_); rotate_left; clear_value x; rotate_left; subst x)
    | (intro x; clear_value x)
    | (intro x)
    | with_reducible apply kept_denyWrite
    | with_reducible apply kept_wrote
    | with_reducible apply kept_modMbox
    | split

end Sys2Proof.Machine
end

