-- ==== Sys2Proof/Laws/KeptRegs.lean ====
section
/-! SUPPORT. What the operations of Machine/Regs.lean keep (Kept). -/

namespace Sys2Proof.Machine

set_option linter.all false
set_option Elab.async false

theorem kept_regRead {s0 : State} (w : Writer) (a : Nat) {s : State}  (hK : Kept s0 s) : Kept s0 (regRead w a s).2.2 := by
  unfold regRead
  repeat' first
    | with_reducible assumption
    | with_reducible apply kept_accessViolation
    | split

theorem kept_lockWrite {s0 : State} (w : Writer) (block a v : Nat) (f : State → State) {s : State} (hf : ∀  {u : State}, Kept s0 u → Kept s0 (f  u)) (hK : Kept s0 s) : Kept s0 (lockWrite w block a v f s).2 := by
  unfold lockWrite
  repeat' first
    | with_reducible assumption
    | (intro x; refine Kept.cut (s0 := s0) x ?_ (fun k => ?_); rotate_left; clear_value x; rotate_left; subst x)
    | (intro x; clear_value x)
    | (intro x)
    | with_reducible apply kept_post
    | with_reducible apply kept_wrote
    | with_reducible apply hf
    | split

theorem kept_lockWrite_eq {s0 t : State} {cc} {w : Writer} {block a v : Nat} {f : State → State} {s : State} (hf : ∀  {u : State}, Kept s0 u → Kept s0 (f  u)) (hK : Kept s0 s) (eqn : lockWrite w block a v f s = (cc, t)) : Kept s0 t := by
  have k := kept_lockWrite (s0 := s0) w block a v f hf hK
  rw [eqn] at k
  exact k

theorem kept_epochUpdate {s0 : State} (w : Writer) (v : Nat) {s : State}  (hK : Kept s0 s) : Kept s0 (epochUpdate w v s).2 := by
  unfold epochUpdate
  repeat' first
    | with_reducible assumption
    | (intro x; refine Kept.cut (s0 := s0) x ?_ (fun k => ?_); rotate_left; clear_value x; rotate_left; subst x)
    | (intro x; clear_value x)
    | (intro x)
    | with_reducible apply kept_denyWrite
    | with_reducible apply kept_wrote
    | with_reducible apply kept_modRig
    | split
    | lift_lets -underBinder

theorem kept_pageAttr {s0 : State} (w : Writer) (a page v : Nat) {s : State}  (hK : Kept s0 s) : Kept s0 (pageAttr w a page v s).2 := by
  unfold pageAttr
  repeat' first
    | with_reducible assumption
    | exact fun _ => rfl
    | (intro x; refine Kept.cut (s0 := s0) x ?_ (fun k => ?_); rotate_left; clear_value x; rotate_left; subst x)
    | (intro x; clear_value x)
    | (intro x)
    | with_reducible apply kept_denyWrite
    | with_reducible apply kept_wrote
    | with_reducible apply kept_modMem
    | split
    | lift_lets -underBinder

theorem kept_writeMem {s0 : State} (w : Writer) (a k o v : Nat) {s : State}  (hK : Kept s0 s) : Kept s0 (writeMem w a k o v s).2 := by
  unfold writeMem
  repeat' first
    | with_reducible assumption
    | (intro x; refine Kept.cut (s0 := s0) x ?_ (fun k => ?_); rotate_left; clear_value x; rotate_left; subst x)
    | (intro x; clear_value x)
    | (intro x)
    | with_reducible apply kept_pageAttr
    | with_reducible apply kept_wrote
    | with_reducible apply kept_modStack
    | split
    | lift_lets -underBinder

theorem kept_integPoison {s0 : State} (w : Writer) (v : Nat) {s : State}  (hK : Kept s0 s) : Kept s0 (integPoison w v s).2 := by
  unfold integPoison
  repeat' first
    | with_reducible assumption
    | (intro x; refine Kept.cut (s0 := s0) x ?_ (fun k => ?_); rotate_left; clear_value x; rotate_left; subst x)
    | (intro x; clear_value x)
    | (intro x)
    | with_reducible apply kept_denyWrite
    | with_reducible apply kept_wrote
    | with_reducible apply kept_mirrorServe
    | split
    | lift_lets -underBinder

theorem kept_integInspect {s0 : State} (w : Writer) (v : Nat) {s : State}  (hK : Kept s0 s) : Kept s0 (integInspect w v s).2 := by
  unfold integInspect
  repeat' first
    | with_reducible assumption
    | (intro x; refine Kept.cut (s0 := s0) x ?_ (fun k => ?_); rotate_left; clear_value x; rotate_left; subst x)
    | (intro x; clear_value x)
    | (intro x)
    | with_reducible apply kept_denyWrite
    | with_reducible apply kept_modInteg
    | with_reducible apply kept_wrote
    | with_reducible apply kept_inspectEnd
    | with_reducible apply kept_mirrorServe
    | split
    | lift_lets -underBinder

theorem kept_writeInteg {s0 : State} (w : Writer) (o v : Nat) {s : State}  (hK : Kept s0 s) : Kept s0 (writeInteg w o v s).2 := by
  unfold writeInteg
  repeat' first
    | with_reducible assumption
    | (intro x; refine Kept.cut (s0 := s0) x ?_ (fun k => ?_); rotate_left; clear_value x; rotate_left; subst x)
    | (intro x; clear_value x)
    | (intro x)
    | with_reducible apply kept_wrote
    | with_reducible apply kept_whenS
    | with_reducible apply kept_modInteg
    | with_reducible apply kept_pathRetried
    | with_reducible apply kept_pathFailed
    | with_reducible apply kept_integPoison
    | with_reducible apply kept_integInspect
    | split

theorem kept_agentRevive {s0 : State} (w : Writer) (v : Nat) {s : State}  (hK : Kept s0 s) : Kept s0 (agentRevive w v s).2 := by
  unfold agentRevive
  repeat' first
    | with_reducible assumption
    | (intro x; refine Kept.cut (s0 := s0) x ?_ (fun k => ?_); rotate_left; clear_value x; rotate_left; subst x)
    | (intro x; clear_value x)
    | (intro x)
    | with_reducible apply kept_post
    | with_reducible apply kept_wrote
    | with_reducible apply kept_modHome
    | split
    | lift_lets -underBinder

theorem kept_writeHome {s0 : State} (w : Writer) (o v : Nat) {s : State}  (hK : Kept s0 s) : Kept s0 (writeHome w o v s).2 := by
  unfold writeHome
  repeat' first
    | with_reducible assumption
    | (intro x; refine Kept.cut (s0 := s0) x ?_ (fun k => ?_); rotate_left; clear_value x; rotate_left; subst x)
    | (intro x; clear_value x)
    | (intro x)
    | with_reducible apply kept_lockWrite
    | with_reducible apply kept_modHome
    | with_reducible apply kept_agentRevive
    | with_reducible apply kept_wrote
    | with_reducible apply kept_whenS
    | with_reducible apply kept_ownerLost
    | split

theorem kept_orderCtrl {s0 : State} (v : Nat) {s : State}  (hK : Kept s0 s) : Kept s0 (orderCtrl v s) := by
  unfold orderCtrl
  repeat' first
    | with_reducible assumption
    | (intro x; refine Kept.cut (s0 := s0) x ?_ (fun k => ?_); rotate_left; clear_value x; rotate_left; subst x)
    | (intro x; clear_value x)
    | (intro x)
    | with_reducible apply kept_modOrder
    | with_reducible apply kept_whenS
    | with_reducible apply kept_eachS
    | with_reducible apply kept_emptyBoothBuf
    | with_reducible apply kept_emptySiteBuf
    | lift_lets -underBinder

theorem kept_writeOrder {s0 : State} (w : Writer) (o v : Nat) {s : State}  (hK : Kept s0 s) : Kept s0 (writeOrder w o v s).2 := by
  unfold writeOrder
  repeat' first
    | with_reducible assumption
    | (intro x; refine Kept.cut (s0 := s0) x ?_ (fun k => ?_); rotate_left; clear_value x; rotate_left; subst x)
    | (intro x; clear_value x)
    | (intro x)
    | with_reducible apply kept_wrote
    | with_reducible apply kept_settleCtr
    | with_reducible apply kept_setCtr
    | with_reducible apply kept_denyWrite
    | with_reducible apply kept_lockWrite
    | with_reducible apply kept_orderCtrl
    | with_reducible apply kept_whenS
    | with_reducible apply kept_modOrder
    | split
    | lift_lets -underBinder

theorem kept_qpSetup {s0 : State} (w : Writer) (q o v : Nat) {s : State}  (hK : Kept s0 s) : Kept s0 (qpSetup w q o v s).2 := by
  unfold qpSetup
  repeat' first
    | with_reducible assumption
    | (intro x; refine Kept.cut (s0 := s0) x ?_ (fun k => ?_); rotate_left; clear_value x; rotate_left; subst x)
    | (intro x; clear_value x)
    | (intro x)
    | with_reducible apply kept_qpGuard
    | with_reducible apply kept_denyWrite
    | with_reducible apply kept_wrote
    | with_reducible apply kept_modQp
    | split
    | lift_lets -underBinder

theorem kept_writeQp {s0 : State} (w : Writer) (q o v : Nat) {s : State}  (hK : Kept s0 s) : Kept s0 (writeQp w q o v s).2 := by
  unfold writeQp
  repeat' first
    | with_reducible assumption
    | with_reducible apply kept_qpBell
    | with_reducible apply kept_qpControl
    | with_reducible apply kept_qpGuard
    | with_reducible apply kept_wrote
    | with_reducible apply kept_qpSetup
    | split

theorem kept_writeBooth {s0 : State} (w : Writer) (b o v : Nat) {s : State}  (hK : Kept s0 s) : Kept s0 (writeBooth w b o v s).2 := by
  unfold writeBooth
  repeat' first
    | with_reducible assumption
    | (intro x; refine Kept.cut (s0 := s0) x ?_ (fun k => ?_); rotate_left; clear_value x; rotate_left; subst x)
    | (intro x; clear_value x)
    | (intro x)
    | with_reducible apply kept_denyWrite
    | with_reducible refine kept_denyWrite_eq ?_ ‹_›
    | with_reducible apply kept_wrote
    | with_reducible refine kept_wrote_eq ?_ ‹_›
    | with_reducible apply kept_whenS
    | with_reducible apply kept_modBooth
    | with_reducible apply kept_lockWrite
    | with_reducible refine kept_lockWrite_eq ?_ ‹_›
    | split
    | lift_lets -underBinder

theorem kept_writeFab {s0 : State} (w : Writer) (p o v : Nat) {s : State}  (hK : Kept s0 s) : Kept s0 (writeFab w p o v s).2 := by
  unfold writeFab
  repeat' first
    | with_reducible assumption
    | (intro x; refine Kept.cut (s0 := s0) x ?_ (fun k => ?_); rotate_left; clear_value x; rotate_left; subst x)
    | (intro x; clear_value x)
    | (intro x)
    | with_reducible apply kept_denyWrite
    | with_reducible apply kept_wrote
    | with_reducible apply kept_eachS
    | with_reducible apply kept_startTraining
    | with_reducible apply kept_whenS
    | with_reducible apply kept_modLink
    | split

theorem kept_writeUcie {s0 : State} (w : Writer) (k o v : Nat) {s : State}  (hK : Kept s0 s) : Kept s0 (writeUcie w k o v s).2 := by
  unfold writeUcie
  repeat' first
    | with_reducible assumption
    | with_reducible apply kept_ucieCtrl
    | with_reducible apply kept_ucieCountClear
    | with_reducible apply kept_wrote
    | split

theorem kept_partCtrl {s0 : State} (w : Writer) (p v : Nat) {s : State}  (hK : Kept s0 s) : Kept s0 (partCtrl w p v s).2 := by
  unfold partCtrl
  repeat' first
    | with_reducible assumption
    | with_reducible apply kept_wrote
    | with_reducible apply kept_partStart
    | with_reducible apply kept_partStop
    | with_reducible apply kept_partClearFault
    | with_reducible apply kept_denyWrite
    | split

theorem kept_partEventCfg {s0 : State} (w : Writer) (p v : Nat) {s : State}  (hK : Kept s0 s) : Kept s0 (partEventCfg w p v s).2 := by
  unfold partEventCfg
  repeat' first
    | with_reducible assumption
    | (intro x; refine Kept.cut (s0 := s0) x ?_ (fun k => ?_); rotate_left; clear_value x; rotate_left; subst x)
    | (intro x; clear_value x)
    | (intro x)
    | with_reducible apply kept_accessViolation
    | with_reducible apply kept_wrote
    | with_reducible apply kept_modPart
    | split
    | lift_lets -underBinder

theorem kept_partEventPtr {s0 : State} (w : Writer) (p v : Nat) {s : State}  (hK : Kept s0 s) : Kept s0 (partEventPtr w p v s).2 := by
  unfold partEventPtr
  repeat' first
    | with_reducible assumption
    | (intro x; refine Kept.cut (s0 := s0) x ?_ (fun k => ?_); rotate_left; clear_value x; rotate_left; subst x)
    | (intro x; clear_value x)
    | (intro x)
    | with_reducible apply kept_wrote
    | with_reducible apply kept_modPart
    | with_reducible apply kept_post
    | split
    | lift_lets -underBinder

theorem kept_writePart {s0 : State} (w : Writer) (p o v : Nat) {s : State}  (hK : Kept s0 s) : Kept s0 (writePart w p o v s).2 := by
  unfold writePart
  repeat' first
    | with_reducible assumption
    | (intro x; refine Kept.cut (s0 := s0) x ?_ (fun k => ?_); rotate_left; clear_value x; rotate_left; subst x)
    | (intro x; clear_value x)
    | (intro x)
    | with_reducible apply kept_denyWrite
    | with_reducible apply kept_partCtrl
    | with_reducible apply kept_wrote
    | with_reducible apply kept_modPart
    | with_reducible apply kept_partEventCfg
    | with_reducible apply kept_partEventPtr
    | split

theorem kept_writeBarker {s0 : State} (w : Writer) (o v : Nat) {s : State}  (hK : Kept s0 s) : Kept s0 (writeBarker w o v s).2 := by
  unfold writeBarker
  repeat' first
    | with_reducible assumption
    | (intro x; refine Kept.cut (s0 := s0) x ?_ (fun k => ?_); rotate_left; clear_value x; rotate_left; subst x)
    | (intro x; clear_value x)
    | (intro x)
    | with_reducible apply kept_wrote
    | with_reducible apply kept_forwardHead
    | with_reducible apply kept_modBarker
    | split
    | lift_lets -underBinder

theorem kept_writePwrclk {s0 : State} (w : Writer) (o v : Nat) {s : State}  (hK : Kept s0 s) : Kept s0 (writePwrclk w o v s).2 := by
  unfold writePwrclk
  repeat' first
    | with_reducible assumption
    | (intro x; refine Kept.cut (s0 := s0) x ?_ (fun k => ?_); rotate_left; clear_value x; rotate_left; subst x)
    | (intro x; clear_value x)
    | (intro x)
    | with_reducible apply kept_powerPartCtrl
    | with_reducible apply kept_denyWrite
    | with_reducible apply kept_powerDeviceCtrl
    | with_reducible apply kept_lockWrite
    | with_reducible apply kept_modPower
    | with_reducible apply kept_wrote
    | split

theorem kept_writeMgmt {s0 : State} (w : Writer) (o v : Nat) {s : State}  (hK : Kept s0 s) : Kept s0 (writeMgmt w o v s).2 := by
  unfold writeMgmt
  repeat' first
    | with_reducible assumption
    | with_reducible apply kept_mboxCtrl
    | with_reducible apply kept_mboxBuffer
    | with_reducible apply kept_wrote
    | split

theorem Kept.ite_wrote {s0 : State} {c : Prop} [Decidable c] {a b : Wrote} (x : Kept s0 a.2) (y : Kept s0 b.2) : Kept s0 (if c then a else b).2 := by
  split
  · exact x
  · exact y

theorem kept_writeBlock {s0 : State} (w : Writer) (a v : Nat) {s : State} (hK : Kept s0 s) : Kept s0 (writeBlock w a v s).2 := by
  unfold writeBlock
  dsimp only
  repeat' first
    | with_reducible assumption
    | with_reducible apply kept_denyWrite
    | with_reducible apply kept_wrote
    | with_reducible apply kept_epochUpdate
    | with_reducible apply kept_writeMem
    | with_reducible apply kept_writeInteg
    | with_reducible apply kept_writeHome
    | with_reducible apply kept_writeOrder
    | with_reducible apply kept_writeQp
    | with_reducible apply kept_writeBooth
    | with_reducible apply kept_writeFab
    | with_reducible apply kept_writeUcie
    | with_reducible apply kept_writePart
    | with_reducible apply kept_writeBarker
    | with_reducible apply kept_writePwrclk
    | with_reducible apply kept_writeMgmt
    | with_reducible apply Kept.ite_wrote

theorem kept_answerWrite {s0 : State} (req : Option Req) (st : Status) {s : State}  (hK : Kept s0 s) : Kept s0 (answerWrite req st s) := by
  unfold answerWrite
  repeat' first
    | with_reducible assumption
    | (intro x; refine Kept.cut (s0 := s0) x ?_ (fun k => ?_); rotate_left; clear_value x; rotate_left; subst x)
    | (intro x; clear_value x)
    | (intro x)
    | with_reducible apply kept_whenS
    | with_reducible apply kept_finish
    | split

theorem kept_regWrite {s0 : State} (w : Writer) (a : Nat) (v : Word) (req : Option Req) {s : State} (hK : Kept s0 s) :
    Kept s0 (regWrite w a v req s) := by
  unfold regWrite
  dsimp only
  have k := kept_writeBlock (s0 := s0) w a v.toNat hK
  split
  · split
    · exact kept_answerWrite _ _ k
    · exact kept_inOrder _ (fun _ {_} h => kept_wakePart _ _ (kept_modPower _ h)) hK
  · exact kept_answerWrite _ _ k

theorem kept_packetRead {s0 : State} (w : Writer) (r : Req) {s : State}  (hK : Kept s0 s) : Kept s0 (packetRead w r s) := by
  unfold packetRead
  repeat' first
    | with_reducible assumption
    | (intro x; refine Kept.cut (s0 := s0) x ?_ (fun k => ?_); rotate_left; clear_value x; rotate_left; subst x)
    | (intro x; clear_value x)
    | (intro x)
    | with_reducible apply kept_regRead
    | with_reducible apply kept_finish
    | split
    | lift_lets -underBinder

theorem kept_takeWait {s0 : State} (n : Nat) {s : State}  (hK : Kept s0 s) : Kept s0 (takeWait n s) := by
  unfold takeWait
  repeat' first
    | with_reducible assumption
    | (intro x; refine Kept.cut (s0 := s0) x ?_ (fun k => ?_); rotate_left; clear_value x; rotate_left; subst x)
    | (intro x; clear_value x)
    | (intro x)
    | with_reducible apply kept_modPower
    | with_reducible apply kept_packetRead
    | with_reducible apply kept_regWrite
    | with_reducible apply kept_takeImage
    | with_reducible apply kept_activateWaited
    | with_reducible apply kept_releaseOne
    | split
    | lift_lets -underBinder

theorem kept_takeWaits {s0 : State} (p : Nat) {s : State}  (hK : Kept s0 s) : Kept s0 (takeWaits p s) := by
  unfold takeWaits
  repeat' first
    | with_reducible assumption
    | (intro x; refine Kept.cut (s0 := s0) x ?_ (fun k => ?_); rotate_left; clear_value x; rotate_left; subst x)
    | (intro x; clear_value x)
    | (intro x)
    | with_reducible apply kept_eachS
    | with_reducible apply kept_takeWait
    | lift_lets -underBinder

theorem kept_siteAccess {s0 : State} (k : Fin 4) (p : Packet) (go : Req → State → State) {s : State} (hgo : ∀ (y0 : Req) {u : State}, Kept s0 u → Kept s0 (go y0 u)) (hK : Kept s0 s) : Kept s0 (siteAccess k p go s) := by
  unfold siteAccess
  repeat' first
    | with_reducible assumption
    | (intro x; refine Kept.cut (s0 := s0) x ?_ (fun k => ?_); rotate_left; clear_value x; rotate_left; subst x)
    | (intro x; clear_value x)
    | (intro x)
    | with_reducible apply kept_sitePacket
    | with_reducible apply kept_refuse
    | with_reducible apply kept_checkFailed
    | with_reducible apply kept_targetDead
    | with_reducible apply kept_inOrder
    | with_reducible apply kept_wakePart
    | with_reducible apply kept_modPower
    | with_reducible apply hgo
    | split
    | lift_lets -underBinder

theorem kept_regAccess {s0 : State} (port : Port) (p : Packet) (go : Req → State → State) {s : State} (hgo : ∀ (y0 : Req) {u : State}, Kept s0 u → Kept s0 (go y0 u)) (hK : Kept s0 s) : Kept s0 (regAccess port p go s) := by
  unfold regAccess
  repeat' first
    | with_reducible assumption
    | (intro x; refine Kept.cut (s0 := s0) x ?_ (fun k => ?_); rotate_left; clear_value x; rotate_left; subst x)
    | (intro x; clear_value x)
    | (intro x)
    | with_reducible apply kept_siteAccess
    | with_reducible apply kept_linkIngress
    | with_reducible apply hgo
    | split

end Sys2Proof.Machine
end

