-- ==== Sys2Proof/Laws/Store.lean ====
section
/-! SUPPORT. The store: what is read after a write, and that a write leaves every other place alone. -/

namespace Sys2Proof.Machine

/-- A write changes nothing of what an unlisted line reads as. -/
@[simp] theorem blank_putLine (l : Nat) (v : Line) (s : State) : Memory.blank (putLine l v s).mem = Memory.blank s.mem := rfl

/-- A line reads as it was put. -/
@[simp] theorem getLine_putLine_self (l : Nat) (v : Line) (s : State) : getLine (putLine l v s) l = v := by
  rw [getLine, blank_putLine]
  simp [putLine, modMem]

/-- Every other line reads as before. -/
@[simp] theorem getLine_putLine_ne {l n : Nat} (v : Line) (s : State) (h : n ≠ l) : getLine (putLine l v s) n = getLine s n := by
  rw [getLine, blank_putLine]
  simp [getLine, Tab.get, putLine, modMem, h]

/-- A write of a line keeps the canonical form. -/
theorem wf_putLine (l : Nat) (v : Line) {s : State} (h : Memory.wf s.mem = true) : Memory.wf (putLine l v s).mem = true :=
  (kept_putLine l v (Kept.same s)).store h

/-- A change of what unlisted lines read as keeps the canonical form: the other operation that changes the list of lines. -/
theorem wf_modForms (f : Mem → Mem) (hf : ∀ m, (f m).lines = m.lines) {s : State} (h : Memory.wf s.mem = true) :
    Memory.wf (modForms f s).mem = true := (kept_modForms f (Kept.same s) hf).store h

/-- The memory of the machine after reset is canonical. -/
theorem wf_reset : Memory.wf State.reset.mem = true := by decide

/-- The store of new data keeps the canonical form. -/
theorem wf_storeLine (l : Nat) (d : LineData) {s : State} (h : Memory.wf s.mem = true) : Memory.wf (storeLine l d s).mem = true :=
  (kept_storeLine l d (Kept.same s)).store h

/-- A change that does nothing when its condition fails. -/
@[simp] theorem whenS_true (f : State → State) (s : State) : whenS true f s = f s := rfl
@[simp] theorem whenS_false (f : State → State) (s : State) : whenS false f s = s := rfl
@[simp] theorem eachS_nil {α : Type} (f : α → State → State) (s : State) : eachS [] f s = s := rfl
@[simp] theorem eachS_cons {α : Type} (a : α) (l : List α) (f : α → State → State) (s : State) : eachS (a :: l) f s = eachS l f (f a s) := rfl

end Sys2Proof.Machine
end

