-- ==== Sys2Proof/WellFormed.lean ====
section
/-! DEFINITION. The forms a command's operands must have beyond their types: the sizes the manual gives what the
environment supplies. -/

namespace Sys2Proof

/-- A raw block is its 8 granules of 32 bytes (R104). -/
def RawLine.wf (r : RawLine) : Bool := r.granules.length = 8

/-- The lanes of a flit: 1, 2, 4 or 8 of them, sharing its 272 bytes (R371, R373). -/
def lanesWf (l : List (List Byte)) : Bool :=
  (l.length = 1 || l.length = 2 || l.length = 4 || l.length = 8) && l.all fun b => decide (b.length = 272 / l.length)

/-- EXCHANGE advertises five ingress classes (R376). -/
def Exchange.wf (x : Exchange) : Bool := x.credits.length = 5

/-- A telemetry sample holds the hub, 20 stacks and 2 power companion dies (R506, R537). -/
def Telemetry.wf (t : Telemetry) : Bool := t.stackTemps.length = 20 && t.dies.length = 2

/-- A packet's lines carry one check each, where it carries checks at all (Table 12.5). -/
def Packet.wf (p : Packet) : Bool := p.checks.isEmpty || p.checks.length = p.data.length

/-- The places a hand-off is between: a Carousel, a port, an adapter, a home slice, a Booth, the Roustabout, the Barker (Table 5.4). -/
def placeWf (n : BitVec 8) : Bool :=
  let v := n.toNat
  v ≤ 0x13 || (0x20 ≤ v && v ≤ 0x27) || (0x30 ≤ v && v ≤ 0x33) || (0x38 ≤ v && v ≤ 0x67) || v = 0x70 || v = 0x72

/-- A hand-off that fails lies between two such places, and wherever a check fails it differs. -/
def Upset.wf : Upset → Bool
  | .handOff _ p c f _ => placeWf p && placeWf c && p ≠ c && f ≠ 0
  | .read _ f => f ≠ 0
  | .merge _ _ => true

/-- Whether a command's operands have their forms. -/
def Instr.wf : Instr → Bool
  | .linkFlit _ lanes => lanesWf lanes
  | .linkFastRetrain _ x => x.wf
  | .laneLockLost _ _ x => x.wf
  | .linkTrainingPhaseDone _ x => x.wf
  | .inspectReadDone (some r) => r.wf
  | .carouselReadReturn _ r => r.wf
  | .lineRetryReadReturn _ r => r.wf
  | .siteTrainingDone _ m r _ => (m = 0 || m = 1 || m = 2 || m = 4) && decide (r ≤ 3)
  | .telemetrySample t => t.wf
  | .challenge _ _ n => n.length = 32
  | .getMeasurements _ _ _ n => n.isEmpty || n.length = 32
  | .rd _ _ _ us => us.all Upset.wf
  | .wr _ p us => p.wf && us.all Upset.wf
  | .wrMasked _ _ c => c.ups.all Upset.wf
  | .wrBurst _ p => p.wf
  | .wrStream _ p => p.wf
  | .data _ p => p.wf
  | _ => true

end Sys2Proof
end

