-- ==== Sys2Proof/Tests/Slice0.lean ====
section
/-! SUPPORT. The model's own tests: operands without their form are refused, single steps give what the manual's examples and tables say, and
each statement's hypotheses are met by a concrete state (`witness_<statement>`). -/

namespace Sys2Proof.Tests

set_option Elab.async false

open Sys2Proof.Machine Sys2Proof.Safety

/-! ### Small states -/

/-- The entry of a window: its kind, its first byte, its size field, its permissions in bits [68:64], and its target partition and epoch. -/
def winOf (kind base size perms part epoch : Nat) : BitVec 128 :=
  BitVec.ofNat 128 (pack [(0, 3, kind), (3, 5, part), (8, 8, epoch), (16, 13, size), (29, 29, base >>> 29), (64, 5, perms)])

/-- The rigging of node 5: partition 1 has Booth 0, group 0, queue pairs 0 to 3, counters 0 to 15, a local, a remote and an inbound window, site 0
and part of the links of port 0; partition 0 has MGMT_PRIV; nodes 5 and 6 form a Ring. -/
def tMaps : Maps :=
  { parts := [(0, { enable := true, mgmtPriv := true, encrypt := false, jobKey := 7, pageServer := 0xFF, keySlot := 0, meterBank := 0, ceilUcie := 8, ceilFabin := 8, ceilHome := 8, ceilCar := 8 }),
              (1, { enable := true, mgmtPriv := false, encrypt := false, jobKey := 9, pageServer := 0, keySlot := 1, meterBank := 1, ceilUcie := 8, ceilFabin := 8, ceilHome := 8, ceilCar := 8 })]
    booths := [(0, { part := 1, listBatch := false })]
    groups := [(0, 1)]
    qps := [{ first := 0, count := 4, part := 1, booth := 0, remote := false, owner := 0 }]
    ctrs := [{ first := 0, count := 16, part := 1 }]
    wins := [(0, { part := 1, entry := winOf 1 (5 <<< 42) 63 0x1F 0 0 }), (1, { part := 1, entry := winOf 2 (6 <<< 42) 63 0x1F 2 1 }),
             (2, { part := 1, entry := winOf 3 (5 <<< 42) 63 0x07 0 0 })]
    mirs := [(0, { part := 1, partnerNode := 6, partnerGroup := 3, localDomain := 0, partnerDomain := 1 })]
    ring := some { ringId := 1, count := 2, this := 0, nodes := [5, 6] }
    ports := [(0, { width := 0, enable := true, share := [8, 8] })]
    sites := [(0, { enable := true, passCheck := true, modules := 4, maxRate := 0, powerLimit := 100, part := 1 })]
    pows := [(1, { sleep := true, wakeN := true, idle := 100 }), (255, { sleep := true, wakeN := true, idle := 0 })]
    gates := [(1, { gate := true, idle := 10 })]
    meters := [(1, { part := 1, events := 0, window := 1000 })]
    opts := [(1, 5)] }

/-- The device in service under that rigging, at METER cycle 10^9: stack 0 usable, site 0 and link 0 ACTIVE, partition 1 RUNNING. -/
def tState : State :=
  { State.reset with
    now := 1000000000
    power := { phase := .clocked, pwrgd := true, pllLocked := true, keepAlive := false, admitted := 100 }
    rig := { rigged := true, epoch := 3, lastResult := 0, cur := tMaps }
    mem := { channels := [(0, { trained := true, up := 0xFFFFFFFF })] }
    home := { live := 3 }
    fab := { links := [(0, { st := .active, passing := 0xFF, active := 0xFF, usable := 0xFF, peerNode := 6, peerKind := 2, credits := [(64, 64), (64, 64), (64, 64), (64, 64), (64, 64)],
                             sizes := [(64, 64), (64, 64), (64, 64), (64, 64), (64, 64)] })] }
    ucie := { sites := [(0, { st := .active, modules := 4, sideband := true, rail := true, credits := [(64, 0), (64, 0), (64, 0), (64, 0)] })] }
    parts := [(0, { st := .running }), (1, { st := .running })]
    qps := [(0, { st := .running, sqLog := 4, cqLog := 4 })]
    mgmt := { boot := .running, refreshed := 1000000000 } }

/-- A global address on this node. -/
def here (off : Nat) : Word := BitVec.ofNat 64 (globalAddr 5 off)

/-- A site request for an address, of the length its type has. -/
def siteP (t : Nat) (a : Word) : Packet :=
  let p : Packet := { ptype := BitVec.ofNat 8 t, tag := 0x1234, addr := a, data := List.replicate (pktLines { ptype := BitVec.ofNat 8 t }) 0x55 }
  { p with len := BitVec.ofNat 16 (pktLen true p) }

/-- A fabric request of node 6 for an address here. -/
def linkP (t : Nat) (a : Word) : Packet :=
  let p : Packet := { ptype := BitVec.ofNat 8 t, tag := 0x12345, srcNode := 6, dstNode := 5, part := 1, epoch := 3, jobKey := 9, addr := a }
  { p with len := BitVec.ofNat 16 (pktLen false p) }

/-- What a host sends in EXCHANGE that passes one lane and gives credits. -/
def exch (credits : List (Nat × Nat)) : Exchange :=
  { lanes := 1, node := 0, port := 0, device := false, stepping := 0, compatA := false, credits := credits, inverted := 0, reversed := false, skew := 0 }

/-- A write's packet with its data and its carried checks. -/
def withData (p : Packet) (ds : List LineData) : Packet := { p with data := ds, checks := answerChecks p.addr ds }

/-! ### Operands without their form are refused (WellFormed) -/

theorem test_wf_flit_lanes : (Instr.linkFlit 0 [[0], [0], [0]]).wf = false := by decide
theorem test_wf_flit_bytes : (Instr.linkFlit 0 [List.replicate 271 0]).wf = false := by decide +kernel
theorem test_wf_flit_good : (Instr.linkFlit 0 (List.replicate 8 (List.replicate 34 0))).wf = true := by decide +kernel
theorem test_wf_exchange_fast : (Instr.linkFastRetrain 0 (exch [])).wf = false := by decide
theorem test_wf_exchange_lane : (Instr.laneLockLost 0 0 (exch [(1, 1)])).wf = false := by decide
theorem test_wf_exchange_training : (Instr.linkTrainingPhaseDone 0 (exch [])).wf = false := by decide
theorem test_wf_inspect : (Instr.inspectReadDone (some { granules := [] })).wf = false := by decide
theorem test_wf_inspect_none : (Instr.inspectReadDone none).wf = true := by decide
theorem test_wf_return : (Instr.carouselReadReturn 0 { granules := [] }).wf = false := by decide
theorem test_wf_retry_return : (Instr.lineRetryReadReturn 0 { granules := List.replicate 7 (0, 0) }).wf = false := by decide
theorem test_wf_site_modules : (Instr.siteTrainingDone 0 3 0 0).wf = false := by decide
theorem test_wf_site_rate : (Instr.siteTrainingDone 0 4 4 0).wf = false := by decide
theorem test_wf_telemetry : (Instr.telemetrySample { hub := 0, stackTemps := [], dies := [0, 0], inputMv := 0, inputW := 0, coreA := 0 }).wf = false := by decide
theorem test_wf_dies : (Instr.telemetrySample { hub := 0, stackTemps := List.replicate 20 0, dies := [0], inputMv := 0, inputW := 0, coreA := 0 }).wf = false := by decide
theorem test_wf_challenge : (Instr.challenge .i3c 0 [1]).wf = false := by decide
theorem test_wf_measurements : (Instr.getMeasurements .i3c 1 false [1]).wf = false := by decide
theorem test_wf_wr : (Instr.wr (.link 0) { data := [0], checks := [1, 2] } []).wf = false := by decide
theorem test_wf_wr_burst : (Instr.wrBurst (.link 0) { data := [0], checks := [1, 2] }).wf = false := by decide
theorem test_wf_wr_stream : (Instr.wrStream (.link 0) { data := [0], checks := [1, 2] }).wf = false := by decide
theorem test_wf_data : (Instr.data 0 { data := [0], checks := [1, 2] }).wf = false := by decide

/-! ### The machine (Obligations of the machine) -/

theorem witness_StepRunsFrontCommand : ({ tState with pending := [.darkExit] }).pending = .darkExit :: [] := by decide
theorem witness_IdleStepIsOneCycle : tState.pending = [] ∧ tState.mem.parked = [] ∧ tState.ucie.fences = [] ∧ tState.power.running = BitVec.ofNat 18 0x3FFFF := by
  decide
theorem witness_StepKeepsStoreCanonical : Memory.wf (putLine 7 { data := 1 } tState).mem = true := by decide +kernel
theorem witness_EveryCommandCompletes : ∃ t, exec .darkExit tState = .next t := ⟨_, rfl⟩

/-! ### Requests at their home -/

/-- A site packet of a type at site 0, as its request for partition 1. -/
def siteR (s : State) (t : BitVec 8) (p : Packet) : Req := { siteReq s 0 (atPort t (.site 0) p) 1 with order := s.mem.stamp + 1 }

/-- The state in which that request is served. -/
def siteS (s : State) (t : BitVec 8) (p : Packet) : State :=
  lookUnder (siteR s t p).epoch (counted (siteBufWrite 0 (atPort t (.site 0) p) (oweSite 0 (atPort t (.site 0) p).ptype.toNat (atPort t (.site 0) p).len.toNat s)))

/-- Whether a request meets nothing but its lines. -/
def unhindered (s : State) (r : Req) : Bool :=
  s.upsets.isEmpty && (earlier s r).isNone && !fromLost s r && !(s.home.txns.any fun t => sameReq t.req r) &&
  (decide ((reach s .slice r).place = .slice) && decide ((reach s .line r).place = .line) && !behind s (reach s .slice r))

theorem unhindered_iff {s : State} {r : Req} (h : unhindered s r = true) : Unhindered s r := by
  simp only [unhindered, Bool.and_eq_true, Bool.not_eq_true', List.isEmpty_iff, decide_eq_true_eq, Option.isNone_iff_eq_none] at h
  obtain ⟨⟨⟨⟨h1, h2⟩, h3⟩, h4⟩, ⟨h5, h6⟩, h7⟩ := h
  exact ⟨h1, h2, h3, h4, h5, h6, h7⟩

/-- Whether a packet passes the checks of site 0. -/
def siteOk (s : State) (t : BitVec 8) (p : Packet) : Bool :=
  let q := atPort t (.site 0) p
  let r := siteR s t p
  unhindered (siteS s t p) r &&
  (decide ((getSite s 0).st = .active) && sitePart s.rig.cur 0 = some 1 && decide ((getPart s 1).st = .running)) &&
  (siteFormOk q && nodeOf q.addr.toNat = thisNode s && !outsideRing s r && (bufferServes s r).isNone && counterOk s r && (actor s r).isNone) &&
  (!behindFence s 0 q && (s.home.resends.find? (resendFits s r)).isNone) &&
  (match findWin (mapsAt s r.epoch) r.part 1 q.addr.toNat (pktBytes q) with
   | some (_, e) => winSite e && winPermits e (pktPerms q).1 (pktPerms q).2.1 (pktPerms q).2.2
   | none => false)

/-- What a packet of site 0 that passes its checks is admitted as. -/
theorem siteAdmits (s : State) (t : BitVec 8) (p : Packet) (h : siteOk s t p = true) : Admits t (.site 0) p s (siteR s t p) (siteS s t p) := by
  simp only [siteOk, Bool.and_eq_true, decide_eq_true_eq, Bool.not_eq_true', Option.isNone_iff_eq_none] at h
  obtain ⟨⟨⟨⟨b0, ⟨⟨b1, b2⟩, b3⟩⟩, ⟨⟨⟨⟨⟨h1, h2⟩, h3⟩, h4⟩, h5⟩, h6⟩⟩, ⟨e1, e2⟩⟩, h7⟩ := h
  refine ⟨unhindered_iff b0, b1, b2, rfl, rfl, h1, e1, b3, h2, ?_, h3, h4, h5, h6, e2⟩
  split at h7
  · rename_i i e x
    exact ⟨i, e, x, (by simpa using h7 : _ ∧ _).1, (by simpa using h7 : _ ∧ _).2⟩
  · cases h7

/-- A packet of a type at the ingress of link 0, as its request for partition 1. -/
def linkR (s : State) (t : BitVec 8) (p : Packet) : Req :=
  { origin := .link 0, pkt := atPort t (.link 0) p, part := bits (atPort t (.link 0) p).part.toNat 0 5, epoch := (atPort t (.link 0) p).epoch.toNat,
    time := headTime s 0 (atPort t (.link 0) p), order := s.mem.stamp + 1 }

/-- The state in which it has left the ingress. -/
def linkL (s : State) (t : BitVec 8) (p : Packet) : State := leftIngress s 0 (atPort t (.link 0) p) (linkR s t p)

/-- The state in which that request is served. -/
def linkS (s : State) (t : BitVec 8) (p : Packet) : State :=
  lookUnder (linkR s t p).epoch (counted (linkL s t p))

/-- Whether a packet passes the checks of link 0. -/
def linkOk (s : State) (t : BitVec 8) (p : Packet) : Bool :=
  let q := atPort t (.link 0) p
  let r := linkR s t p
  let s0 := linkL s t p
  unhindered (linkS s t p) r && decide (s0.mem.stamp = s.mem.stamp) &&
  (arrives s 0 q && formOk q && q.ptype ≠ 0x0A && q.ptype ≠ 0x0B && decide (q.len.toNat = pktLen false q)) &&
  ((getPart s0 r.part).st = .running && !sleeping s0 r.part && !((getPort s0 0).bounce.any fun b => b.wake = some r.part)) &&
  (match mapsOf s0 q.epoch.toNat with
   | some m => jobKeyOf m r.part = q.jobKey.toNat && (match findWin m r.part 3 q.addr.toNat (pktBytes q) with
     | some (_, e) => winPermits e (pktPerms q).1 (pktPerms q).2.1 (pktPerms q).2.2
     | none => false)
   | none => false) &&
  (counterOk s0 r && (grantedEntry s0 0 q).isNone && !mustBounce s0 0 q) &&
  ((resendEntry s0 0 q).isNone && (carriedBad s0 q).isNone && (s0.home.resends.find? (resendFits s0 r)).isNone)

/-- What a packet of link 0 that passes its checks is admitted as. -/
theorem linkAdmits (s : State) (t : BitVec 8) (p : Packet) (h : linkOk s t p = true) : Admits t (.link 0) p s (linkR s t p) (linkS s t p) := by
  simp only [linkOk, Bool.and_eq_true, decide_eq_true_eq, Bool.not_eq_true', Option.isNone_iff_eq_none] at h
  obtain ⟨⟨⟨⟨⟨⟨b0, e⟩, ⟨⟨⟨⟨p3, p6⟩, p4⟩, p5⟩, p7⟩⟩, ⟨⟨a1, a2⟩, a3⟩⟩, w⟩, ⟨⟨c1, c2⟩, c3⟩⟩, ⟨⟨d1, d2⟩, d3⟩⟩ := h
  refine ⟨linkL s t p, unhindered_iff b0, p3, p7, ?_, rfl, rfl, p6, ⟨p4, p5⟩, a1, a2, a3, ?_, c1, c2, c3, d1, d2, d3⟩
  · rw [e]; rfl
  split at w
  · rename_i m x
    rw [Bool.and_eq_true, decide_eq_true_eq] at w
    obtain ⟨y, z⟩ := w
    split at z
    · rename_i i e v
      exact ⟨m, i, e, x, y, v, z⟩
    · cases z
  · cases w

/-- Whether a packet of a type comes on link 0, and the state in which it has left the ingress. -/
def comes (s : State) (p : Packet) (t : BitVec 8) : Bool :=
  arrives s 0 (linkSized { p with ptype := t }) && decide ((linkSized { p with ptype := t }).len.toNat = pktLen false (linkSized { p with ptype := t }))
def came (s : State) (p : Packet) (t : BitVec 8) : State := takeIngress 0 (linkSized { p with ptype := t }) s

theorem comes_iff {s : State} {p : Packet} {t : BitVec 8} (h : comes s p t = true) : Comes s 0 (linkSized { p with ptype := t }) (came s p t) := by
  simp only [comes, Bool.and_eq_true, decide_eq_true_eq] at h
  exact ⟨h.1, h.2, rfl⟩

/-- Whether a request comes to its line and has its turn there. -/
def lineOpen (s : State) (r : Req) (l : Nat) : Bool :=
  !lineHeld s l && (s.mem.parked.all fun y => !(reqLines y.req).contains l) && decide (lineNo (offOf r.pkt.addr.toNat) = l) &&
  decide ((reach (counted s) .line { r with order := s.mem.stamp + 1 }).place = .line)

theorem lineOpen_iff {s : State} {r : Req} {l : Nat} (h : lineOpen s r l = true) : LineOpen s r l := by
  simp only [lineOpen, Bool.and_eq_true, decide_eq_true_eq, Bool.not_eq_true', List.all_eq_true] at h
  obtain ⟨⟨⟨h1, h2⟩, h3⟩, h4⟩ := h
  exact ⟨h1, fun y m c => by simpa [c] using h2 y m, h3, h4⟩

/-- Whether a narrow write finds a merge entry free at its line. -/
def mergeFree (s : State) (r : Req) : Bool := (reqLines r).all fun l => decide (mergesUsed s l < mergeEntries) && (joinedTo s l).isEmpty

theorem mergeFree_iff {s : State} {r : Req} (h : mergeFree s r = true) : MergeFree s r := by
  simp only [mergeFree, List.all_eq_true, Bool.and_eq_true, decide_eq_true_eq, List.isEmpty_iff] at h
  exact fun l m => ⟨(h l m).1, (h l m).2⟩

/-- Whether a line is good in a state. -/
def goodLine (s : State) (l : Nat) : Bool :=
  (!fenced s l && !lineHeld s l && (sleeperOf s [l]).isNone && (findTxn s l).isNone && !(s.home.reserves.any fun x => x.line = l) && (findHot s l).isNone &&
   channelUp s l && !keyMissing s l) && (decide (dirState s l = .i) && !(blockCompressed s l && (blockLines l).any (badCheck s)) && !(getLine s l).poison &&
     checkOk s l (getLine s l))

theorem goodLine_iff {s : State} {l : Nat} (h : goodLine s l = true) : GoodLine s l := by
  simp only [goodLine, Bool.and_eq_true, decide_eq_true_eq, Bool.not_eq_true', Option.isNone_iff_eq_none] at h
  obtain ⟨⟨⟨⟨⟨⟨⟨⟨h1, h2⟩, h3⟩, h4⟩, h5⟩, h6⟩, h7⟩, h8⟩, ⟨⟨h9, h12⟩, h10⟩, h11⟩ := h
  exact ⟨⟨⟨h1, h2, h3, h4, h5, h6, h7, h8⟩, h9, h12⟩, h10, h11⟩

/-- Whether a packet is admitted and each of its lines is good and not mirrored, from site 0 and from link 0. -/
def siteGood (s : State) (t : BitVec 8) (p : Packet) : Bool :=
  siteOk s t p && (reqLines (siteR s t p)).all fun l => goodLine (siteS s t p) l && !mirrored (siteS s t p) l

def linkGood (s : State) (t : BitVec 8) (p : Packet) : Bool :=
  linkOk s t p && (reqLines (linkR s t p)).all fun l => goodLine (linkS s t p) l && !mirrored (linkS s t p) l

/-! ### Requests at their home -/

theorem witness_ReadsReturnTheStoredLines :
    (siteGood tState 0x01 (siteP 0x01 (here 64)) && siteGood tState 0x02 (siteP 0x02 (here 0)) && siteGood tState 0x03 (siteP 0x03 (here 0)) &&
     siteGood tState 0x14 (siteP 0x14 (here 0)) && linkGood tState 0x01 (linkP 0x01 (here 64)) && linkGood tState 0x02 (linkP 0x02 (here 0)) &&
     linkGood tState 0x03 (linkP 0x03 (here 0)) && reqLines (siteR tState 0x01 (siteP 0x01 (here 64))) = [1] && passCheck tState 0) = true := by
  decide +kernel

/-- The hypotheses of the read statements, met together. -/
theorem witness_admitted_good_lines : ∃ l r s, Admits 0x02 (.site 0) (siteP 0x02 (here 0)) tState r s ∧ l ∈ reqLines r ∧ GoodLine s l :=
  ⟨0, _, _, siteAdmits _ _ _ (by decide +kernel), by decide +kernel, goodLine_iff (by decide +kernel)⟩

theorem witness_admitted_fabric_request : ∃ r s, Admits 0x01 (.link 0) (linkP 0x01 (here 64)) tState r s := ⟨_, _, linkAdmits _ _ _ (by decide +kernel)⟩

theorem witness_WritesAreAccepted :
    (siteGood tState 0x04 (siteP 0x04 (here 64)) && siteGood tState 0x15 (siteP 0x15 (here 64)) && siteGood tState 0x05 (siteP 0x05 (here 64)) &&
     siteGood tState 0x06 (siteP 0x06 (here 256)) && siteGood tState 0x07 (siteP 0x07 (here 0)) &&
     linkGood tState 0x04 (withData (linkP 0x04 (here 64)) [7]) && linkGood tState 0x05 { withData (linkP 0x05 (here 64)) [7] with mask := BitVec.allOnes 64 } &&
     linkGood tState 0x06 (withData (linkP 0x06 (here 256)) [1, 2, 3, 4]) && linkGood tState 0x07 (withData (linkP 0x07 (here 0)) [1, 2, 3, 4])) = true := by
  decide +kernel

theorem witness_UpsetsOnTheDie :
    (siteGood tState 0x05 (siteP 0x05 (here 64)) && reqLines (siteR tState 0x05 (siteP 0x05 (here 64))) = [1] && siteGood tState 0x01 (siteP 0x01 (here 64)) &&
     mergeFree (siteS tState 0x05 (siteP 0x05 (here 64))) (siteR tState 0x05 (siteP 0x05 (here 64))) &&
     siteGood tState 0x04 (siteP 0x04 (here 64)) && !(getPart tState 1).evEn && (Upset.handOff (here 64) 0x30 0x38 1 true).wf &&
     !(Upset.handOff (here 64) 0x30 0x30 1 true).wf && !(Instr.wrMasked (.site 0) {} ⟨false, [.handOff (here 64) 0x30 0x38 0 true]⟩).wf) = true := by
  decide +kernel

/-- A narrow write of byte 0 of line 1, and one of byte 1. -/
def narrowR (m : Word) (d : LineData) : Req := siteR tState 0x05 { siteP 0x05 (here 64) with mask := m, data := [d] }

/-- R117: a merge whose checks disagree twice leaves the line and counts a fault; R120: a narrow write that meets a merge entry at its read joins it, and
both are applied in order. -/
theorem test_merge_fault :
    (let s := serveNarrow 2 (narrowR 1 7) { tState with upsets := [.merge 1 true] }
     ((getStack s 0).mergeFaults, (getStack s 0).merges, decide (getLine s 1 = getLine tState 1))) = (1, 0, true) := by decide +kernel
theorem test_merge_joined :
    (let s := park { narrowR 1 7 with retried := true } .line (holdLine 1 .repair tState)
     let s := serve (narrowR 2 0x900) s
     let m : Merge := ((narrowR 1 7) :: joinedTo s 1).foldl Merge.apply { image := 0, mask := 0, done := [] }
     ((getStack s 0).coalesced, m.image, m.mask, s.mem.parked.map fun p => p.req.joined)) = (1, 0x907, 3, [false, true]) := by decide +kernel

/-- An 8-byte ADD, and a CSWAP that fails, with their operands. -/
def addP (p : Packet) : Packet := { p with code := 0x10, opA := 5 }
def cswapP (p : Packet) : Packet := let q : Packet := { p with code := 0x19, opA := 1, opB := 2 }; { q with len := BitVec.ofNat 16 (pktLen true q) }

theorem witness_FarAtomicsApply :
    (siteGood tState 0x08 (addP (siteP 0x08 (here 72))) && linkGood tState 0x08 (addP (linkP 0x08 (here 72))) && siteGood tState 0x08 (cswapP (siteP 0x08 (here 64))) &&
     mergeFree (linkS tState 0x08 (addP (linkP 0x08 (here 72)))) (linkR tState 0x08 (addP (linkP 0x08 (here 72)))) &&
     (constituents (linkR tState 0x08 (addP (linkP 0x08 (here 72)))).pkt).all (fun k =>
       (findReplay (linkS tState 0x08 (addP (linkP 0x08 (here 72)))) (linkR tState 0x08 (addP (linkP 0x08 (here 72)))) k).isNone) &&
     !pktCombined (addP (linkP 0x08 (here 72))) && !pktResend (addP (linkP 0x08 (here 72))) && !atomicWrites 9 0 1 && atomicWrites 0 0 5) = true := by
  decide +kernel

/-- Table 7.3 at the edges of a byte: ADD wraps, the signed minimum of 0x80 and 0x7F, CSWAP that compares equal. -/
theorem test_atomic_edges : atomicNew 0 8 255 1 0 = 0 ∧ atomicNew 4 8 0x80 0x7F 0 = 0x80 ∧ atomicNew 6 8 0x80 0x7F 0 = 0x7F ∧ atomicNew 9 8 3 3 9 = 9 := by decide

/-- A publication of a version over a header of another. -/
def pubP (v g : Nat) : Packet := { linkP 0x09 (here 64) with body := leBytes 8 v ++ leBytes 16 g ++ leBytes 8 (here 0).toNat ++ leBytes 8 4096 ++ leBytes 8 0 }
def pubState (v : Nat) : State :=
  putLine 1 { data := BitVec.ofNat 512 v } (modMem (fun m => { m with attrs := [(0, { publishable := true })] }) tState)

theorem witness_PublicationsAreDecided :
    (linkGood (pubState 0) 0x09 (pubP 1 0) && linkGood (pubState 0) 0x09 (pubP 0 0) && linkGood (pubState 0) 0x09 (pubP 0 1) &&
     commitOk (linkS (pubState 2) 0x09 (pubP 1 0)) (pubP 1 0) && !commitOk (linkS tState 0x09 (pubP 1 0)) (pubP 1 0) && linkGood (pubState 2) 0x09 (pubP 1 0) &&
     lineField ((stored (linkS (pubState 2) 0x09 (pubP 1 0)) (linkR (pubState 2) 0x09 (pubP 1 0))).headD 0) 0 8 = 2) = true := by decide +kernel

/-- Agent 0 alone shares line 1, by an entry of the directory cache. -/
def shareState : State := modHome (fun h => { h with cache := [{ line := 1, dir := .s 1, masked := 0, pinned := false, used := 0 }] }) tState

theorem witness_CoherentGrants :
    (siteGood tState 0x10 (siteP 0x10 (here 64)) && siteGood tState 0x11 (siteP 0x11 (here 64)) &&
     siteOk shareState 0x12 (siteP 0x12 (here 64)) && decide (dirState shareState 1 = .s 1) &&
     reqAgent tState (siteR tState 0x10 (siteP 0x10 (here 64))) = some 0 && (freeTxn tState (sliceOfLine 1)).isSome && !agentLostBit tState 0) = true := by
  decide +kernel

/-- A transaction of agent 0 on line 1, granted, with one agent that met RETRY. -/
def grantedTxn : Txn :=
  { slice := sliceOfLine 1, idx := 0, line := 1, coh := .own, agent := some 0, req := siteR tState 0x11 (siteP 0x11 (here 64)), probes := [], granted := some 5,
    after := .o 0, owner := none, data := none, grant := none, sent := true, dead := false, gone := false, served := true, completed := false, waiters := [.agent 3] }
def grantedState : State := modHome (fun h => { h with txns := [grantedTxn] }) tState

theorem witness_LinesAreGivenUpAndTransactionsClose :
    (siteOk (setDir 1 (.o 0) tState) 0x13 (siteP 0x13 (here 64)) && siteOk (setDir 1 (.o 0) tState) 0x13 { siteP 0x13 (here 64) with aux := 1, len := 6 } &&
     decide (dirState (setDir 1 (.o 0) tState) 1 = .o 0) &&
     !(blockCompressed tState 1) && !lineHeld grantedState 1 && grantedState.integ.ops.isEmpty && (grantedTxn.granted).isSome && grantedTxn.probes.isEmpty && !grantedTxn.gone &&
     siteMessageOk (sized (siteP 0x18 (here 64))) && findTxn grantedState 1 = some grantedTxn && grantedTxn.agent = some (4 * thisIndex grantedState + 0) &&
     comes grantedState (linkP 0x18 (here 64)) 0x18 && memberOf (came grantedState (linkP 0x18 (here 64)) 0x18) 6 = some 1 && memberLive (came grantedState (linkP 0x18 (here 64)) 0x18) 1 &&
     { grantedTxn with agent := some 4 }.agent = some (pktAgent 1 (linkSized { linkP 0x18 (here 64) with ptype := 0x18 }))) = true := by
  decide +kernel

theorem witness_SiteChecksInOrder :
    (!siteFormOk (atPort 0x04 (.site 0) { siteP 0x04 (here 64) with epoch := 1 }) && siteFormOk (atPort 0x04 (.site 0) (siteP 0x04 (here 64))) &&
     sitePart { tMaps with sites := [] } 0 = none && sitePart tMaps 0 = some 1 &&
     (findWin (mapsAt tState tState.rig.epoch) 1 1 (here 0x27FFFFFFFC0).toNat 64).isNone &&
     (match findWin { tMaps with wins := [(0, { part := 1, entry := winOf 1 (5 <<< 42) 63 0x1D 0 0 })] } 1 1 (here 64).toNat 64 with
      | some (_, e) => !(winSite e && winWrite e)
      | none => false)) = true := by decide +kernel

/-! ### Answers, coherence and mirroring between devices -/

/-- A request of site 0 to node 6 that awaits its response, and the state that holds it. -/
def outReq (t : BitVec 8) : Outst :=
  { tag := 0x23, link := 0, part := 1, epoch := 3, time := 5,
    pkt := { ptype := t, tag := 0x23, srcNode := 5, dstNode := 6, part := 1, epoch := 1, addr := BitVec.ofNat 64 (globalAddr 6 64) }, origin := .site 0, siteTag := 4,
    firstAt := 5, lastAt := 5, resends := 0, ticketed := true, kept := false, sent := true, grantId := none, unbounced := [], restart := false, reread := false,
    resend := none, again := none, window := 1, nc := false, life := 0 }
def outState (t : BitVec 8) : State := modFab (fun f => { f with outst := [outReq t] }) tState

/-- A response of node 6 to it. -/
def rspP : Packet := { len := 0, tag := 0x23, srcNode := 6, dstNode := 5, data := [0], checks := answerChecks (BitVec.ofNat 64 (globalAddr 6 64)) [0] }

/-- Whether a response meets the request. -/
def meets (t u : BitVec 8) : Bool :=
  comes (outState u) rspP t && findOutst (came (outState u) rspP t) 6 0x23 = some (outReq u)

theorem witness_ResponsesEndTheirRequests :
    (meets 0x40 0x04 && meets 0x40 0x0B && meets 0x41 0x01 && meets 0x42 0x08 && meets 0x43 0x09 && meets 0x48 0x0A && meets 0x44 0x07 &&
     rspP.data.length = pktLines (outReq 0x01).pkt && statusGood (statusOf rspP.code.toNat) && rspP.checks = answerChecks (outReq 0x01).pkt.addr rspP.data) = true := by
  decide +kernel

theorem witness_BouncedRequestsWait :
    (meets 0x45 0x04 && meets 0x47 0x04 && meets 0x46 0x04 && (outReq 0x04).ticketed && outLink (came (outState 0x04) rspP 0x46) 3 1 (outReq 0x04).pkt = some 0) = true := by
  decide +kernel

/-- A bounced request of node 6 that waits for its grant, and one that holds it. -/
def bounced (g : Option Nat) : Bounce := { id := 9, link := 0, node := 6, tag := 1, addr := here 64, at_ := 5, len := 2, cls := 0, slice := 1, wake := none, granted := g, resend := none }
def bounceState (g : Option Nat) : State := modPort 0 (fun x => { x with bounce := [bounced g] }) tState

theorem witness_LinkLocalPacketsCreditsAndGrants :
    (linkUp tState 0 && decide ((getSite tState 0).st = .active) &&
     ((getPort (bounceState none) 0).bounce.find? fun b => b.resend.isNone && b.wake.isNone && b.granted.isNone && b.slice = 1) = some (bounced none) &&
     sliceTickets (bounceState none) 0 1 + sliceGrants (bounceState none) 0 1 < 1024 && grantedSlots (bounceState none) 0 0 + 2 ≤ reservedSlots (bounceState none) 0 0 &&
     siteCreditOk { ptype := 0x60, len := 1, body := leBytes 8 0 } && !siteCreditOk { ptype := 0x60, len := 1, code := 1, body := leBytes 8 0 } &&
     ((getPort (bounceState (some 7)) 0).bounce.find? fun b => b.id = 9) = some (bounced (some 7)) &&
     (getLink (modLink 0 (fun x => { x with owed := [3, 0, 0, 0, 0], owedAt := some 5 }) tState) 0).owedAt = some 5) = true := by decide +kernel

/-- Credits at the edges of a class's sizes: the reserved part fills first, and nothing exceeds the sizes (R384). -/
theorem test_refill_edges : refill (64, 32) (60, 30) 1 = (60, 31) ∧ refill (64, 32) (60, 30) 4 = (62, 32) ∧ refill (64, 32) (64, 32) 9 = (64, 32) := by decide

/-- A transaction of this home with a probe of site 0 unanswered. -/
def probedTxn : Txn := { grantedTxn with granted := none, probes := [{ agents := [0], member := 0, sentAt := 5, answered := false }], agent := some 1 }
def probedState : State := modHome (fun h => { h with txns := [probedTxn] }) tState

theorem witness_ProbesAndTheirAnswers :
    (comes tState (linkP 0x20 (here 64)) 0x20 && (liveSender (came tState (linkP 0x20 (here 64)) 0x20) (linkP 0x20 (here 64))).isSome &&
     siteAgent (came tState (linkP 0x20 (here 64)) 0x20) 0 && (spendSite (getSite tState 0) { linkP 0x20 (here 64) with len := 2 }).isSome &&
     findTxn probedState (msgLine (siteP 0x2B (here 64))) = some probedTxn &&
     siteMessageOk (sized (siteP 0x2B (here 64))) && siteMessageOk (sized { siteP 0x2C (here 64) with aux := 2 }) && !siteMessageOk (sized { siteP 0x2B (here 64) with dstNode := 5 }) &&
     (probedTxn.probes.any fun x => x.agents.contains (4 * thisIndex probedState + 0) && x.member = thisIndex probedState)) = true := by decide +kernel

/-- RING_HELLO's body for the small state's record. -/
def helloP : Packet := { linkP 0x25 0 with body := leBytes 2 1 ++ [2] ++ leBytes 5 0 ++ leBytes 2 5 ++ leBytes 2 6 ++ leBytes 20 0 }

theorem witness_RingMembershipAndRevival :
    (comes tState (linkP 0x24 (here 0)) 0x24 && (liveSender (came tState (linkP 0x24 (here 0)) 0x24) (linkP 0x24 (here 0))).isSome && comes tState helloP 0x25 &&
     !agentLostBit tState 31 && ringOf tState = tMaps.ring && memberOf tState 6 = some 1 &&
     (match tMaps.ring with | some r => ringAgrees r helloP.body | none => false) && writerLive tState .ringmaster &&
     !(tState.home.sweeps.any fun x => x.agent = 0)) = true := by decide +kernel

theorem witness_CoherentAnswersReachTheAgent :
    ((outState 0x10).fab.outst.find? (fun o => o.tag = 0x23 && 0x10 ≤ o.pkt.ptype.toNat && o.pkt.ptype.toNat ≤ 0x13 && o.pkt.dstNode = rspP.srcNode) = some (outReq 0x10) &&
     comes (outState 0x10) { rspP with addr := here 64, checks := answerChecks (here 64) [0] } 0x28 && (liveSender (came (outState 0x10) rspP 0x28) rspP).isSome &&
     siteMessageOk (sized { siteP 0x28 (here 64) with len := 0 }) && !siteMessageOk (sized { siteP 0x29 (here 64) with len := 3 }) &&
     decide ((outReq 0x10).origin = .site 0) && ((findTxn probedState (msgLine (siteP 0x28 (here 64)))).bind Txn.agent).isSome) = true := by decide +kernel

/-- The partner of node 6's group 3, and a mirror packet for a line of it. -/
def partnerState : State := modMirror 0 (fun m => { m with state := .inStep, partner := true, node := 6, group := 3 }) tState
def mirP (t : Nat) : Packet :=
  { linkP t (here 64) with data := [7], body := leBytes 4 (lineCheck (BitVec.ofNat 64 (globalAddr 6 ((3 <<< 35) ||| 64))) 7).toNat ++ leBytes 4 0 ++ leBytes 8 (globalAddr 6 ((3 <<< 35) ||| 64)), aux := 1, code := 3 }

theorem witness_PartnerTakesMirrorPackets :
    (let s1 := came partnerState (mirP 0x30) 0x30
     comes partnerState (mirP 0x30) 0x30 && lineOpen s1 (mirrorReq s1 0 (linkSized (mirP 0x30))) 1 && (resendEntry s1 0 (linkSized (mirP 0x30))).isNone && !badCheck s1 1 &&
     (match Tab.find s1.rig.cur.mirs 0 with | some m => m.partnerNode = 6 && m.partnerGroup = 3 | none => false) &&
     (getMirror s1 0).partner && decide ((getMirror s1 0).state ≠ .promoted) && !keyMissing s1 1 && channelUp s1 1 &&
     bodyCheck (mirP 0x30) = lineCheck (bodyAddr (mirP 0x30)) 7 && decide (getMirror tState 0 = {}) && groupOfLine (msgLine (mirP 0x30)) = 0) = true := by decide +kernel

/-- The home of a pair with a mirror write, or a repair, of line 1 under way. -/
def homeOp (k : MirrorKind) : MirrorOp :=
  { tag := 0x23, link := 0, group := 0, kind := k, lines := [1], sentAt := 5, reqs := [], status := .ok, cmd := none, pkt := { dstNode := 6 }, again := none, sent := true, found := 3 }
def homeState (k : MirrorKind) : State :=
  modInteg (fun x => { x with ops := [homeOp k] }) (modMirror 0 (fun m => { m with state := .inStep, node := 6, group := 3 }) tState)

theorem witness_HomeTakesMirrorAnswers :
    (comes (homeState .write) rspP 0x38 && findOp (came (homeState .write) rspP 0x38) rspP = some (homeOp .write) && comes (homeState .repair) { rspP with body := leBytes 16 0 } 0x39 &&
     findOp (came (homeState .repair) rspP 0x39) rspP = some (homeOp .repair) && (homeOp .repair).reqs.isEmpty &&
     (homeOp .repair).lines = [1] && rspP.code = 0) = true := by decide +kernel

/-! ### Links, translation and sites -/

/-- Link 0 in a state of its training. -/
def trainState (f : Link → Link) : State := modLink 0 (fun x => f { x with st := .training }) tState

theorem witness_LinkTraining :
    (decide ((getLink (trainState fun x => { x with phase := .exchange }) 0).st = .training) && decide ((getLink (trainState fun x => { x with phase := .exchange }) 0).phase = .exchange) &&
     (exch []).skew ≤ skewLimit && skewLimit < { exch [] with skew := skewLimit + 1 }.skew && linkLanes tState 0 = 0xFF && 1 &&& linkLanes tState 0 ≠ 0 && (getLink (trainState fun x => { x with attempts := 2 }) 0).attempts = 2 &&
     (getLink (trainState id) 0).phaseAt + phaseLimit .detect ≤ tState.now && !(getLink (trainState id) 0).fast && (getLink tState 0).downAt + 50000000 ≤ tState.now && writerPriv tState .ringmaster &&
     writerLive tState (.site 0) && !writerPriv tState (.site 0) && linkExists tState 0) = true := by decide +kernel

/-- The lanes a link takes: the whole, a half, the lowest quarter and a single lane (R375). -/
theorem test_choose_lanes : chooseLanes 0xFF = 0xFF ∧ chooseLanes 0xF1 = 0xF0 ∧ chooseLanes 0x66 = 0x02 ∧ chooseLanes 0x30 = 0x30 ∧ chooseLanes 0 = 0 := by decide

theorem witness_FlitsReplayAndDegrade :
    (decide ((getLink tState 0).st = .active) && (List.replicate 8 (List.replicate 34 (0 : Byte))).length = linkWidth tState 0 &&
     (getLink tState 0).ackAt + 1000 ≤ tState.now && 0xFF &&& (getLink tState 0).usable.toNat ≠ 0 && (getLink tState 0).active.getLsbD 0 &&
     (getLink (modLink 0 (fun x => { x with tries := [8], unacked := [(0, [])] }) tState) 0).tries.any (8 ≤ ·) &&
     (getLink (modLink 0 (fun x => { x with tries := [8], unacked := [(0, [])] }) tState) 0).unacked ≠ [] &&
     (getLink (trainState fun x => { x with fast := true, usable := 0xFF, fastTries := 2 }) 0).fast &&
     setBit 0xFF 0 false &&& (getLink tState 0).usable.toNat ≠ 0) = true := by decide +kernel

theorem witness_FabricTimers :
    (outstByTag (outState 0x04) 0x23 = some (outReq 0x04) && (outReq 0x04).lastAt + fabricTimeout (outState 0x04) ≤ (outState 0x04).now &&
     outstByTag (outState 0x08) 0x23 = some (outReq 0x08) && !(outReq 0x08).restart && (outReq 0x08).grantId.isNone && (homeOp .write).sent && (outReq 0x08).firstAt + retention (outState 0x08) ≤ (outState 0x08).now &&
     (outLink (modOutst 0x23 (fun x => { x with resends := x.resends + 1 }) (outState 0x08)) 3 1 (outReq 0x08).pkt).isSome &&
     ((homeState .write).integ.ops.find? fun o => o.tag = 0x23) = some (homeOp .write) && (homeOp .write).sentAt + fabricTimeout (homeState .write) ≤ (homeState .write).now &&
     !(getMirror (homeState .write) 0).partner && decide ((getMirror (homeState .write) 0).state = .inStep)) = true := by decide +kernel

/-- A command of queue pair 0 in Booth 0 that runs, with its entry. -/
def tCmd (entry : Nat) : Cmd :=
  { qp := 0, count := 3, booth := 0, part := 1, epoch := 3, order := 0, time := 5, entry := some (BitVec.ofNat 512 entry), begun := true, beganAs := 0, context := none, stream := 0,
    granted := false, ready := false, issued := false, rows := [], owes := [], fetched := [], access := [], effect := false, retried := false, stop := false, aborted := false, fault := none, done := none, detail := 0 }
def cmdState (c : Cmd) : State := { tState with cmds := [c] }

/-- A miss of that command for virtual page 1. -/
def tMiss : Miss := { booth := 0, slot := 2, epoch := 3, part := 1, va := 2 ^ 29, access := 1, qp := 0, waiters := [(0, 3, 1)], reissue := false, sentAt := 5, site := 0 }
def missState : State := modXlat (fun x => { x with misses := [tMiss] }) (cmdState (tCmd 1))

/-- The page entry of virtual page 1: page 0 of this node, read and write, 512 MiB; and an invalidate of it. -/
def pageEntry : Nat := pack [(0, 1, 1), (1, 1, 1), (2, 1, 1), (29, 29, globalAddr 5 0 / 2 ^ 29), (93, 23, 1)]
def replyP : Packet := { siteP 0x71 0 with body := [0x41, 0, 2, 0] ++ leBytes 4 0 ++ leBytes 16 pageEntry ++ leBytes 8 0 }
def invalP : Packet := { siteP 0x71 0 with body := [0x42, 1, 5, 0] ++ leBytes 4 0 ++ leBytes 8 (2 ^ 29) ++ leBytes 16 0 }

theorem witness_PageServers :
    ((missState.xlat.misses.find? fun m => m.booth = leAt replyP.body 1 1 && m.slot = leAt replyP.body 2 1 && m.site = 0) = some tMiss &&
     siteMessageOk (sized { replyP with ptype := 0x72 }) && siteMessageOk (sized { invalP with ptype := 0x72 }) && !replyMalformed replyP.body && leAt replyP.body 3 1 = 0 && pageEntry % 2 = 1 && bits pageEntry 93 23 <<< 29 % pageBytes (bits pageEntry 5 1) = 0 &&
     pageCovers (bits pageEntry 93 23 <<< 29) (bits pageEntry 5 1) tMiss.va && missRuns missState tMiss &&
     (install 0 3 1 (bits pageEntry 93 23 <<< 29) (bits pageEntry 29 29 <<< 29) (bits pageEntry 5 1) true true missState).isSome &&
     tMiss.sentAt + fabricTimeout missState ≤ missState.now && pageServer missState.rig.cur (leAt invalP.body 1 1) = some 0 && !invalMalformed invalP.body) = true := by decide +kernel

/-- SITE_FENCE and SITE_COUNTER_WAIT of site 0. -/
def waitP (n v : Nat) : Packet := { ptype := 0x17, tag := 4, len := 4, body := leBytes 2 n ++ [1] ++ leBytes 5 0 ++ leBytes 8 v ++ leBytes 16 0 }
def waiting : CtrWait := { qp := some (0, 3), site := 0, tag := 0, counter := 2, target := 9, consume := true, time := 5, limit := 1 }

theorem witness_WaitsAndLimits :
    (decide ((getSite tState 0).st = .active) && sitePart tState.rig.cur 0 = some 1 && decide ((getPart tState 1).st = .running) && tState.fab.outst.isEmpty && (siteTags tState 0).isEmpty && !sleeping tState 1 && tState.ucie.fences.isEmpty && (getSite tState 0).held.isEmpty && tState.order.waits.isEmpty &&
     localForm (sized (siteP 0x70 0)) && localForm (sized { waitP 15 0 with ptype := 0x71 }) && (waitP 15 0).flags = 0 && (waitP 15 0).code = 0 && leAt (waitP 15 0).body 0 2 = 15 && zeroAt (waitP 15 0).body 3 5 && zeroAt (waitP 15 0).body 20 12 && ctrOwner (mapsAt tState 3) 15 = some 1 &&
     decide (BitVec.ofNat 64 (leAt (waitP 15 0).body 8 8) ≤ getCtr tState 15) && decide (getCtr tState 15 < BitVec.ofNat 64 (leAt (waitP 15 1).body 8 8)) &&
     (spendSite (getSite tState 0) { siteStatus 4 0 .ok with len := 2 }).isSome && (getSite tState 0).waiting.isEmpty &&
     limitPast tState 5 1 && (getBooth tState 0).window ≤ 4 * (tState.now - (getBooth tState 0).batchAt)) = true := by decide +kernel

theorem witness_SiteLinksAndRegisters :
    (siteRec tState 0 = some { enable := true, passCheck := true, modules := 4, maxRate := 0, powerLimit := 100, part := 1 } &&
     ([4, 2, 1].find? fun n => n ≤ 2 && n ≤ 4) = some 2 && ([4, 2, 1].find? fun n => n ≤ 0 && n ≤ 4) = none && (getSite tState 0).windows < tState.now / 500000 &&
     tState.now / 500000 ≤ (getSite (modSite 0 (fun x => { x with windows := 2000 }) tState) 0).windows && writerLive tState .ringmaster && writerMay tState .ringmaster (siteBound tState 0) &&
     writerLive tState (.fabric 0 6 1) && writerMay tState (.fabric 0 6 1) 1 && (getSite tState 0).sideband &&
     (getSite tState 0).notice.isNone && !writerMay (modPart 1 (fun x => x) { tState with rig := { tState.rig with cur := { tMaps with sites := [] } } }) (.fabric 0 6 1) 0xFF) = true := by
  decide +kernel

/-! ### Booth commands and queue pairs -/

/-- Entries of a NOP, a NOP with a reserved byte set, a FILL of one line and a COUNTER_WAIT for counter 2 to reach 9. -/
def nopE : Nat := 0
def badE : Nat := pack [(0x80, 8, 1)]
def fillE : Nat := pack [(0, 8, 1), (32, 32, 0xAB), (0x80, 64, 2 ^ 29 + 64), (0xC0, 64, 64), (0x100, 64, 0x1122334455667788)]
def waitE : Nat := pack [(0, 8, 0x28), (0x80, 16, 2), (0xC0, 64, 9)]

/-- Virtual page 1 maps page 0 of this node, in Booth 0. -/
def tlbE : TlbEnt := { epoch := 3, window := 0, virt := 2 ^ 29, global := globalAddr 5 0, size := 0, read := true, write := true, atomic := true, used := 0 }
def fillState : State := modXlat (fun x => { x with tlb := [(0, [tlbE])] }) (cmdState (tCmd fillE))

/-- How a program ended: 0 with its end, 1 waiting, 2 with a fault. -/
def endOf (r : Except Halt Done × Ctx) : Nat :=
  match r.1 with
  | .ok _ => 0
  | .error .wait => 1
  | .error (.fault _ _) => 2

/-- How a running command of an entry ends, and whether it is in flight with its accesses ended. -/
def runOf (e : Nat) : Nat × Bool :=
  let s := cmdState (tCmd e)
  match program (cmdOp (tCmd e)) with
  | some p =>
    let r := runProgram p 0 3 s
    (endOf r, match findCmd r.2.s 0 3 with | some d => d.access.isEmpty && d.entry = (tCmd e).entry && !d.aborted && d.fault.isNone && !(getQp r.2.s 0).cqLost | none => false)
  | none => (3, false)

theorem witness_BoothCommandsComplete : runOf nopE = (0, true) ∧ runOf waitE = (1, true) ∧ findCmd (cmdState (tCmd nopE)) 0 3 = some (tCmd nopE) := by decide +kernel

theorem witness_BoothCommandsFault : runOf badE = (2, true) ∧ (getQp (cmdState (tCmd badE)) 0).cause = 0 := by decide +kernel

theorem witness_BoothArithmetic :
    (leAt (cmdBytes (tCmd fillE)) 0x18 8 = 64 && leAt (cmdBytes (tCmd fillE)) 0x20 8 = 0x1122334455667788 && zeroAt (cmdBytes (tCmd fillE)) 0x28 24 &&
     vaAlign (leAt (cmdBytes (tCmd fillE)) 0x10 8) 64 && tlbFind fillState 0 3 (leAt (cmdBytes (tCmd fillE)) 0x10 8) = some tlbE &&
     tlbE.global + (leAt (cmdBytes (tCmd fillE)) 0x10 8 - tlbE.virt) < 2 ^ 58 && nodeOf (globalAddr 5 64) = thisNode fillState && lineNo (offOf (globalAddr 5 64)) = 1 &&
     goodLine (lookUnder 3 (counted fillState)) 1 && !mirrored fillState 1 && fillState.upsets.isEmpty && fillState.mem.parked.isEmpty && fillState.home.txns.isEmpty &&
     (tCmd fillE).owes.isEmpty && !(getQp fillState 0).cqLost &&
     (let q : Req := { origin := .booth 0 3 1, pkt := { ptype := 0x04, addr := here 64, data := [patternLine 0x1122334455667788] }, part := 1, epoch := 3, time := 5,
                       order := fillState.mem.stamp + 1 }
      decide ((reach (lookUnder 3 (counted fillState)) .line q).place = .line) && dirDirect (lookUnder 3 (counted fillState)) false 1)) = true := by decide +kernel

/-- FILL writes PATTERN in each word of its line and completes with 1 line (R342, Table 11.1). -/
theorem test_fill : (match exec (.fill { qp := 0, count := 3 }) fillState with
    | .next u => lineField (getLine u 1).data 56 8 = 0x1122334455667788 && u.cmds.isEmpty && (owedCompls (getQp u 0)).map (fun e => (e.result, e.status, e.effect)) = [(1, .ok, true)]
    | _ => false) = true := by decide +kernel

/-- Table 11.3 at the edges of a byte, and the NaN of bfloat16. -/
theorem test_reduce_edges : redInt 8 0 [255, 1] = 0 ∧ redInt 8 1 [0x7F, 0x80] = 0x80 ∧ redInt 8 2 [0x7F, 0x80] = 0x7F := by decide

/-- COMPARE's first difference is the lowest byte (R344). -/
theorem test_compare : firstDiff 0x0100_00 0x0200_00 = some 2 ∧ firstDiff 5 5 = none := by decide +kernel

/-- Queue pair 0 in a state. -/
def qpState (f : Qp → Qp) : State := modQp 0 f tState

theorem witness_Doorbells :
    writerLive tState .ringmaster = true ∧ (qpRec tState 0).isSome = true ∧ qpLive tState 0 = true ∧ qpLive (modPart 1 (fun x => { x with st := .stopped }) tState) 0 = false ∧ sleeping tState (qpPart tState 0) = false ∧
    (let x := getQp tState 0
     ((16 : BitVec 32) - x.sqHead).toNat ≤ 2 ^ x.sqLog ∧ 2 ^ x.sqLog < ((17 : BitVec 32) - x.sqHead).toNat ∧ x.st = .running ∧
     ((0 : BitVec 32) - x.cqHead).toNat ≤ (x.cqTail - x.cqHead).toNat ∧ (x.cqTail - x.cqHead).toNat < ((1 : BitVec 32) - x.cqHead).toNat) := by decide +kernel

/-- A doorbell that fills the ring is accepted, the next one refused (R246). -/
theorem test_doorbell_edges :
    (match exec (.qpSqDoorbell (.site 0) 0 16) tState, exec (.qpSqDoorbell (.site 0) 0 17) tState with
     | .next u, .next v => (getQp u 0).sqTail = 16 && (getQp u 0).ringer = 0 && (getQp v 0).sqTail = 0
     | _, _ => false) = true := by decide +kernel

/-- Rings of 16 entries in group 0 of this node. -/
def ringState : State := qpState (fun x => { x with st := .reset, sqBase := globalAddr 5 0, cqBase := globalAddr 5 4096 })

theorem witness_QueuePairControl :
    (ringsOk ringState 0 && !ringsOk (qpState fun x => { x with st := .reset, sqLog := 3 }) 0 && qpQuiet (qpState fun x => { x with st := .error }) 0 &&
     !qpQuiet { qpState (fun x => { x with st := .error }) with cmds := [tCmd nopE] } 0 && (getQp (qpState fun x => { x with latch := true, st := .stopping }) 0).latch) = true := by
  decide +kernel

/-- ENABLE of a reset queue pair whose rings hold runs it, with CONTROL_RESULT 0 (R259). -/
theorem test_enable : (match exec (.qpEnable .ringmaster 0) ringState with | .next u => decide ((getQp u 0).st = .running) && (getQp u 0).ctl = 0 | _ => false) = true := by
  decide +kernel

/-- An entry under way: notified, not yet fetched, its read returned. -/
def fetching : Cmd := { tCmd 0 with entry := none, begun := false, fetched := [{ id := 0, data := 0, status := .ok }] }
def compl0 : Compl := { count := 3, result := 0, tag := 0, sqIndex := 3, detail := 0, opcode := 0, status := .ok, effect := false, epoch := 3, time := 5 }

theorem witness_SubmissionsAndCompletions :
    (nextQp (qpState fun x => { x with sqTail := 1 }) (qpBooth tState 0) = some 0 &&
     ((qpCmds (cmdState fetching) 0).find? fun c => c.entry.isNone) = some fetching &&
     answersOf fetching 0 ≠ [] && statusGood (entryOf (cmdState fetching) fetching (answersOf fetching 0)).status &&
     (let s := cmdState fetching
      let s1 := nextHead 0 (modCmd 0 3 (fun c => { c with entry := some (entryOf s fetching (answersOf fetching 0)).data, fetched := [] })
        (modQp 0 (fun x => { x with sqHead := x.sqHead + 1 }) (modCmd 0 3 (fun c => { c with access := [] }) (shareEntries fetching (answersOf fetching 0) s))))
      match findCmd s1 0 3 with
      | some d => entryFormed d s1
      | none => false) &&
     (getQp (qpState fun x => { x with held := some compl0, heldAt := 5 }) 0).heldAt + 16 ≤ tState.now &&
     (getQp (qpState fun x => { x with writes := [[compl0]], cqBusy := true, cqEnd := some .ok, notified := 1 }) 0).writes = [[compl0]] &&
     findCmd (cmdState { tCmd 0 with aborted := true }) 0 3 = some { tCmd 0 with aborted := true } &&
     qpQuiet (qpState fun x => { x with st := .stopping }) 0) = true := by decide +kernel

/-! ### Registers -/

theorem witness_RegisterWritesByAccessType :
    (writerLive tState .ringmaster && !locked tState 5 && locked (modRig (fun r => { r with locks := 0x20 }) tState) 5 && 0x240000 % 8 = 0 && 0x000004 % 8 ≠ 0) = true := by decide +kernel

/-- Register accesses of site 0 and of node 6 to the queue pair 0's registers. -/
def regP (t : BitVec 8) (p : Packet) : Packet := sized { p with ptype := t }

theorem witness_RegisterPackets :
    (siteFormOk (regP 0x0A (siteP 0x0A 0xA0018)) && siteFormOk (regP 0x0B (siteP 0x0B 0xA0018)) && decide ((getPart tState 1).st = .running) && regFormed 0xA0018 && mayRead tState (.site 0) 0xA0018 &&
     !mayRead tState (.site 0) 0x80320 && formOk (atPort 0x0A (.link 0) (linkP 0x0A 0xA0018)) && comes tState (linkP 0x0A 0xA0018) 0x0A && !sleeping tState 1 && regFormed 0xA0018 &&
     decide ((writeBlock (.site 0) 0xA0018 5 (oweSite 0 0x0B 3 tState)).1 = .ok) && decide ((writeBlock (.site 0) 0x70000 5 (oweSite 0 0x0B 3 (modRig (fun r => { r with locks := 0x20 }) tState))).1 ≠ .ok) &&
     (match mapsOf (linkL tState 0x0A (linkP 0x0A 0xA0018)) 3 with | some m => jobKeyOf m 1 = 9 | none => false) &&
     mayRead tState (accessor (.link 0) (linkP 0x0A 0xA0018)) 0x70000 && (waitsFor tState 0xA0018 5).isNone) = true := by decide +kernel

theorem witness_WindowAndPageRegisters :
    (let v : Nat := pack [(32, 5, 1), (37, 1, 1), (40, 8, 9), (48, 16, 6)]
     writerMay tState .ringmaster (bits v 32 5) && v.testBit 37 && (tState.rig.cur.wins.any fun e => e.2.part = bits v 32 5 && winKind e.2.entry = 2 && nodeOf (winBase e.2.entry) = bits v 48 16) &&
     groupOwner tState.rig.cur ((256 * 0 + 255) / 64) = none && writerPriv tState .ringmaster && bits (5 * 256) 8 3 ≤ 5 && bits (6 * 256) 8 3 = 6 && bits (3 * 2048) 11 2 = 3 && tState.mem.moves.isEmpty) = true := by
  decide +kernel

/-- A page's attributes: PUBLISHABLE, HINT 2 and TIER 5 are written; TIER 6 changes nothing (R138). -/
theorem test_page_attr :
    (match exec (.memPageAttr .ringmaster 0 255 0x3500) tState, exec (.memPageAttr .ringmaster 0 255 0x0600) tState with
     | .next u, .next v => Tab.get {} u.mem.attrs 255 = { publishable := true, hint := 2, tier := 5 } && Tab.get {} v.mem.attrs 255 = {}
     | _, _ => false) = true := by decide +kernel

theorem witness_CountersClear : writerLive tState .ringmaster = true ∧ (1 : Word).toNat.testBit 0 = true ∧ writerPriv tState .ringmaster = true ∧ mayBooth tState (.fabric 0 6 1) 0 = true := by
  decide +kernel

/-- An inspection of the home copy of line 1 under way. -/
def inspState : State := holdLine 1 .inspect (modInteg (fun x => { x with inspBusy := true, inspLine := 1 }) tState)

theorem witness_PoisonAndInspect :
    (mayLine tState .ringmaster (bits 0x40 6 36) && bits 0x40 6 36 * 64 < storeEnd && storeEnd ≤ bits (2 ^ 42 - 64) 6 36 * 64 &&
     !tState.integ.inspBusy && (0x40 : Word).toNat.testBit 0 = false && inspState.integ.inspBusy && !inspState.integ.inspPartner && Tab.find inspState.mem.holds 1 = some .inspect &&
     lineOpen tState (linePkt tState 0x31 1 [1, 5]) 1 && lineOpen tState (linePkt tState 0x32 1 []) 1 && (viewLine inspState 1 (getLine inspState 1)).isSome && !fenced tState 1 &&
     Tab.find tState.mem.holds (bits (2 ^ 42 - 64) 6 36) ≠ some .inspect &&
     (rawLine inspState 1 { granules := List.replicate 8 (0, 0) }).isSome && !mirrored tState 1 &&
     tState.mem.parked.isEmpty && (sleeperOf tState [1]).isNone && !lineHeld tState 1 && channelUp tState 1 && !keyMissing tState 1 && !channelUp State.reset 1 &&
     mirrored (modMem (fun m => { m with attrs := [(0, { mirror := true })] }) (modMirror 0 (fun m => { m with state := .inStep, node := 6, group := 3 }) tState)) 1 &&
     (rawLine inspState 1 { granules := [(0, 0), (0, 0), (0, 5)] }).isNone) = true := by decide +kernel

theorem witness_OrderRegistersAndCounters :
    (mayCtr tState .ringmaster 15 && (waitsFor tState (0x80000 + 8 * 15) 0).isNone && (waitsFor tState 0x84008 0).isNone && bits 0 0 40 ≤ (getCtr tState 0).toNat &&
     (getCtr tState 0).toNat < bits 1 0 40 && !locked tState 6 && writerPriv tState .ringmaster) = true := by decide +kernel

/-- A wait satisfied at its target exactly consumes it (R219). -/
theorem test_wait_consumes :
    getCtr (settleCtr (setCtr 2 9 { tState with order := { tState.order with waits := [{ waiting with limit := 0 }] } })) 2 = 0 ∧
    getCtr (settleCtr (setCtr 2 8 { tState with order := { tState.order with waits := [{ waiting with limit := 0 }] } })) 2 = 8 := by decide +kernel

/-! ### What the stacks return, the home's timers, partitions -/

/-- A read of line 0 under way for site 0, before and after a mismatch, and a raw block of zeros whose lines carry their checks, one whose line 0 does not. -/
def stackState (f : Option (List (Nat × BitVec 32))) : State :=
  modMem (fun m => { m with holds := [(0, if f.isSome then .retry else .stackRead)], reads := [{ line := 0, req := some (siteR tState 0x01 (siteP 0x01 (here 0))), found := f }] }) tState
def rawOf (c : Nat) : RawLine := { granules := (0, 0) :: (0, BitVec.ofNat 32 c) :: List.replicate 6 (0, 0) }
def goodRaw : RawLine := rawOf (lineCheck (here 0) 0).toNat

theorem witness_StackReadsReturn :
    (let v := lookUnder 3 (stackState (some [(0, 1)]))
     rawLine v 0 goodRaw = some (metaWord tState 0 {}, 0) && rawOk v 0 (metaWord tState 0 {}, 0) && !wordPoison (metaWord tState 0 {}) && (siteR tState 0x01 (siteP 0x01 (here 0))).epoch = 3 &&
     ((stackState none).mem.reads.find? fun x => x.line = 0 && x.found.isNone).isSome && !rawOk v 0 (rawPlain v 0 (rawOf 1)) && !rawCompressed v 0 (rawOf 1) &&
     ((stackState (some [(0, 1)])).mem.reads.find? fun x => x.line = 0 && x.found.isSome).isSome && rawOk v 0 (rawPlain v 0 goodRaw) && !rawCompressed v 0 goodRaw) = true := by
  decide +kernel

/-- The block of line 0 in a BF16 page, four lines of zeros with their checks, as the granules and lanes of a stack give it. -/
def packedState : State := modMem (fun m => { m with attrs := [(0, { tier := 1 })] }) (stackState (some [(0, 1)]))
def packedRaw : RawLine :=
  match encodeBlock ⟨32, 16, 8⟩ ((List.range 4).map fun n => metaWord packedState n {}) [0, 0, 0, 0] with
  | some im => { granules := (List.range (im.length / 32)).map fun i => (BitVec.ofNat 256 (leAt im (32 * i) 32), blockDescriptor (im.length / 32)) }
  | none => { granules := [] }

theorem witness_StackReadsReturn_block :
    (let v := lookUnder 3 packedState
     rawCompressed v 0 packedRaw && (match rawBlock v 0 packedRaw with
       | some (ws, ds) => (Machine.blockLines 0).all fun n => rawOk v n (ws.getD (n % 4) 0, ds.getD (n % 4) 0) && !wordPoison (ws.getD (n % 4) 0)
       | none => false)) = true := by decide +kernel

/-- A transaction whose probe of agent 4 has been silent since cycle 5; a reservation; a hot line with a whole line merged. -/
def silentState : State := modHome (fun h => { h with txns := [{ grantedTxn with granted := none, probes := [{ agents := [4], member := 1, sentAt := 5, answered := false }] }] }) tState
def hotEnt : Hot := { line := 1, data := 7, mask := BitVec.allOnes 64, firstAt := some 5, lastAt := 5, owed := [], retried := false, epoch := 3 }
def timerState : State :=
  modHome (fun h => { h with sweeps := [{ agent := 4, since := 5 }], reserves := [{ line := 1, waiter := .agent 3, until_ := 5, rest := [.agent 6] }], hot := [hotEnt] }) tState

theorem witness_HomeTimers :
    (silentAgents silentState ((silentState.home.txns).headD grantedTxn) ≠ [] && (ringOf silentState).isSome && (timerState.home.sweeps.any fun w => w.agent = 4) &&
     (timerState.home.reserves.find? fun x => x.line = 1) = some { line := 1, waiter := .agent 3, until_ := 5, rest := [.agent 6] } && findHot timerState 1 = some hotEnt && timerState.upsets.isEmpty && !lineHeld timerState 1 && 5 + 500 ≤ timerState.now &&
     channelUp timerState 1 && !keyMissing (lookUnder 3 timerState) 1 && !fenced timerState 1 && !blockCompressed timerState 1 && hotEnt.mask ≠ 0 &&
     fenced (modHome (fun h => { h with fences := [1] }) timerState) 1) = true := by decide +kernel

/-- Partition 1 in a state. -/
def partState (f : Part → Part) : State := modPart 1 f tState

theorem witness_PartitionStates :
    (writerMay tState (.fabric 0 6 1) 1 && !sleeping tState 1 && partQuiet tState 1 && !partQuiet (outState 0x04) 1 && !(getPart tState 1).releasing &&
     (getPart (partState fun x => { x with st := .starting, startAt := some 5 }) 1).startAt = some 5 && writerLive tState (.fabric 0 6 1) &&
     (getPart (partState fun x => { x with st := .stopping, latch := true, releasing := true, retired := true }) 1).latch) = true := by decide +kernel

/-- Table 14.2: STOP of a running partition begins STOPPING; START in STOPPING is latched; both record what they did (R436). -/
theorem test_part_actions :
    (match exec (.partStop .ringmaster 1) tState, exec (.partStart .ringmaster 1) (partState fun x => { x with st := .stopping }) with
     | .next u, .next v => decide ((getPart u 1).st = .stopping) && (getPart u 1).ctl = 0 && (getPart v 1).latch && (getPart v 1).ctl = 3
     | _, _ => false) = true := by decide +kernel

/-! ### The Barker, power and clocks -/

/-- A record of class 1 for the device. -/
def rec1 : Rec := { time := 5, addr := 0, detail := 0, part := 0xFF, cls := 1, event := 1, seq := 0, qp := 0xFFFF, node := 5, status := 0, location := 0x30 }
def barkerState (f : Barker → Barker) : State := modBarker f tState

theorem witness_RecordsAreDelivered :
    (14 ≤ Tab.get 0 (barkerState fun b => { b with spent := [(0x30, 14)], owed := [(0x30, 2)] }).barker.spent 0x30 && 32 ≤ rec1.part && rec1.cls ≠ 6 && rec1.event ≠ 0x11 &&
     Tab.get 0 tState.barker.spent 0x30 < 14 && 256 ≤ ((barkerState fun b => { b with tail := 256 }).barker.tail - (0 : BitVec 16)).toNat &&
     (let x := getPart (partState fun x => { x with evEn := true, evLog := 4, evBase := globalAddr 5 0 }) 1
      let s := partState fun x => { x with evEn := true, evLog := 4, evBase := globalAddr 5 0 }
      x.evEn && (x.evTail - x.evHead).toNat < 2 ^ x.evLog && ringSlot x = 0 && !x.evBusy && x.evQueue.isEmpty && ringReady s 1 x.evCntEn x.evCnt && meetsNothing s (ringReq s 1 { rec1 with seq := x.evSeq }) 0 &&
      decide (lineBar s 0 = .ok) && !mirrored s 0 && !ringReady (partState fun x => { x with evEn := true, evLog := 3 }) 1 false 0 &&
      decide (lineBar (modStack 0 (fun x => { x with up := 0 }) s) 0 ≠ .ok))) = true := by
  decide +kernel

theorem witness_EventRegisters :
    (writerMay tState .ringmaster 1 && !sleeping tState 1 && ringReady (partState fun x => { x with evLog := 4, evBase := globalAddr 5 0 }) 1 false 0 && !ringReady tState 1 false 0 &&
     !writerMay tState (.fabric 0 6 1) 0 && writerPriv tState .ringmaster && !writerPriv tState (.fabric 0 6 1)) = true := by decide +kernel

/-- BARKER_MGMT_PTR moves HEAD up to TAIL and no further (R456). -/
theorem test_mgmt_ptr :
    (match exec (.barkerMgmtPtr .ringmaster 3) (barkerState fun b => { b with tail := 3 }), exec (.barkerMgmtPtr .ringmaster 4) (barkerState fun b => { b with tail := 3 }) with
     | .next u, .next v => u.barker.head = 3 && v.barker.head = 0
     | _, _ => false) = true := by decide +kernel

/-- The device asleep but for its partitions, which rest. -/
def restState : State :=
  { tState with parts := [(0, { st := .stopped }), (1, { pstate := .curtain, st := .running })], ucie := {} }

theorem witness_PowerActions :
    ((powRec tState 1).sleep && !(powRec tState 0).sleep && partQuiet tState 1 && decide ((getPart tState 1).st = .running) && (powRec tState 255).sleep && darkMay restState && !darkMay tState &&
     writerPriv restState .ringmaster && !writerPriv tState (.fabric 0 6 1) && writerLive tState (.fabric 0 6 1) && !writerMay tState (.fabric 0 6 1) 0) = true := by decide +kernel

/-- CURTAIN of a running, quiescent partition begins its entry; DARK where nothing is active begins too (R463, R467). -/
theorem test_curtain_dark :
    (match exec (.pwrclkCurtain .ringmaster 1) tState, exec (.pwrclkDark .ringmaster) restState with
     | .next u, .next v => decide ((getPart u 1).pstate = .entering) && (getPart u 1).pctl = 0 && decide (v.power.dark = .entering) && v.power.darkResult = 0
     | _, _ => false) = true := by decide +kernel

def powerState (f : Power → Power) : State := modPower f tState

theorem witness_EntriesAndExits :
    (let s := partState fun x => { x with pstate := .entering, curtainAt := 5 }
     let u := partState fun x => { x with pstate := .waking, exitAt := some 5 }
     decide ((getPart s 1).pstate = .entering) && (getPart s 1).curtainAt + 2500 ≤ s.now && s.home.hot.isEmpty && (getPart u 1).exitAt = some 5 && u.power.regWaits.isEmpty && u.power.segWaits.isEmpty && u.mem.parked.isEmpty && decide ((getSite (modSite 0 (fun x => { x with st := .down }) tState) 0).st = .down) &&
     (powerState fun x => { x with dark := .entering, darkAt := 5 }).power.darkAt + 25000 ≤ tState.now &&
     (powerState fun x => { x with dark := .resuming, darkWake := some (1, 5, false) }).power.darkWake = some (1, 5, false) &&
     (let b := getBank (modBank 1 (fun b => { b with isOpen := true, start := 0, from_ := 0, window := 1000 }) tState) 1
      b.isOpen && decide (b.start + 2 * b.window ≤ tState.now)) &&
     (let b := getBank (modBank 1 (fun b => { b with isOpen := true, start := 999998500, from_ := 999998500, window := 1000 }) tState) 1
      decide (b.start + b.window ≤ tState.now) && decide (tState.now < b.start + 2 * b.window) && tState.power.pllLocked)) = true := by decide +kernel

theorem witness_WakesAndAdmission :
    (let s := powerState fun x => { x with queue := [{ target := none, time := 5, remaining := 40 }], slotAt := 0 }
     let d := powerState fun x => { x with dark := .dark, portDetect := 1 }
     decide (s.power.phase = .clocked) && s.power.slotAt < s.now / 1000 && !s.power.keepAlive && optVal s 6 0 ≠ 1 && !landsTaken s && landsTaken (powerState fun x => { x with test := { x.test with ir := .extest } }) && decide (s.power.dark = .no) && !State.reset.power.pwrgd &&
     (powRec d 255).wakeN && decide (d.power.dark = .dark) && d.power.i3cWake && d.power.portDetect.getLsbD 0 && linkExists d 0 && restState.parts.any (fun e => e.1 = 1) && (powRec restState 1).wakeN &&
     decide ((getPart restState 1).pstate = .curtain) && boothOwner tState.rig.cur 0 = some 1 && (powRec tState 1).idle ≠ 0 && tState.cmds.isEmpty && boothLoad tState 0 = 0 &&
     (getBooth tState 0).lastWork + (powRec tState 1).idle ≤ tState.now && Tab.find tState.rig.cur.gates (0 + 1) = some { gate := true, idle := 10 } && !domainWork tState 0 && tState.power.worked + ownCycles 0 10 ≤ tState.now &&
     (let e : State := { tState with parts := [(1, { st := .running, pstate := .entering, curtainAt := tState.now - 2380 })] }
      e.parts.any fun e => e.2.pstate = .entering && decide (e.2.curtainAt + 2380 ≤ tState.now)) &&
     (getPart { tState with parts := [(1, { st := .running, pstate := .waking })] } 1).pstate = .waking) = true := by decide +kernel

/-- A device wake of 40 A passes in one slot and releases PWRGD_OUT; of 41 A it needs a second one (R475). -/
theorem test_turnstile_edges :
    (let w (n : Nat) : State := powerState fun x => { x with pwrgd := false, queue := [{ target := none, time := 5, remaining := n }] }
     match exec .turnstileSlot (w 40), exec .turnstileSlot (w 41) with
     | .next u, .next v => u.power.queue.isEmpty && u.power.pwrgd && u.power.admitted = 140 && v.power.queue.map Wake.remaining = [1] && !v.power.pwrgd
     | _, _ => false) = true := by decide +kernel

/-- A wake that is admitted between two PWR cycles starts its exit at the next one; the edge latch is held clear for the last 120 METER cycles of an
entry into CURTAIN, and for no more (R474, R477, Table 15.3). -/
theorem test_pwr_cycles :
    (let w : State := { tState with now := 200004, parts := [(1, { st := .running, pstate := .waking })],
                                    power := { tState.power with queue := [{ target := some 1, time := 5, remaining := 32 }] } }
     let e (n : Nat) : State := { tState with now := n, parts := [(1, { st := .running, pstate := .entering, curtainAt := 1000 })] }
     match exec .turnstileSlot w, exec (.wakeN true true) (e 3379), exec (.wakeN true true) (e 3380) with
     | .next u, .next v, .next x => (getPart u 1).exitAt = some 210010 && (getPart v 1).wakeAt = some 3379 && (getPart x 1).wakeAt.isNone
     | _, _, _ => false) = true := by decide +kernel

/-! ### Resets and rigging -/

theorem witness_Resets :
    (decide ((powerState fun x => { x with phase := .off }).power.phase = .off) && !tState.power.tripLatch && (powerState fun x => { x with tripLatch := true }).power.tripLatch &&
     decide (tState.power.phase ≠ .off) && decide (State.reset.power.phase = .alwaysOn) &&
     decide ((powerState fun x => { x with phase := .strapped }).power.phase = .strapped) && !tState.power.recovering && tState.power.queue.isEmpty && decide (tState.power.dark = .no) && optVal tState 6 0 ≠ 1 &&
     decide ((powerState fun x => { x with test := { x.test with tap := .idle } }).power.test.tap = .idle) && !landsTaken tState) = true := by decide +kernel

/-- From reset: RESET_N latches the straps, the PLL locks, and METER starts at 0 with the wake of 250 A queued (R471, Table 15.9). -/
theorem test_power_up :
    (match exec (.resetNRise ⟨false, 0⟩ []) State.reset with
     | .next u => (match exec .pllLock u with
       | .next v => decide (v.power.phase = .clocked) && v.power.pllLocked && v.now = 0 && v.power.queue = [{ target := none, time := 0, remaining := 250 }] && !v.power.pwrgd
       | _ => false)
     | _ => false) = true := by decide +kernel

/-- Cycles of TCK with the levels of TMS and TDI, TRST_N high and no land driven. -/
def tck (tms : List Bool) (tdi : Bool) : List TapPins := tms.map fun m => { trst := true, tms := m, tdi := tdi, lands := 0 }

/-- EXTEST scanned in from Run-Test/Idle holds the straps back; TRST_N low gives the lands back (R525). -/
theorem test_extest_takes_the_lands :
    (let s := powerState fun x => { x with phase := .alwaysOn, test := { x.test with tap := .idle } }
     let scan := tck [true, true, false, false, false, true, true] false
     match exec (.resetNRise ⟨true, 1⟩ scan) s, exec (.resetNRise ⟨true, 1⟩ (scan ++ [{ trst := false, tms := true, tdi := true, lands := 0 }])) s with
     | .next u, .next v => landsTaken u && decide (u.power.phase = .alwaysOn) && decide (v.power.phase = .strapped) && v.power.compatA
     | _, _ => false) = true := by decide +kernel

/-- A sample over the hub's limit, and one under every limit. -/
def hotT : Telemetry := { hub := 1150, stackTemps := List.replicate 20 0, dies := [0, 0], inputMv := 48000, inputW := 0, coreA := 0 }
def coolT : Telemetry := { hotT with hub := 1149 }

theorem witness_BrownoutsAndTrips :
    (!tState.power.keepAlive && 80 < (powerState fun x => { x with slotRise := 81 }).power.slotRise && (powerState fun x => { x with keepAlive := true, admitted := 61 }).power.keepAlive &&
     60 < (powerState fun x => { x with keepAlive := true, admitted := 61 }).power.admitted && tripped hotT && !tripped coolT && tState.power.tripSamples = 0 &&
     1 ≤ (powerState fun x => { x with tripSamples := 1 }).power.tripSamples && tState.power.pllLocked && tState.power.sampled ≤ tState.now / 500000 &&
     tState.now / 500000 < (powerState fun x => { x with sampled := 2001 }).power.sampled) = true := by decide +kernel

/-- A full image with partition 0, which has MGMT_PRIV and meter bank 0, and NODE_NUMBER 5; its DIGEST is that of R37, its signature block has the
lengths of R38. -/
def sections : List Byte :=
  leBytes 2 1 ++ leBytes 2 0 ++ leBytes 4 16 ++ ([0, 3] ++ leBytes 2 7 ++ [0xFF, 0, 0, 0] ++ leBytes 8 0) ++
  leBytes 2 14 ++ leBytes 2 0 ++ leBytes 4 16 ++ ([0, 0] ++ leBytes 6 0 ++ leBytes 8 500000) ++
  leBytes 2 15 ++ leBytes 2 0 ++ leBytes 4 16 ++ (leBytes 2 1 ++ leBytes 6 0 ++ leBytes 8 5)
def headOf (digest : List Byte) : List Byte :=
  leBytes 4 0x47524E54 ++ leBytes 2 2 ++ leBytes 2 0xB0 ++ leBytes 2 3 ++ leBytes 2 0 ++ leBytes 4 (328 + 3384) ++ leBytes 8 1 ++ [0xFF, 3] ++ leBytes 2 0 ++ leBytes 4 328 ++ digest ++ leBytes 176 0
def sigBlock : List Byte := leBytes 2 64 ++ leBytes 2 3309 ++ leBytes 3380 0
def tImage : List Byte := headOf (sha384 (headOf (List.replicate 48 0) ++ sections)) ++ sections ++ sigBlock
/-- A segment for partition 1 under epoch 3: its PARTITION record and its meter bank. -/
def segSections : List Byte :=
  leBytes 2 1 ++ leBytes 2 0 ++ leBytes 4 16 ++ ([1, 1] ++ leBytes 2 9 ++ [0xFF, 1, 1, 0] ++ leBytes 8 0) ++
  leBytes 2 14 ++ leBytes 2 0 ++ leBytes 4 16 ++ ([1, 1] ++ leBytes 6 0 ++ leBytes 8 500000)
def segHead (digest : List Byte) : List Byte :=
  leBytes 4 0x47524E54 ++ leBytes 2 2 ++ leBytes 2 0xB0 ++ leBytes 2 2 ++ leBytes 2 1 ++ leBytes 4 (304 + 3384) ++ leBytes 8 2 ++ [1, 3] ++ leBytes 2 0 ++ leBytes 4 304 ++ digest ++ leBytes 176 0
def tSegment : List Byte := segHead (sha384 (segHead (List.replicate 48 0) ++ segSections)) ++ segSections ++ sigBlock
/-- The device with its queue pairs at rest, and with partition 1 in CURTAIN. -/
def idleQps : State := { tState with qps := [] }
def curtained : State := modPart 1 (fun x => { x with pstate := .curtain }) idleQps
def unrigged : State := { tState with rig := {}, mem := { channels := (List.range 20).map fun k => (k, { trained := true, up := 0xFFFFFFFF }) } }


/-- An image whose sections pass every check, where its signatures hold (log 6). -/
theorem image_checked (s : State) (raw : List Byte) (len sig : Nat) (seg : Bool) (target : Nat) (hk : s.mgmt.rigEd = [] ∧ s.mgmt.rigMldsa = [])
    (h : signed [] [] (raw.take len) sig = true) (hl : leAt raw 0x0C 4 = len ∧ leAt raw 0x1C 4 = sig)
    (hc : (match parseWith true raw with
      | .ok i => (match checkMaps s i with
        | .ok m => (match gate s i m with
          | .ok _ => decide (i.seg = seg) && decide (i.target = target)
          | .error _ => false)
        | .error _ => false)
      | .error _ => false) = true) : ∃ i m, checkImage s raw = .ok (i, m) ∧ i.seg = seg ∧ i.target = target := by
  have hp : parseImage s.mgmt.rigEd s.mgmt.rigMldsa raw = parseWith true raw := by simp only [parseImage, hl.1, hl.2, hk.1, hk.2, h]
  unfold checkImage; rw [hp]
  split at hc
  · rename_i i hi
    split at hc
    · rename_i m hm
      split at hc
      · rename_i g hg
        rw [hi]
        simp only [bind, Except.bind, hm, hg, pure, Except.pure]
        rw [Bool.and_eq_true, decide_eq_true_eq, decide_eq_true_eq] at hc
        exact ⟨_, _, rfl, hc⟩
      · exact Bool.noConfusion hc
    · exact Bool.noConfusion hc
  · exact Bool.noConfusion hc

theorem witness_ImagesAndEpochs_full (h : signed [] [] (tImage.take 3712) 328 = true) :
    (∃ i m, checkImage unrigged tImage = .ok (i, m) ∧ i.seg = false ∧ i.target = 0xFF) ∧ allTrained unrigged = true ∧ unrigged.mgmt.boot = .running :=
  ⟨image_checked _ _ 3712 328 false 0xFF ⟨rfl, rfl⟩ h (by decide +kernel) (by decide +kernel), by decide +kernel, rfl⟩

/-- A segment for an awake partition, and for one that sleeps. -/
theorem witness_ImagesAndEpochs_segment (h : signed [] [] (tSegment.take 3688) 304 = true) :
    (∃ i m, checkImage idleQps tSegment = .ok (i, m) ∧ i.seg = true ∧ i.target = 1) ∧ sleeping idleQps 1 = false ∧
    (∃ i m, checkImage curtained tSegment = .ok (i, m) ∧ i.seg = true ∧ i.target = 1) ∧ sleeping curtained 1 = true :=
  ⟨image_checked _ _ 3688 304 true 1 ⟨rfl, rfl⟩ h (by decide +kernel) (by decide +kernel), by decide +kernel,
   image_checked _ _ 3688 304 true 1 ⟨rfl, rfl⟩ h (by decide +kernel) (by decide +kernel), by decide +kernel⟩

/-- An image too short for its header is BAD_MAGIC, with no section (R40, Tables 2.6, 2.10). -/
theorem witness_ImagesAndEpochs_refused : (match checkImage unrigged [] with
    | .ok _ => false
    | .error e => decide (e = (1, 0xFFFF))) = true := by decide +kernel

def segMaps : Maps := { tMaps with meters := [] }
def segLoaded (from_ : Option Transport) : Loaded := { maps := segMaps, part := 1, digest := List.replicate 48 7, enable := true, from_ := from_ }
def drainState : State :=
  { cmdState { tCmd nopE with epoch := 2 } with rig := { rigged := true, epoch := 3, cur := tMaps, clearing := [4], draining := some { epoch := 2, maps := tMaps, switchAt := 5 } } }

theorem witness_ImagesAndEpochs :
    (let d : Drain := { epoch := 2, maps := tMaps, switchAt := 5 }
     let empty := { tState with rig := drainState.rig }
     (segLoaded none).from_.isNone && underEpoch empty 2 = 0 && d.switchAt + shadowMin empty ≤ empty.now && underEpoch drainState 2 ≠ 0 &&
     d.switchAt + drainLimit drainState ≤ drainState.now && drainState.rig.clearing.head? = some 4 && drainState.upsets.isEmpty && namesSegment tSegment && !namesSegment tImage &&
     decide ({ tState with mgmt := { boot := .awaitImage } }.mgmt.boot = .awaitImage)) = true := by decide +kernel

/-! ### The Ringmaster -/

/-- A firmware image with the least code, its digest `d` and its signature block (R487, Table 16.2). -/
def fwHead : List Byte :=
  leBytes 4 0x57464E54 ++ leBytes 2 1 ++ leBytes 2 0xB0 ++ leBytes 4 7 ++ leBytes 4 7616 ++ leBytes 4 4224 ++ leBytes 4 8 ++ leBytes 4 4232 ++ leBytes 4 1
def fwPad : List Byte := List.replicate 4152 0
def tFirmware (d : List Byte) : List Byte := fwHead ++ d ++ (fwPad ++ sigBlock)

/-- The firmware passes where the fuses hold the digests of its keys, its digest is its own, its signatures hold and MIN_SVN is at most 7 (log 6). -/
theorem witness_BootAndHalts_firmware (s : State) (d : List Byte) (hm : minSvn s ≤ 7) (hl : d.length = 48)
    (hd : sha384 (fwHead ++ List.replicate 48 0 ++ fwPad) = d) (he : sha384 (List.replicate 32 0) = Config.rootEdDigestFuse)
    (hr : sha384 (List.replicate 1952 0) = Config.rootMldsaDigestFuse)
    (hs : signed (List.replicate 32 0) (List.replicate 1952 0) (tFirmware d) 4232 = true) : firmwareFail s (tFirmware d) = 0 := by
  have hb : sigBlock.length = 3384 := by decide +kernel
  have hw : fwHead.length = 32 := by decide
  have hz : fwPad.length = 4152 := List.length_replicate
  have hp : (fwHead ++ d).length = 80 := by rw [List.length_append, hw, hl]
  have h9 : (tFirmware d).length = 7616 := by
    rw [tFirmware, List.length_append, hp, List.length_append, hz, hb]
  have ht : (tFirmware d).take 7616 = tFirmware d := List.take_of_length_le (Nat.le_of_eq h9)
  have hr80 : (tFirmware d).drop 80 = fwPad ++ sigBlock := by rw [tFirmware, ← hp, List.drop_left]
  have hk (o n : Nat) (h : 256 ≤ o) (g : o + n ≤ 4232) : ((tFirmware d).drop o).take n = List.replicate n 0 := by
    obtain ⟨k, rfl⟩ := Nat.exists_eq_add_of_le (show 80 ≤ o by omega)
    rw [← List.drop_drop, hr80, List.drop_append_of_le_length (by omega), List.take_append_of_le_length (by rw [List.length_drop]; omega), fwPad,
      List.drop_replicate, List.take_replicate, Nat.min_eq_left (by omega)]
  have hg : ((tFirmware d).drop 0x20).take 48 = d := by
    rw [tFirmware, List.append_assoc, ← hw, List.drop_left, ← hl, List.take_left]
  have hi : imageDigest (tFirmware d) 4232 = d := by
    have e1 : (tFirmware d).take 0x20 = fwHead := by rw [tFirmware, List.append_assoc, ← hw, List.take_left]
    have e2 : ((tFirmware d).take 4232).drop 0x50 = fwPad := by
      rw [List.drop_take, hr80, List.take_append_of_le_length (by omega), List.take_of_length_le (by omega)]
    rw [imageDigest, e1, e2, hd]
  have hf (o n : Nat) (h : o + n ≤ 32) : leAt (tFirmware d) o n = leAt fwHead o n := by
    rw [leAt, leAt, tFirmware, List.append_assoc, List.drop_append_of_le_length (by omega), List.take_append_of_le_length (by simp; omega)]
  have f1 : leAt fwHead 0 4 = 0x57464E54 ∧ leAt fwHead 0x0C 4 = 7616 ∧ leAt fwHead 0x18 4 = 4232 ∧ leAt fwHead 0x10 4 = 4224 ∧ leAt fwHead 0x14 4 = 8 ∧
      leAt fwHead 4 2 = 1 ∧ leAt fwHead 6 2 = 0xB0 ∧ leAt fwHead 8 4 = 7 := by decide
  obtain ⟨g0, g1, g2, g3, g4, g5, g6, g7⟩ := f1
  unfold firmwareFail
  simp only [hf _ _ (show 0 + 4 ≤ 32 by omega), hf _ _ (show 0x0C + 4 ≤ 32 by omega), hf _ _ (show 0x18 + 4 ≤ 32 by omega), hf _ _ (show 0x10 + 4 ≤ 32 by omega),
    hf _ _ (show 0x14 + 4 ≤ 32 by omega), hf _ _ (show 4 + 2 ≤ 32 by omega), hf _ _ (show 6 + 2 ≤ 32 by omega), hf _ _ (show 8 + 4 ≤ 32 by omega),
    g0, g1, g2, g3, g4, g5, g6, g7, h9, ht, hk 0x100 32 (by omega) (by omega), hk 0x120 1952 (by omega) (by omega), hi, hg, he, hr, hs]
  simp [sigLen]; omega

/-- An empty flash region stops the boot with FAIL_CODE 1 (Table 16.9). -/
theorem witness_BootAndHalts :
    (let r : State := { tState with mgmt := { boot := .rom } }
     r.power.pwrgd && decide (r.mgmt.boot = .rom) && firmwareFail r r.mgmt.fwFlash = 1 && decide (tState.mgmt.boot = .running) &&
     { tState with now := 1000500000 }.mgmt.refreshed + 500000 ≤ 1000500000 && tState.now < tState.mgmt.refreshed + 500000) = true := by decide +kernel

/-- A flash that does not answer leaves await-image with FAIL_CODE 7 (R490, Table 16.9). -/
theorem test_no_flash :
    (match exec (.bootChain true false) { tState with mgmt := { boot := .rom } } with
     | .next u => decide (u.mgmt.boot = .awaitImage) && u.mgmt.failCode = 7
     | _ => false) = true := by decide +kernel

/-- The device under an update at a stage, from I3C. -/
def updState (st : UpdStage) (n : Nat) (l : Option Loaded) : State :=
  { tState with mgmt := { boot := .running, update := { stage := st, transport := some .i3c, component := n } }, rig := { tState.rig with loaded := l } }

/-- The device whose segment waits for partition 1 to leave CURTAIN. -/
def updWaits : State :=
  let s := updState .applied 3 none
  { s with power := { s.power with segWaits := [{ order := 1, part := 1, from_ := some .i3c, raw := [] }] } }

theorem witness_UpdatesRunInSteps :
    tState.rig.rigged = true ∧ Serves .i3c (updWaits) ∧ updWaits.power.segWaits.any (fun w => w.from_ = some .i3c) = true ∧
    (updState .applied 3 (some (segLoaded (some .i3c)))).power.segWaits.any (fun w => w.from_ = some .i3c) = false ∧
    Serves .i3c tState ∧ transportPriv tState .i3c = true ∧ tState.mgmt.update.stage = .idle ∧ (updState .requested 0 none).mgmt.update.stage = .requested ∧
    Serves .i3c (updState .passed 1 none) ∧ firmwareFail (updState .passed 1 none) [] ≠ 0 ∧ Serves .i3c (updState .applied 3 (some (segLoaded (some .i3c)))) ∧
    (updState .applied 3 (some (segLoaded (some .i3c)))).rig.loaded = some (segLoaded (some .i3c)) := by
  refine ⟨rfl, ⟨rfl, rfl⟩, rfl, rfl, ⟨rfl, rfl⟩, rfl, rfl, rfl, ⟨rfl, rfl⟩, by decide +kernel, ⟨rfl, rfl⟩, rfl⟩

/-- A component whose signatures hold passes its check: the firmware of `witness_BootAndHalts_firmware`. -/
theorem witness_UpdatesRunInSteps_verified (s : State) (image : List Byte) (h : firmwareFail s image = 0) : (verifyComponent s 1 image).1 = 0 := h

/-- The device with an SPDM connection on a mailbox of partition 0, which has MGMT_PRIV. -/
def spdmState (x : Spdm) (keys : List (Nat × BitVec 512)) : State :=
  { tState with mgmt := { boot := .running, spdms := [(5, x)], keys := keys, mboxes := [(0, { st := 1 })] } }

theorem witness_AttestationAnswers :
    Serves (.mailbox 0) (spdmState { versioned := true, capable := true, negotiated := true, owed := true } []) ∧ (0 : BitVec 4).toNat ≤ 1 ∧ (1 : BitVec 4).toNat ≤ 1 ∧
    (measurement (spdmState { negotiated := true } []) 4).length ≤ 4032 ∧ (((chain tState 0).drop 0).take (64 : BitVec 16).toNat).length ≤ 4032 ∧
    (getSpdm (spdmState {} []) (.mailbox 0)).owed = false := by
  refine ⟨⟨by decide, rfl⟩, by decide, by decide, by decide, ?_, rfl⟩
  exact Nat.le_trans (List.length_take_le _ _) (by decide)

/-- The signed responses stand where the chains' digests and the signatures have the lengths their standards give them (log 6). -/
theorem witness_AttestationAnswers_signed (s : State) (d h : List Byte) (hd : d.length ≤ 96) (hs : (Config.ed25519Sign s.mgmt.aliasSeed h).length = 64) :
    (d ++ Config.ed25519Sign s.mgmt.aliasSeed h).length ≤ 4032 := by
  rw [List.length_append, hs]; omega

theorem witness_SessionsAndKeys :
    (let s := spdmState { capable := true, sessions := true, session := some 7, established := true, chunkOut := [1], outSeq := 0 } [(5, 1)]
     carries s (.mailbox 0) && decide (s.mgmt.boot = .running) && (getSpdm s (.mailbox 0)).sessions && mayKey s (.mailbox 0) 31 && mayKey s (.mailbox 0) 5 &&
     (Tab.find s.mgmt.keys 31).isNone && (Tab.find s.mgmt.keys 5).isSome && (getSpdm s (.mailbox 0)).chunkSeq = (0 : BitVec 16).toNat && (getSpdm s (.mailbox 0)).outSeq = (0 : BitVec 16).toNat &&
     !(s.rig.cur.parts.any fun e => e.2.keySlot = 31 && (getPart s e.1).st = .running) && (s.rig.cur.parts.any fun e => e.2.keySlot = 1 && (getPart s e.1).st = .running) &&
     mayKey s (.mailbox 0) 1 && (getSpdm (spdmState { session := some 7 } []) (.mailbox 0)).session.isSome && !(getSpdm (spdmState { session := some 7 } []) (.mailbox 0)).established) = true := by
  decide +kernel

/-- Each transport has a connection of its own: a session on one mailbox is none on I3C (R502, R503). -/
theorem test_session_transport :
    (match exec (.setKey .i3c 6 9) (spdmState { established := true } []) with
     | .next u => u.mgmt.keys.isEmpty && u.outbox = [Out.mgmt .i3c "ERROR_UnexpectedRequest" 1 []]
     | _ => false) = true := by decide +kernel

/-- A key slot is set once: a second SET_KEY finds KEY_BUSY and keeps the key (R502). -/
theorem test_key_busy :
    (match exec (.setKey (.mailbox 0) 5 9) (spdmState { established := true } [(5, 1)]) with
     | .next u => Tab.find u.mgmt.keys 5 = some 1 && u.outbox = [Out.mgmt (.mailbox 0) "KEY_BUSY" 1 []]
     | _ => false) = true := by decide +kernel

theorem witness_MessagesAndMailboxes :
    (carries tState .i3c && transportPriv tState .i3c && numericSensor 0x23 && !numericSensor 0x24 && carries tState (.sideband 0) && !transportPriv tState (.sideband 0) &&
     (let s := { tState with mgmt := { boot := .running, receiver := some .i3c }, barker := { tail := 1 } }
      s.mgmt.receiver.isSome && s.barker.head ≠ s.barker.tail) &&
     writerLive tState .ringmaster && writerMay tState .ringmaster 1 && bits ((0x0FC00000 : Word).toNat ||| 1) 16 16 = 4032 && bits ((0x00010000 : Word).toNat ||| 1) 16 16 = 1 &&
     bits ((0x0FC10000 : Word).toNat ||| 1) 16 16 = 4033 && bits ((0 : Word).toNat ||| 1) 16 16 = 0) = true := by decide +kernel

/-! ### Encodings -/

/-- A packet of every field at work: a BURST_WRITE of 4 lines with its checks. -/
def burstP : Packet :=
  { ptype := 0x06, len := 19, srcNode := 5, dstNode := 6, tag := 0x89ABCDEF, part := 1, epoch := 3, jobKey := 9, addr := here 0x100, counter := 0xFFFF, code := 0, aux := 3,
    grantId := 1, data := [1, 2, 3, 4], checks := [5, 6, 7, 8] }

theorem witness_PacketsAreReadAsWritten : WireForm burstP where
  kind := by decide
  header := by decide
  len := by decide
  data := by decide
  checks := by decide
  body := by decide
  list := by decide
  mask := by decide
  opA := by decide
  opB := by decide
  value := by decide

theorem test_packet_round_trip : readSlots 1 (packetBytes burstP) = ([burstP], [], []) := by decide +kernel

/-- The example block: line 0 holds 1.0, 1.5, 0.75 and −2.0 in BF16, eight times over; lines 1 to 3 are zero (Table 4.7). -/
def blockLines : List LineData := [lineOf (List.replicate 8 [0x80, 0x3F, 0xC0, 0x3F, 0x40, 0x3F, 0x00, 0xC0]).flatten, 0, 0, 0]

/-- Its image: PLANE with 2-bit residuals over EMIN 0x7E, three ZERO lines, padded to 3 granules (Table 4.7). -/
theorem test_block_image :
    encodeBlock ⟨32, 16, 8⟩ [0, 0, 0, 0] blockLines = some (List.replicate 32 0 ++ [0x42, 0x7E] ++ List.replicate 8 0x85 ++
      (List.replicate 8 [0x00, 0x40, 0x40, 0x80]).flatten ++ List.replicate 22 0) := by decide +kernel
theorem test_block_descriptor : blockDescriptor 3 = 0x304 := by decide

theorem witness_CompressedBlocksDecode :
    elemOf 1 = some ⟨32, 16, 8⟩ ∧ blockLines.length = 4 ∧ (encodeBlock ⟨32, 16, 8⟩ [0, 0, 0, 0] blockLines).isSome = true := by decide +kernel

theorem witness_FlitsAreReadAsSent : 8 ∈ [1, 2, 4, 8] ∧ (List.replicate 272 (0 : Byte)).length = 272 ∧ (List.replicate 256 (0 : Byte)).length = 256 := by
  decide +kernel

/-! ### The manual's worked examples -/

/-- Table 5.2: the CRC engine and the line construction. -/
theorem test_crc : crc32c (List.replicate 32 0) = 0x8A9136AA ∧ crc32c (List.replicate 32 0xFF) = 0x62A8AB43 := by decide +kernel
theorem test_line_check :
    addrSeed 0x01057C9AFFFFFFC0 = 0x9CBCB3A6 ∧ lineCheck 0x01057C9AFFFFFFC0 (BitVec.ofNat 512 0x9CBCB3A6) = 0xFFFFFFFF := by decide +kernel

/-- The example address of 04: offset 0xC0_4000_1040 lies in stack 6, group 24, channel 0, at home slice 3. -/
theorem test_address :
    (let l := lineNo 0xC040001040
     stackOfLine l = 6 ∧ groupOfLine l = 24 ∧ channelOfLine l = 0 ∧ sliceOfLine l = 3) := by decide

/-- The example of R388: with eight ports at full width, entry 11 of the list is link 6. -/
theorem test_link_choice : pickLink ((List.range 8).flatMap fun _ => (List.range 8).map (2 * ·)) 0x1203 0xC040001048 = some 6 := by decide +kernel

/-- The example merge of 09: 0.25 / 3.5 = 0x3D92_4925. -/
theorem test_merge_division : fdiv 0x3E800000 0x40600000 = 0x3D924925 := by decide +kernel

/-- The example append of 09: 1.0625 is 0x38, 500 saturates to 0x7E and is counted, −2^−10 is 0x80. -/
theorem test_kv_rounding :
    quantFp8 e4m3 0x7E 0x3F880000 = (0x38, false) ∧ quantFp8 e4m3 0x7E 0x43FA0000 = (0x7E, true) ∧ (quantFp8 e4m3 0x7E 0xBA800000).1 = 0x80 := by decide +kernel

/-- The example reduce of 11: 1.0 and twice 2^−8 sum to 0x3F81 in BF16, rounded once. -/
theorem test_reduce_bf16 : redFloat bf16 0 [0x3F80, 0x3B80, 0x3B80] = 0x3F81 := by decide +kernel

/-- The rows of the table give no bits: no word spells a command. -/
theorem test_no_words : decodeTableWord 32 0xFFFFFFFF = none := by decide

/-- A step runs the command in front and keeps the rest waiting. -/
theorem test_front : (match step { tState with pending := [.darkExit, .pllLock] } with | .next u => decide (u.pending = [.pllLock]) | _ => false) = true := by decide +kernel

/-- Slots owed to a site die go back, by class in the order of Table 13.4, 512 LINK cycles after the first (R385, R419). -/
def owedState : State := modSite 0 (fun x => { x with owed := [0, 3, 0, 0], owedAt := some 5 }) tState
theorem witness_site_credit : ((getSite owedState 0).owedAt = some 5 ∧ (getSite owedState 0).st = .active ∧ 5 + 128 ≤ owedState.now) := by decide +kernel
theorem test_site_credit :
    (match exec (.creditReturnTimer (.site 0)) owedState with
     | .next u => decide (u.outbox = [.site 0 { ptype := 0x60, len := 1, body := [0, 0, 3, 0, 0, 0, 0, 0] }])
     | _ => false) = true := by decide +kernel

/-- RSP goes first, then SNP, MIR, REQ and MGT in turn (R387). -/
theorem test_class_order : classOrder 0 = [1, 2, 3, 0, 4] ∧ classOrder 3 = [1, 4, 2, 3, 0] ∧ turnAfter 0 0 = 3 := by decide
end Sys2Proof.Tests
end

section
/-! SUPPORT. The registers that clear counters (R137, R176, R204, R237, R302, R335, R409): the way of a register write to its block, and
what the block does with a write that sets CLEAR. -/

namespace Sys2Proof.Machine

/-! ### The way of a register write to its block -/

/-- Outside the ORDER, QP and PART blocks a register names nothing of a partition, so a write to it waits for none (Table 15.4). -/
theorem waitsFor_eq_none_of_unowned (s : State) {a : Nat} (v : Nat)
    (hunowned : ¬ (0x80000 ≤ a ∧ a < 0x84000) ∧ a ≠ 0x84008 ∧ ¬ (0xA0000 ≤ a ∧ a < 0xE0000) ∧ ¬ (0x180000 ≤ a ∧ a < 0x188000)) :
    waitsFor s a v = none := by
  obtain ⟨hctr, hconsume, hqp, hpart⟩ := hunowned
  simp only [waitsFor, ← Bool.decide_and, decide_eq_true_eq, if_neg hctr, if_neg hconsume, if_neg hqp, if_neg hpart]

/-- A register command whose write waits for no partition ends as the write at its block does. -/
theorem regCmd_eq_of_writeBlock {w : Writer} {a : Nat} {v : Word} {s u : State} (hlive : writerLive s w = true)
    (hwait : waitsFor s a v.toNat = none) (hwrite : writeBlock w a v.toNat s = wrote u) : regCmd w a v s = .next (settle u) := by
  rw [regCmd, if_pos hlive, regWrite, hwait, hwrite]
  rfl

/-- The addresses of the configuration space are the multiples of 8 below 2^24 (R9). -/
theorem regFormed_of_aligned {a : Nat} (haligned : a % 8 = 0) (hsize : a < 2 ^ 24) : regFormed a = true := by
  rw [regFormed, decide_eq_true haligned, decide_eq_true hsize, Bool.and_true]

section Routing

variable (w : Writer) {a k o : Nat} (v : Nat) (s : State) (haligned : o % 8 = 0)
include haligned

/-- The MEM instance of stack `k` (R132). -/
theorem writeBlock_mem (hk : k < 20) (ho : o < 0x1000) (ha : a = 0x40000 + 0x1000 * k + o) : writeBlock w a v s = writeMem w a k o v s := by
  have hformed : regFormed a = true := regFormed_of_aligned (by omega) (by omega)
  have hinst : (a - 0x40000) / 0x1000 = k := by omega
  have hoff : (a - 0x40000) % 0x1000 = o := by omega
  simp (disch := omega) only [writeBlock, hformed, hinst, hoff, Bool.not_true, Bool.false_eq_true, if_false, if_pos, if_neg]

/-- The INTEG block (R173). -/
theorem writeBlock_integ (ho : o < 0x10000) (ha : a = 0x60000 + o) : writeBlock w a v s = writeInteg w o v s := by
  have hformed : regFormed a = true := regFormed_of_aligned (by omega) (by omega)
  have hoff : a - 0x60000 = o := by omega
  simp (disch := omega) only [writeBlock, hformed, hoff, Bool.not_true, Bool.false_eq_true, if_false, if_pos, if_neg]

/-- The HOME block (R204). -/
theorem writeBlock_home (ho : o < 0x10000) (ha : a = 0x70000 + o) : writeBlock w a v s = writeHome w o v s := by
  have hformed : regFormed a = true := regFormed_of_aligned (by omega) (by omega)
  have hoff : a - 0x70000 = o := by omega
  simp (disch := omega) only [writeBlock, hformed, hoff, Bool.not_true, Bool.false_eq_true, if_false, if_pos, if_neg]

/-- The ORDER block (R237). -/
theorem writeBlock_order (ho : o < 0x20000) (ha : a = 0x80000 + o) : writeBlock w a v s = writeOrder w o v s := by
  have hformed : regFormed a = true := regFormed_of_aligned (by omega) (by omega)
  have hoff : a - 0x80000 = o := by omega
  simp (disch := omega) only [writeBlock, hformed, hoff, Bool.not_true, Bool.false_eq_true, if_false, if_pos, if_neg]

/-- The BOOTH instance of Booth `k` (R302). -/
theorem writeBlock_booth (hk : k < 40) (ho : o < 0x1000) (ha : a = 0x100000 + 0x1000 * k + o) : writeBlock w a v s = writeBooth w k o v s := by
  have hformed : regFormed a = true := regFormed_of_aligned (by omega) (by omega)
  have hinst : (a - 0x100000) / 0x1000 = k := by omega
  have hoff : (a - 0x100000) % 0x1000 = o := by omega
  simp (disch := omega) only [writeBlock, hformed, hinst, hoff, Bool.not_true, Bool.false_eq_true, if_false, if_pos, if_neg]

/-- The FAB instance of port `k` (R403). -/
theorem writeBlock_fab (hk : k < 8) (ho : o < 0x1000) (ha : a = 0x140000 + 0x1000 * k + o) : writeBlock w a v s = writeFab w k o v s := by
  have hformed : regFormed a = true := regFormed_of_aligned (by omega) (by omega)
  have hinst : (a - 0x140000) / 0x1000 = k := by omega
  have hoff : (a - 0x140000) % 0x1000 = o := by omega
  simp (disch := omega) only [writeBlock, hformed, hinst, hoff, Bool.not_true, Bool.false_eq_true, if_false, if_pos, if_neg]

end Routing

/-! ### What a block does with CLEAR -/

/-- A stack's registers after MEM_COUNT_CLEAR (R137). -/
def stackCountCleared (x : MemStack) : MemStack :=
  { x with compressed := 0, plain := 0, merges := 0, coalesced := 0, mergeRetries := 0, mergeFaults := 0, reassigned := 0 }

/-- The INTEG block after INTEG_COUNT_CLEAR: the retry log stays (R176). -/
def integCountCleared (x : Integ) : Integ :=
  { x with transient := 0, lasting := 0, repaired := 0, poisoned := 0, pathRetried := 0, pathFailed := 0 }

/-- The HOME block after HOME_COUNT_CLEAR (R204). -/
def homeCountCleared (x : Home) : Home := { x with retries := 0, timeouts := 0, ownerLost := 0 }

/-- The ORDER block after ORDER_COUNT_CLEAR: the arrival counters stay (R237). -/
def orderCountCleared (x : Order) : Order := { x with replayed := 0, unknown := 0, fullRetries := 0 }

/-- A Booth after BOOTH_COUNT_CLEAR: the search counters stay (R302). -/
def boothCountCleared (x : BoothSt) : BoothSt := { x with blocksRead := 0, blocksSkipped := 0, rows := 0, saturated := 0 }

/-- A Booth after BOOTH_SEARCH_COUNT_CLEAR: the attention counters stay (R335). -/
def boothSearchCountCleared (x : BoothSt) : BoothSt :=
  { x with queries := 0, short := 0, refused := 0, scanned := 0, batches := 0, saved := 0 }

section Clear

variable (w : Writer) (k : Nat) {v : Nat} (s : State) (hclear : v.testBit 0 = true)
include hclear

theorem writeMem_countClear (a : Nat) : writeMem w a k 0x20 v s = wrote (modStack k stackCountCleared s) := by
  simp only [writeMem, hclear]
  rfl

theorem writeInteg_countClear : writeInteg w 0x20 v s = wrote (modInteg integCountCleared s) := by
  simp only [writeInteg, hclear]
  rfl

theorem writeHome_countClear : writeHome w 0x28 v s = wrote (modHome homeCountCleared s) := by
  simp only [writeHome, hclear]
  rfl

theorem writeOrder_countClear (hpriv : writerPriv s w = true) : writeOrder w 0x4020 v s = wrote (modOrder orderCountCleared s) := by
  simp only [writeOrder, hclear, hpriv]
  rfl

theorem writeBooth_countClear (hmay : mayBooth s w k = true) : writeBooth w k 0x018 v s = wrote (modBooth k boothCountCleared s) := by
  simp only [writeBooth, hclear, hmay]
  rfl

theorem writeBooth_searchCountClear (hmay : mayBooth s w k = true) :
    writeBooth w k 0x120 v s = wrote (modBooth k boothSearchCountCleared s) := by
  simp only [writeBooth, hclear, hmay]
  rfl

theorem writeFab_countClear (hpriv : writerPriv s w = true) :
    writeFab w k 0x40 v s = wrote (modLink (2 * k + 1) clearLink (modLink (2 * k) clearLink s)) := by
  simp only [writeFab, hclear, hpriv]
  rfl

end Clear

/-- Both links of a port are cleared, each by its own update (R409). -/
theorem getLink_clear_port (p : Nat) (s : State) {l : Nat} (hl : l = 2 * p ∨ l = 2 * p + 1) :
    getLink (modLink (2 * p + 1) clearLink (modLink (2 * p) clearLink s)) l = clearLink (getLink s l) := by
  rcases hl with rfl | rfl
  · rw [getLink_modLink_ne _ _ (by omega), getLink_modLink_self]
  · rw [getLink_modLink_self, getLink_modLink_ne _ _ (by omega)]

end Sys2Proof.Machine

namespace Sys2Proof.Safety

open Sys2Proof.Machine

/-! ### The commands that clear counters -/

section CountClear

variable {w : Writer} {v : Word} {s : State} (hlive : writerLive s w = true) (hclear : v.toNat.testBit 0 = true)
include hlive hclear

theorem memCountClear_settles (k : Fin 20) : Settles (.memCountClear w k v) s (modStack k.val stackCountCleared s) :=
  regCmd_eq_of_writeBlock hlive (waitsFor_eq_none_of_unowned s _ (by omega))
    ((writeBlock_mem w _ s rfl k.isLt (by decide) (by omega)).trans (writeMem_countClear w _ s hclear _))

theorem integCountClear_settles : Settles (.integCountClear w v) s (modInteg integCountCleared s) :=
  regCmd_eq_of_writeBlock hlive (waitsFor_eq_none_of_unowned s _ (by decide))
    ((writeBlock_integ w _ s rfl (by decide) rfl).trans (writeInteg_countClear w s hclear))

theorem homeCountClear_settles : Settles (.homeCountClear w v) s (modHome homeCountCleared s) :=
  regCmd_eq_of_writeBlock hlive (waitsFor_eq_none_of_unowned s _ (by decide))
    ((writeBlock_home w _ s rfl (by decide) rfl).trans (writeHome_countClear w s hclear))

theorem orderCountClear_settles (hpriv : writerPriv s w = true) : Settles (.orderCountClear w v) s (modOrder orderCountCleared s) :=
  regCmd_eq_of_writeBlock hlive (waitsFor_eq_none_of_unowned s _ (by decide))
    ((writeBlock_order w _ s rfl (by decide) rfl).trans (writeOrder_countClear w s hclear hpriv))

theorem boothCountClear_settles (b : Fin 40) (hmay : mayBooth s w b.val = true) :
    Settles (.boothCountClear w b v) s (modBooth b.val boothCountCleared s) :=
  regCmd_eq_of_writeBlock hlive (waitsFor_eq_none_of_unowned s _ (by omega))
    ((writeBlock_booth w _ s rfl b.isLt (by decide) (by omega)).trans (writeBooth_countClear w _ s hclear hmay))

theorem boothSearchCountClear_settles (b : Fin 40) (hmay : mayBooth s w b.val = true) :
    Settles (.boothSearchCountClear w b v) s (modBooth b.val boothSearchCountCleared s) :=
  regCmd_eq_of_writeBlock hlive (waitsFor_eq_none_of_unowned s _ (by omega))
    ((writeBlock_booth w _ s rfl b.isLt (by decide) (by omega)).trans (writeBooth_searchCountClear w _ s hclear hmay))

theorem fabCountClear_settles (p : Fin 8) (hpriv : writerPriv s w = true) :
    Settles (.fabCountClear w p v) s (modLink (2 * p.val + 1) clearLink (modLink (2 * p.val) clearLink s)) :=
  regCmd_eq_of_writeBlock hlive (waitsFor_eq_none_of_unowned s _ (by omega))
    ((writeBlock_fab w _ s rfl p.isLt (by decide) (by omega)).trans (writeFab_countClear w _ s hclear hpriv))

end CountClear

/-- Settles O39: each command's write reaches its block, and the block's update is read back field by field. -/
theorem countersClear : Obligations.CountersClear := by
  unfold Obligations.CountersClear
  intro w k b pt v s hlive hclear
  refine ⟨⟨_, memCountClear_settles hlive hclear k, ?_⟩, integCountClear_settles hlive hclear, homeCountClear_settles hlive hclear,
    orderCountClear_settles hlive hclear, fun hmay => ⟨_, boothCountClear_settles hlive hclear b hmay, ?_⟩,
    fun hmay => ⟨_, boothSearchCountClear_settles hlive hclear b hmay, ?_⟩,
    fun hpriv => ⟨_, fabCountClear_settles hlive hclear pt hpriv, fun l => getLink_clear_port pt.val s⟩⟩
  · simp [stackCountCleared]
  · simp [boothCountCleared]
  · simp [boothSearchCountCleared]

end Sys2Proof.Safety
end


section
/-! SUPPORT. What a settling leaves of the mirror packets that await their answers. -/

-- One proof at a time: the check compiles the whole text in one process, whose memory many proofs at once would exceed.
set_option Elab.async false

namespace Sys2Proof.Machine

/-! ### What a packet that leaves does not reach -/

theorem whenS_keeps {β : Type} (π : State → β) (b : Bool) (f : State → State) (hf : ∀ u, π (f u) = π u) (s : State) : π (whenS b f s) = π s := by
  cases b
  · rfl
  · exact hf s

theorem eachS_keeps {α β : Type} (π : State → β) (l : List α) (f : α → State → State) (hf : ∀ a u, π (f a u) = π u) (s : State) :
    π (eachS l f s) = π s := by
  induction l generalizing s with
  | nil => rfl
  | cons a l ih => exact (ih (f a s)).trans (hf a s)

/-- A packet handed to a link waits there, or leaves with its length filled in. -/
theorem sendOn_cases (l : Nat) (p : Packet) (s : State) :
    (∃ f, sendOn l p s = modLink l f s) ∨ ∃ n y, sendOn l p s = transmit l { p with len := n } (modLink l (fun _ => y) s) := by
  unfold sendOn
  dsimp only
  generalize BitVec.ofNat 16 _ = n
  split
  · exact .inl ⟨_, rfl⟩
  · split
    · exact .inr ⟨n, _, rfl⟩
    · exact .inl ⟨_, rfl⟩

section Leaves

variable {β : Type} (π : State → β) (hfab : ∀ f u, π (modFab f u) = π u := by exact fun _ _ => rfl)
  (hinteg : ∀ f u, π (modInteg f u) = π u := by exact fun _ _ => rfl) (hemit : ∀ o u, π (emit o u) = π u := by exact fun _ _ => rfl)
include hfab hinteg hemit

omit hemit in
theorem markSent_keeps (p : Packet) (s : State) : π (markSent p s) = π s := by
  unfold markSent; dsimp only; split
  · exact hfab _ _
  · split
    · exact hinteg _ _
    · rfl

omit hinteg in
theorem sendFlit_keeps (l : Nat) (b : List Byte) (s : State) : π (sendFlit l b s) = π s :=
  (whenS_keeps π _ (putFlit l _) (fun u => (hemit _ _).trans (hfab _ u)) _).trans (hfab _ s)

theorem transmit_keeps (l : Nat) (p : Packet) (s : State) : π (transmit l p s) = π s :=
  calc π (transmit l p s)
    _ = π (eachS (payloads (packetBytes p)) (sendFlit l) (markSent p (emit (.link l p) s))) := whenS_keeps π _ (modLink l _) (hfab _) _
    _ = π (markSent p (emit (.link l p) s)) := eachS_keeps π _ _ (sendFlit_keeps π hfab hemit l) _
    _ = π s := (markSent_keeps π hfab hinteg p _).trans (hemit _ s)

theorem sendOn_keeps (l : Nat) (p : Packet) (s : State) : π (sendOn l p s) = π s := by
  obtain ⟨f, hwait⟩ | ⟨n, y, hleave⟩ := sendOn_cases l p s
  · rw [hwait]; exact hfab _ s
  · rw [hleave]; exact (transmit_keeps π hfab hinteg hemit l _ _).trans (hfab _ s)

theorem sendMirror_keeps (g : Nat) (kind : MirrorKind) (ls : List Nat) (p : Packet) (rs : List Req) (c : Status) (cmd : Option (Nat × Nat × Nat))
    (s : State) : π (sendMirror g kind ls p rs c cmd s) = π s := by
  unfold sendMirror; dsimp only; split
  · exact (whenS_keeps π _ (sendOn _ _) (sendOn_keeps π hfab hinteg hemit _ _) _).trans ((hfab _ _).trans (hinteg _ s))
  · exact (hfab _ _).trans (hinteg _ s)

/-- Poisoning a line changes the line and, where the line is mirrored, its hold and what a mirror packet changes. -/
theorem poisonLine_keeps (hput : ∀ l v u, π (putLine l v u) = π u := by exact fun _ _ _ => rfl)
    (hhold : ∀ l k u, π (holdLine l k u) = π u := by exact fun _ _ _ => rfl) {l reason : Nat} {s : State} : π (poisonLine l reason s) = π s := by
  refine whenS_keeps π _ _ (fun u => ?_) s
  have hset : π (setPoison l reason u) = π u := whenS_keeps π _ (putLine l _) (hput l _) u
  rw [← hset, mirrorPoison]
  split
  · exact (hhold _ _ _).trans (sendMirror_keeps π hfab hinteg hemit ..)
  · rfl

end Leaves

/-- When each mirror packet that awaits its answer was sent, oldest packet first. -/
def mirrorTimes (s : State) : List Nat := s.integ.ops.map MirrorOp.sentAt

/-- Some epoch maps some window, so that a request can leave for another node. -/
def Windowed (s : State) : Prop := ∃ e p k a n, findWin (mapsAt s e) p k a n ≠ none

/-- Windows exist, through which a packet of any type may leave, or more than two mirror packets await their answers: either lasts through a settling. -/
def Blurred (s : State) : Prop := Windowed s ∨ 2 < (mirrorTimes s).length

/-- Of two mirror packets that await their answers the older was sent at `x`. -/
def FirstSent (x : Nat) (s : State) : Prop := Blurred s ∨ ∃ y, mirrorTimes s = [x, y]

/-- A packet type that is no mirror packet's: its leaving sets no time anew (R159). -/
abbrev notMirror (t : BitVec 8) : Prop := ¬ (0x30 ≤ t.toNat ∧ t.toNat ≤ 0x34)

theorem FirstSent.of_eq {x : Nat} {s t : State} (h : FirstSent x s) (hr : t.rig = s.rig) (ho : mirrorTimes t = mirrorTimes s) : FirstSent x t := by
  simpa only [FirstSent, Blurred, Windowed, mapsAt, mapsOf, hr, ho] using h

/-- What makes two times that of the older packet names neither. -/
theorem blurred_of_forall {s : State} (h : ∀ x, FirstSent x s) : Blurred s := by
  obtain hblurred | ⟨y, hy⟩ := h 0
  · exact hblurred
  obtain hblurred | ⟨z, hz⟩ := h 1
  · exact hblurred
  simp [hy] at hz

section

variable {x : Nat} {s : State}

/-! ### Updates -/

theorem firstSent_modPower (f : Power → Power) (h : FirstSent x s) : FirstSent x (modPower f s) := h
theorem firstSent_modMem (f : Mem → Mem) (h : FirstSent x s) : FirstSent x (modMem f s) := h
theorem firstSent_modHome (f : Home → Home) (h : FirstSent x s) : FirstSent x (modHome f s) := h
theorem firstSent_modOrder (f : Order → Order) (h : FirstSent x s) : FirstSent x (modOrder f s) := h
theorem firstSent_modFab (f : Fab → Fab) (h : FirstSent x s) : FirstSent x (modFab f s) := h
theorem firstSent_modBarker (f : Barker → Barker) (h : FirstSent x s) : FirstSent x (modBarker f s) := h
theorem firstSent_modQp (q : Nat) (f : Qp → Qp) (h : FirstSent x s) : FirstSent x (modQp q f s) := h
theorem firstSent_modPart (p : Nat) (f : Part → Part) (h : FirstSent x s) : FirstSent x (modPart p f s) := h
theorem firstSent_modBooth (b : Nat) (f : BoothSt → BoothSt) (h : FirstSent x s) : FirstSent x (modBooth b f s) := h
theorem firstSent_modSite (k : Nat) (f : Site → Site) (h : FirstSent x s) : FirstSent x (modSite k f s) := h
theorem firstSent_modBank (n : Nat) (f : Bank → Bank) (h : FirstSent x s) : FirstSent x (modBank n f s) := h
theorem firstSent_modStack (k : Nat) (f : MemStack → MemStack) (h : FirstSent x s) : FirstSent x (modStack k f s) := h
theorem firstSent_modInteg (f : Integ → Integ) (hf : (f s.integ).ops = s.integ.ops) (h : FirstSent x s) : FirstSent x (modInteg f s) :=
  h.of_eq rfl (congrArg (List.map MirrorOp.sentAt) hf)
theorem firstSent_setCtr (n : Nat) (v : Word) (h : FirstSent x s) : FirstSent x (setCtr n v s) := h
theorem firstSent_emit (o : Out) (h : FirstSent x s) : FirstSent x (emit o s) := h
theorem firstSent_putLine (l : Nat) (v : Line) (h : FirstSent x s) : FirstSent x (putLine l v s) := h
theorem firstSent_holdLine (l : Nat) (k : Hold) (h : FirstSent x s) : FirstSent x (holdLine l k s) := h

theorem firstSent_whenS (b : Bool) (f : State → State) (h : FirstSent x s) (hf : b = true → FirstSent x (f s)) : FirstSent x (whenS b f s) := by
  cases b
  · exact h
  · exact hf rfl

theorem firstSent_eachS {α : Type} (l : List α) (f : α → State → State) (h : FirstSent x s) (hf : ∀ a u, FirstSent x u → FirstSent x (f a u)) :
    FirstSent x (eachS l f s) := by
  induction l generalizing s with
  | nil => exact h
  | cons a l ih => exact ih (hf a s h)

/-- A request is served under the maps of its epoch; the maps themselves stay (R54). -/
theorem firstSent_under (e : Nat) (f : State → State) (h : FirstSent x s) (hf : ∀ u, FirstSent x u → FirstSent x (f u)) : FirstSent x (under e f s) :=
  hf (modRig (fun x => { x with view := some e }) s) h

/-! ### What leaves on a link -/

/-- Of the integrity state a packet that leaves changes only what its leaving marks. -/
theorem transmit_integ (l : Nat) (p : Packet) (s : State) : (transmit l p s).integ = (markSent p (emit (.link l p) s)).integ :=
  (whenS_keeps State.integ _ (modLink l _) (fun _ => rfl) _).trans
    (eachS_keeps State.integ _ _ (sendFlit_keeps State.integ (l := l)) _)

/-- The times of the mirror packets change only where a mirror packet leaves. -/
theorem markSent_times_of_notMirror {p : Packet} (hp : notMirror p.ptype) (s : State) : mirrorTimes (markSent p s) = mirrorTimes s := by
  unfold markSent
  dsimp only
  split
  · rfl
  · rfl

theorem markSent_times_length (p : Packet) (s : State) : (mirrorTimes (markSent p s)).length = (mirrorTimes s).length := by
  unfold markSent
  dsimp only
  split
  · rfl
  · split
    · simp [mirrorTimes]
    · rfl

theorem sendOn_times_of_notMirror {p : Packet} (hp : notMirror p.ptype) (l : Nat) (s : State) : mirrorTimes (sendOn l p s) = mirrorTimes s := by
  obtain ⟨f, hwait⟩ | ⟨n, y, hleave⟩ := sendOn_cases l p s
  · rw [hwait]; rfl
  · rw [hleave, mirrorTimes, transmit_integ]
    exact markSent_times_of_notMirror hp _

theorem sendOn_times_length (l : Nat) (p : Packet) (s : State) : (mirrorTimes (sendOn l p s)).length = (mirrorTimes s).length := by
  obtain ⟨f, hwait⟩ | ⟨n, y, hleave⟩ := sendOn_cases l p s
  · rw [hwait]; rfl
  · rw [hleave, mirrorTimes, transmit_integ]
    exact markSent_times_length _ _

theorem firstSent_sendOn {p : Packet} (hp : notMirror p.ptype) (l : Nat) (h : FirstSent x s) : FirstSent x (sendOn l p s) :=
  h.of_eq (sendOn_keeps State.rig (l := l) (p := p) (s := s)) (sendOn_times_of_notMirror hp l s)

/-- Nothing that leaves brings windows or fewer mirror packets. -/
theorem Blurred.sendOn (l : Nat) (p : Packet) (h : Blurred s) : Blurred (sendOn l p s) := by
  simpa only [Blurred, Windowed, mapsAt, mapsOf, sendOn_keeps State.rig, sendOn_times_length] using h

/-- A new mirror packet is one more than before. -/
theorem sendMirror_times_length (g : Nat) (kind : MirrorKind) (ls : List Nat) (p : Packet) (rs : List Req) (c : Status) (cmd : Option (Nat × Nat × Nat))
    (s : State) : (mirrorTimes (sendMirror g kind ls p rs c cmd s)).length = (mirrorTimes s).length + 1 := by
  unfold sendMirror; dsimp only; split
  · unfold whenS; split
    · rw [sendOn_times_length]; simp [mirrorTimes]
    · simp [mirrorTimes]
  · simp [mirrorTimes]

theorem firstSent_sendMirror (g : Nat) (kind : MirrorKind) (ls : List Nat) (p : Packet) (rs : List Req) (c : Status) (cmd : Option (Nat × Nat × Nat))
    (h : FirstSent x s) : FirstSent x (sendMirror g kind ls p rs c cmd s) := by
  have hlen := sendMirror_times_length g kind ls p rs c cmd s
  left
  obtain (hwin | hmany) | ⟨y, htwo⟩ := h
  · left; simpa only [Windowed, mapsAt, mapsOf, sendMirror_keeps State.rig] using hwin
  · right; omega
  · right; rw [hlen, htwo]; exact Nat.lt_succ_self 2

end
end Sys2Proof.Machine
end


section
/-! SUPPORT. A settling where nothing waits; the Roustabout's access to a line where its turn is now; a mirror packet that leaves at once. -/

set_option Elab.async false

namespace Sys2Proof.Machine

/-! ### A settling where nothing waits -/

theorem restartClocks_keeps {β : Type} (π : State → β) (hpower : ∀ f u, π (modPower f u) = π u := by exact fun _ _ => rfl) {s : State} :
    π (restartClocks s) = π s :=
  whenS_keeps π _ (modPower _) (hpower _) s

theorem driveTxns_of_nil {s : State} (htxns : s.home.txns = []) : driveTxns s = s := by
  rw [driveTxns, htxns]; rfl

theorem releaseParked_of_nil {s : State} (hparked : s.mem.parked = []) : releaseParked s = s := by
  have hhot : openHot s = s := by rw [openHot, hparked]; rfl
  rw [releaseParked, hhot, hparked]; rfl

theorem releaseRings_of_nil {s : State} (hparts : s.parts = []) : releaseRings s = s := by
  rw [releaseRings, hparts]; rfl

theorem settleOnce_of_idle {s : State} (hparked : s.mem.parked = []) (htxns : s.home.txns = []) (hfences : s.ucie.fences = []) (hparts : s.parts = []) :
    settleOnce s = modUcie (fun x => { x with fences := [] }) (restartClocks s) := by
  have htxns' : (restartClocks s).home.txns = [] := (restartClocks_keeps (·.home.txns)).trans htxns
  rw [settleOnce, driveTxns_of_nil htxns', releaseParked_of_nil ((restartClocks_keeps (·.mem.parked)).trans hparked),
    releaseRings_of_nil ((restartClocks_keeps State.parts).trans hparts), driveTxns_of_nil htxns', settleFences,
    (restartClocks_keeps (·.ucie.fences)).trans hfences]
  rfl

/-- Where nothing waits a settling changes the clocks alone. -/
theorem settle_of_idle {s : State} (hparked : s.mem.parked = []) (htxns : s.home.txns = []) (hfences : s.ucie.fences = []) (hparts : s.parts = [])
    (hheld : ∀ k < 4, (getSite s k).held = []) : settle s = modUcie (fun x => { x with fences := [] }) (restartClocks s) := by
  have hnone : ((List.range 4).flatMap fun k => (getSite s k).held) = [] := by
    simpa [List.flatMap_eq_nil_iff] using hheld
  rw [settle, hnone, settleOnce_of_idle hparked htxns hfences hparts]
  rfl

/-! ### The Roustabout's access to a line (R111, R177, R178) -/

/-- A request that draws Tickets keeps all but its place. -/
theorem reach_eq (s : State) (goal : Wait) (r : Req) : ∃ w k, reach s goal r = { r with place := w, kept := k } := by
  suffices hfold : ∀ (ws : List Wait) (w : Wait) (k b : Bool), ∃ w' k', (ws.foldl (fun (x : Req × Bool) w =>
      if !x.2 then x else
      match ticketAt s w x.1 with
      | some b => ({ x.1 with place := w, kept := b }, true)
      | none => (x.1, false)) ({ r with place := w, kept := k }, b)).1 = { r with place := w', kept := k' } from hfold _ r.place r.kept true
  intro ws
  induction ws with
  | nil => exact fun w k b => ⟨w, k, rfl⟩
  | cons v ws ih =>
    intro w k b
    rw [List.foldl_cons]
    split
    · exact ih w k b
    · split
      · exact ih _ _ _
      · exact ih _ _ _

/-- A request that stands at its Carousel has no place before it. -/
theorem placesTo_line_of_at_line {s : State} {r : Req} (hat : r.place = .line) : placesTo s .line r = [] := by
  have hpath : pathOf s r = [.line] ∨ pathOf s r = [.midway, .line] ∨ pathOf s r = [.midway, .slice, .line] := by
    unfold pathOf
    split
    · exact .inl rfl
    · split
      · exact .inr (.inl rfl)
      · exact .inr (.inr rfl)
  rcases hpath with hpath | hpath | hpath <;> simp [placesTo, hpath, hat]

/-- No waiting request touches a line of a request whose lines none of them has. -/
theorem sharesLine_eq_false {s : State} {r : Req} {l : Nat} (hlines : reqLines r = [l]) (halone : ∀ y ∈ s.mem.parked, l ∉ reqLines y.req) :
    ∀ y ∈ s.mem.parked, sharesLine y.req r = false := by
  intro y hy
  have hnot := halone y hy
  simp only [sharesLine, hlines, List.any_eq_false, List.contains_eq_mem, List.mem_singleton, decide_eq_true_eq]
  exact fun a ha hal => hnot (hal ▸ ha)

theorem earlier_eq_none {s : State} {r : Req} (hshares : ∀ y ∈ s.mem.parked, sharesLine y.req r = false) : earlier s r = none := by
  rw [earlier, Option.map_eq_none_iff, List.find?_eq_none]
  intro y hy
  simp [hshares y hy]

theorem behind_eq_false {s : State} {r : Req} (hshares : ∀ y ∈ s.mem.parked, sharesLine y.req r = false) : behind s r = false := by
  rw [behind, List.any_eq_false]
  intro y hy
  simp [hshares y hy]

end Sys2Proof.Machine

namespace Sys2Proof.Safety

open Sys2Proof.Machine

/-- A request that comes to the line of its Carousel, whose lines no waiting request has, goes on there in the next place of the order of acceptance
(R20, R111). -/
theorem comeTo_line_of_open {s : State} {r : Req} (go : Req → State → State) (htaken : r.taken = 0) (hshares : ∀ y ∈ s.mem.parked, sharesLine y.req r = false)
    (hplace : (reach s .line r).place = .line) :
    ∃ k, comeTo .line r go s = go { r with place := .line, kept := k, taken := s.mem.stamp + 1 } (counted s) := by
  obtain ⟨w, k, hreach⟩ := reach_eq s .line r
  obtain rfl : w = .line := by rw [hreach] at hplace; exact hplace
  refine ⟨k, ?_⟩
  rw [comeTo, earlier_eq_none hshares, admitTo, hreach, placesTo_line_of_at_line rfl]
  simp only [List.isEmpty_nil, Bool.not_true, Bool.false_eq_true, if_false, htaken, decide_true, Bool.and_self, if_true]
  rfl

/-- The Roustabout's access to a line has its turn at once where the line is open to it and its owner is awake. -/
theorem mirrorServe_of_open {s : State} {r : Req} {l : Nat} (hr : r.origin = .roustabout) (horder : r.order = 0) (htaken : r.taken = 0)
    (hlines : reqLines r = [l]) (hopen : LineOpen s r l) (hawake : sleeperOf s [l] = none) :
    ∃ q, mirrorServe r s = mirrorTurn q (counted (counted s)) ∧ q.origin = r.origin ∧ q.pkt = r.pkt := by
  obtain ⟨hheld, halone, hline, hticket⟩ := hopen
  have hshares : ∀ q : Req, q.pkt = r.pkt → ∀ y ∈ s.mem.parked, sharesLine y.req q = false := fun q hq =>
    sharesLine_eq_false (by rw [reqLines, hq]; exact hlines) halone
  have hnumbered : mirrorServe r s = comeTo .line { r with order := s.mem.stamp + 1 }
      (fun r s => if lineHeld s l || behind s r then park r .line s else mirrorTurn r s) (counted s) := by
    unfold mirrorServe numbered
    simp only [hline, if_pos hr, hawake, horder]
    rfl
  obtain ⟨k, hcome⟩ := comeTo_line_of_open (s := counted s) (fun r s => if lineHeld s l || behind s r then park r .line s else mirrorTurn r s)
    (r := { r with order := s.mem.stamp + 1 }) htaken (hshares _ rfl) hticket
  refine ⟨_, hnumbered.trans (hcome.trans (if_neg ?_)), rfl, rfl⟩
  have hfree : lineHeld (counted (counted s)) l = false := hheld
  simp only [hfree, Bool.false_or, Bool.not_eq_true]
  exact behind_eq_false (s := counted (counted s)) (hshares _ rfl)

end Sys2Proof.Safety
end


section
/-! SUPPORT. INTEG_POISON on a mirrored line where every tag is in use. -/

set_option Elab.async false

namespace Sys2Proof.Machine

/-! ### A mirror packet that leaves at once under tag 0 -/

/-- Where every tag is in use the search for a free one ends at tag 0. -/
theorem freshTag_eq_zero {s : State} (hused : ∀ t < 2 ^ 20, t ∈ s.fab.outst.map Outst.tag ++ s.fab.tagHolds.map TagHold.tag ++ s.integ.ops.map MirrorOp.tag) :
    freshTag s = 0 := by
  unfold freshTag
  dsimp only
  rw [List.find?_eq_none.mpr]
  · rfl
  · intro t ht
    obtain ⟨i, -, rfl⟩ := List.mem_map.mp ht
    rw [Bool.not_eq_true, Bool.not_eq_false', List.contains_eq_mem, decide_eq_true_iff]
    exact hused _ (Nat.mod_lt _ (by decide))

theorem drawsReserved_eq_false {p : Packet} (hp : p.flags = 0) (s : State) : drawsReserved s p = false := by
  simp [drawsReserved, pktGranted, pktResend, hp]

/-- A packet leaves at once on a link that has its credit and its room, and on which nothing waits. -/
theorem sendOn_eq_transmit {l : Nat} {p : Packet} {s : State} {x y : Link} (hp : p.flags = 0) (hlen : p.len = 2) (hlink : getLink s l = x) (hidle : x.waiting = [])
    (hcredit : spendCredit x { p with len := BitVec.ofNat 16 (pktLen false p) } false = some y) :
    sendOn l p s = transmit l { p with len := BitVec.ofNat 16 (pktLen false p) } (modLink l (fun _ => y) s) := by
  have hfill : (if p.len.toNat ≤ 2 then pktLen false p else p.len.toNat) = pktLen false p := by rw [hlen]; rfl
  unfold sendOn
  dsimp only
  rw [hfill, hlink, hidle, drawsReserved_eq_false (p := { p with len := BitVec.ofNat 16 (pktLen false p) }) hp, hcredit]
  rfl

/-- Where a mirror packet leaves under tag 0 now, every older one of that tag is sent anew. -/
theorem transmit_times {l : Nat} {p : Packet} {s : State} (hp : 0x30 ≤ p.ptype.toNat ∧ p.ptype.toNat ≤ 0x34) (htag : p.tag = 0#32) :
    mirrorTimes (transmit l p s) = s.integ.ops.map fun o => if o.tag = 0 then s.now else o.sentAt := by
  rw [mirrorTimes, transmit_integ, markSent]
  dsimp only
  rw [if_neg (by omega), if_pos hp, htag]
  simp only [modInteg, emit, List.map_map]
  congr 1
  funext o
  simp [apply_ite MirrorOp.sentAt, bits]

theorem sendOn_times {l : Nat} {p : Packet} {s : State} {x y : Link} (hp : 0x30 ≤ p.ptype.toNat ∧ p.ptype.toNat ≤ 0x34) (hflags : p.flags = 0)
    (hlen : p.len = 2) (htag : p.tag = 0#32) (hlink : getLink s l = x) (hidle : x.waiting = [])
    (hcredit : spendCredit x { p with len := BitVec.ofNat 16 (pktLen false p) } false = some y) :
    mirrorTimes (sendOn l p s) = s.integ.ops.map fun o => if o.tag = 0 then s.now else o.sentAt := by
  rw [sendOn_eq_transmit hflags hlen hlink hidle hcredit]
  exact transmit_times hp htag

/-- A mirror packet that leaves at once under tag 0 sends the older ones of that tag anew, and is itself sent now. -/
theorem sendMirror_times {g l : Nat} {kind : MirrorKind} {ls : List Nat} {p : Packet} {rs : List Req} {c : Status} {cmd : Option (Nat × Nat × Nat)}
    {s : State} {x : Link} (hp : 0x30 ≤ p.ptype.toNat ∧ p.ptype.toNat ≤ 0x34) (hflags : p.flags = 0) (hlen : p.len = 2)
    (hfree : freshTag s = 0) (hlink : anyLink s p.dstNode.toNat (offOf p.addr.toNat) = some l) (hturn : mirrorWaits s l ls = false)
    (hlinked : getLink s l = x) (hidle : x.waiting = [])
    (hcredit : (spendCredit x { p with tag := 0#32, len := BitVec.ofNat 16 (pktLen false { p with tag := 0#32 }) } false).isSome = true) :
    mirrorTimes (sendMirror g kind ls p rs c cmd s) = (s.integ.ops.map fun o => if o.tag = 0 then s.now else o.sentAt) ++ [s.now] := by
  obtain ⟨y, hy⟩ := Option.isSome_iff_exists.mp hcredit
  unfold sendMirror
  dsimp only
  rw [hlink, hfree]
  dsimp only [Option.getD_some]
  rw [hturn]
  simp only [Bool.not_false, whenS_true]
  rw [sendOn_times (p := { p with tag := 0#32 }) hp hflags hlen rfl ?_ hidle hy]
  · simp [modFab, modInteg]
  · exact hlinked

/-! ### A mirrored line that is poisoned where every tag is in use (R155) -/

theorem mirrorPoison_of_mirrored {l : Nat} {s : State} (hmirrored : mirrored s l = true) :
    mirrorPoison l s = holdLine l .mirror (sendMirror (groupOfLine l) .metadata [l] (mirrorMetaPkt s l false) [] .ok none s) := by
  refine if_pos ?_
  simpa only [mirrored, Bool.and_eq_true, and_comm, and_assoc, and_left_comm] using hmirrored

theorem poisonLine_of_channelUp {l : Nat} {s : State} (hup : channelUp s l = true) (reason : Nat) :
    poisonLine l reason s = mirrorPoison l (putLine l { getLine s l with poison := true, reason := reason } s) := by
  rw [poisonLine, hup, whenS_true, setPoison, hup, whenS_true]

end Sys2Proof.Machine

namespace Sys2Proof.Safety

open Sys2Proof.Machine

/-- INTEG_POISON poisons its line where the line is open to it and can be written. -/
theorem integPoison_settles {w : Writer} {v : Word} {s : State} {l : Nat} (hlive : writerLive s w = true) (hl : bits v.toNat 6 36 = l)
    (hmay : mayLine s w l = true) (hstore : l * 64 < storeEnd) (hopen : LineOpen s (linePkt s 0x31 l [1, 5]) l) (hawake : sleeperOf s [l] = none)
    (hfenced : fenced s l = false) (hup : channelUp s l = true) (hkey : keyMissing s l = false) :
    Settles (.integPoison w v) s (poisonLine l 5 (counted (counted s))) := by
  have hlines : reqLines (linePkt s 0x31 l [1, 5]) = [l] := congrArg (fun n => [n]) hopen.line
  obtain ⟨q, hserve, horigin, hpkt⟩ := mirrorServe_of_open (r := linePkt s 0x31 l [1, 5]) rfl rfl rfl hlines hopen hawake
  have hturn : mirrorTurn q (counted (counted s)) = poisonLine l 5 (counted (counted s)) := by
    have hroustabout : q.origin = .roustabout := horigin
    have hline : lineNo (offOf q.pkt.addr.toNat) = l := by rw [hpkt]; exact hopen.line
    have hreason : leAt q.pkt.body 1 1 = 5 := by rw [hpkt]; rfl
    have htype : q.pkt.ptype = 0x31 := congrArg Packet.ptype hpkt
    have hfenced' : fenced (counted (counted s)) l = false := hfenced
    have hup' : channelUp (counted (counted s)) l = true := hup
    have hkey' : keyMissing (counted (counted s)) l = false := hkey
    simp [mirrorTurn, softPoison, hroustabout, htype, hline, hreason, hfenced', hup', hkey']
  have hwrite : integPoison w v.toNat s = wrote (poisonLine l 5 (counted (counted s))) := by
    rw [integPoison, hl]
    simp only [hmay, Nat.not_le.mpr hstore, hserve, hturn, Bool.not_true, Bool.false_eq_true, if_false]
  exact regCmd_eq_of_writeBlock hlive (waitsFor_eq_none_of_unowned s _ (by decide)) 
    ((writeBlock_integ (o := 0x28) w _ s rfl (by decide) rfl).trans hwrite)

end Sys2Proof.Safety
end


section
/-! O40. A state in which INTEG_POISON sends an older mirror packet's timers anew. -/

set_option Elab.async false

namespace Sys2Proof.Safety

open Sys2Proof.Machine

/-- A mirror packet of no line that left in cycle 3 under tag 0 and awaits its answer. -/
def olderOp : MirrorOp :=
  { tag := 0, link := 0, group := 0, kind := .metadata, lines := [], sentAt := 3, reqs := [], status := .ok, cmd := none, pkt := {}, again := none, found := 0,
    sent := true }

/-- The tags below a number, held (R232). -/
@[irreducible] def heldTags (n : Nat) : List TagHold := (List.range n).map fun t => { tag := t, until_ := 0 }

theorem mem_heldTags {n t : Nat} (ht : t < n) : t ∈ (heldTags n).map TagHold.tag := by
  unfold heldTags
  exact List.mem_map.mpr ⟨{ tag := t, until_ := 0 }, List.mem_map.mpr ⟨t, List.mem_range.mpr ht, rfl⟩, rfl⟩

/-- The link to node 6, with all its credit. -/
def readyLink : Link :=
  { st := .active, active := 0xFF, peerNode := 6, credits := [(64, 64), (64, 64), (64, 64), (64, 64), (64, 64)] }

/-- Cycle 7 of a device that mirrors group 0 at node 6, with the older packet awaited and every tag held. -/
def crowded : State :=
  { State.reset with
    now := 7
    mem := { attrs := [(0, { mirror := true })], channels := [(0, { trained := true, up := 0xFFFFFFFF })] }
    integ := { mirrors := [(0, { state := .inStep, node := 6, group := 3 })], ops := [olderOp] }
    fab := { links := [(0, readyLink)], tagHolds := heldTags (2 ^ 20) } }

/-- The crowded state with POISON of line 1 set, before the mirror packet of the change (R155). -/
def crowdedMarked : State := putLine 1 { getLine (counted (counted crowded)) 1 with poison := true, reason := 5 } (counted (counted crowded))

/-- The crowded state once line 1 is poisoned, before it settles. -/
def crowdedPoisoned : State := poisonLine 1 5 (counted (counted crowded))

theorem crowded_open : LineOpen crowded (linePkt crowded 0x31 1 [1, 5]) 1 :=
  ⟨by decide +kernel, fun _ hy => absurd hy List.not_mem_nil, by decide +kernel, by decide +kernel⟩

theorem crowded_settles : Settles (.integPoison .ringmaster 0x40) crowded crowdedPoisoned :=
  integPoison_settles rfl (by decide) (by decide +kernel) (by decide) crowded_open (by decide +kernel) (by decide +kernel) (by decide +kernel) (by decide +kernel)

theorem mirrorTimes_holdLine (l : Nat) (k : Hold) (s : State) : mirrorTimes (holdLine l k s) = mirrorTimes s := rfl

theorem freshTag_crowdedMarked : freshTag crowdedMarked = 0 :=
  freshTag_eq_zero fun _ ht => List.mem_append_left _ (List.mem_append_right _ (mem_heldTags ht))

theorem mirrorTimes_crowdedPoisoned : mirrorTimes crowdedPoisoned = [7, 7] := by
  have hsend : crowdedPoisoned = holdLine 1 .mirror (sendMirror 0 .metadata [1] (mirrorMetaPkt crowdedMarked 1 false) [] .ok none crowdedMarked) :=
    (poisonLine_of_channelUp (by decide +kernel) 5).trans (mirrorPoison_of_mirrored (by decide +kernel))
  rw [hsend, mirrorTimes_holdLine]
  refine (sendMirror_times (l := 0) (x := readyLink) (by decide +kernel) rfl rfl freshTag_crowdedMarked (by decide +kernel) (by decide +kernel)
    (by decide +kernel) rfl (by decide +kernel)).trans ?_
  decide +kernel

theorem settle_crowdedPoisoned : settle crowdedPoisoned = modUcie (fun x => { x with fences := [] }) (restartClocks crowdedPoisoned) :=
  settle_of_idle (poisonLine_keeps (·.mem.parked)) (poisonLine_keeps (·.home.txns)) (poisonLine_keeps (·.ucie.fences)) (poisonLine_keeps State.parts)
    fun k _ => poisonLine_keeps fun s => (getSite s k).held

theorem not_windowed_crowdedPoisoned : ¬ Windowed crowdedPoisoned := by
  have hrig : crowdedPoisoned.rig = {} := poisonLine_keeps State.rig
  rintro ⟨e, p, k, a, n, hwin⟩
  simp [mapsAt, mapsOf, hrig, findWin] at hwin

theorem not_firstSent_crowdedPoisoned : ¬ FirstSent 3 crowdedPoisoned := by
  rintro ((hwin | hmany) | ⟨y, hy⟩)
  · exact not_windowed_crowdedPoisoned hwin
  · rw [mirrorTimes_crowdedPoisoned] at hmany
    exact absurd hmany (by decide)
  · rw [mirrorTimes_crowdedPoisoned] at hy
    exact absurd hy (by simp)

theorem firstSent_modUcie_iff {x : Nat} {s : State} (f : Ucie → Ucie) : FirstSent x (modUcie f s) ↔ FirstSent x s := Iff.rfl

theorem firstSent_restartClocks_iff {x : Nat} {s : State} : FirstSent x (restartClocks s) ↔ FirstSent x s :=
  have hrig : (restartClocks s).rig = s.rig := restartClocks_keeps State.rig
  have htimes : mirrorTimes (restartClocks s) = mirrorTimes s := restartClocks_keeps mirrorTimes
  ⟨fun h => h.of_eq hrig.symm htimes.symm, fun h => h.of_eq hrig htimes⟩

theorem not_firstSent_settle_crowdedPoisoned : ¬ FirstSent 3 (settle crowdedPoisoned) := by
  rw [settle_crowdedPoisoned, firstSent_modUcie_iff, firstSent_restartClocks_iff]
  exact not_firstSent_crowdedPoisoned

end Sys2Proof.Safety
end


section
/-! SUPPORT. A settling keeps when the older of two mirror packets was sent: only a mirror packet's own leaving sets its time, and one that a settling sends is a
third (R159). One lemma for each operation that a settling can come to, in the order of the model. -/

set_option Elab.async false

namespace Sys2Proof.Machine

variable {x : Nat} {s : State}

/-! ### Sites, the store and the commands -/

theorem firstSent_charge (p epoch e amount time : Nat) (h : FirstSent x s) : FirstSent x (charge p epoch e amount time s) := by
  grind [charge, firstSent_modBank]

theorem firstSent_chargeReq (r : Req) (e amount : Nat) (h : FirstSent x s) : FirstSent x (chargeReq r e amount s) :=
  firstSent_charge _ _ _ _ _ h

theorem firstSent_leaveSite (k : Nat) (p : Packet) (h : FirstSent x s) : FirstSent x (leaveSite k p s) := h

theorem firstSent_toSite (k : Nat) (p : Packet) (h : FirstSent x s) : FirstSent x (toSite k p s) := by
  grind [toSite, firstSent_modSite, firstSent_leaveSite]

theorem firstSent_siteCredit (k : Nat) (h : FirstSent x s) : FirstSent x (siteCredit k s) :=
  firstSent_toSite _ _ (firstSent_modSite _ _ h)

theorem firstSent_oweSite (k t n : Nat) (h : FirstSent x s) : FirstSent x (oweSite k t n s) :=
  firstSent_whenS _ _ h fun _ => firstSent_siteCredit _ (firstSent_modSite _ _ h)

theorem firstSent_rewriteBlock (l : Nat) (h : FirstSent x s) : FirstSent x (rewriteBlock l s) := by
  grind [rewriteBlock, firstSent_eachS, firstSent_putLine, firstSent_modStack]

theorem firstSent_plainBlock (l : Nat) (h : FirstSent x s) : FirstSent x (plainBlock l s) := by
  grind [plainBlock, firstSent_eachS, firstSent_putLine]

theorem firstSent_storeLine (l : Nat) (d : LineData) (h : FirstSent x s) : FirstSent x (storeLine l d s) := by
  grind [storeLine, firstSent_plainBlock, firstSent_rewriteBlock, firstSent_putLine]

theorem firstSent_storeBurst (l : Nat) (ds : List LineData) (h : FirstSent x s) : FirstSent x (storeBurst l ds s) := by
  grind [storeBurst, firstSent_eachS, firstSent_putLine, firstSent_rewriteBlock, whenS]

theorem firstSent_setPoison (l reason : Nat) (h : FirstSent x s) : FirstSent x (setPoison l reason s) :=
  firstSent_whenS _ _ h fun _ => firstSent_putLine _ _ h

theorem firstSent_acceptFull (l : Nat) (d : LineData) (h : FirstSent x s) : FirstSent x (acceptFull l d s).2 := by
  grind [acceptFull, firstSent_storeLine]

theorem firstSent_acceptFull_eq {t : State} {cc} {l : Nat} {d : LineData} (h : FirstSent x s) (eqn : acceptFull l d s = (cc, t)) : FirstSent x t := by
  grind [firstSent_acceptFull]

theorem firstSent_mirrorPoison (l : Nat) (h : FirstSent x s) : FirstSent x (mirrorPoison l s) := by
  grind [mirrorPoison, firstSent_holdLine, firstSent_sendMirror]

theorem firstSent_poisonLine (l reason : Nat) (h : FirstSent x s) : FirstSent x (poisonLine l reason s) :=
  firstSent_whenS _ _ h fun _ => firstSent_mirrorPoison _ (firstSent_setPoison _ _ h)

theorem firstSent_emptyBoothBuf (b : Nat) (h : FirstSent x s) : FirstSent x (emptyBoothBuf b s) := h

theorem firstSent_emptySiteBuf (k : Nat) (h : FirstSent x s) : FirstSent x (emptySiteBuf k s) := h

theorem firstSent_pushCompl (q : Nat) (c : Compl) (h : FirstSent x s) : FirstSent x (pushCompl q c s) := by
  grind [pushCompl, firstSent_modQp]

theorem firstSent_modCmd (q n : Nat) (f : Cmd → Cmd) (h : FirstSent x s) : FirstSent x (modCmd q n f s) := h

theorem firstSent_releaseCmd (c : Cmd) (h : FirstSent x s) : FirstSent x (releaseCmd c s) := h

theorem firstSent_endCmd (c : Cmd) (d : Done) (h : FirstSent x s) : FirstSent x (endCmd c d s) := by
  have h1 := firstSent_releaseCmd c h
  unfold endCmd
  extract_lets s1 s2 op s3 s4
  have h4 : FirstSent x s4 := by
    unfold s4
    split
    · exact firstSent_charge _ _ _ _ _ h1
    · exact h1
  exact firstSent_charge _ _ _ _ _ (firstSent_pushCompl _ _ h4)

theorem firstSent_endWait (c : Cmd) (h : FirstSent x s) : FirstSent x (endWait c s) :=
  firstSent_endCmd _ _ (firstSent_emptyBoothBuf _ h)

theorem firstSent_waitDone (w : CtrWait) (h : FirstSent x s) : FirstSent x (waitDone w s) := by
  grind [waitDone, firstSent_endWait, firstSent_toSite, firstSent_emptySiteBuf]

theorem firstSent_settleWaits (fuel : Nat) (h : FirstSent x s) : FirstSent x (settleWaits fuel s) := by
  induction fuel generalizing s with
  | zero => exact h
  | succ n ih => grind [settleWaits, firstSent_modOrder, firstSent_setCtr, firstSent_waitDone, whenS]

theorem firstSent_settleDue (h : FirstSent x s) : FirstSent x (settleDue s) := h

theorem firstSent_settleCtr (h : FirstSent x s) : FirstSent x (settleCtr s) :=
  firstSent_settleDue (firstSent_settleWaits _ (firstSent_settleDue h))

theorem firstSent_arrive (n bytes : Nat) (h : FirstSent x s) : FirstSent x (arrive n bytes s) :=
  firstSent_settleCtr (firstSent_setCtr _ _ h)

theorem firstSent_logEntry (e : LogEntry) (h : FirstSent x s) : FirstSent x (logEntry e s) := h

theorem firstSent_numbered (r : Req) (go : Req → State → State) (hgo : ∀ (q : Req) {u : State}, FirstSent x u → FirstSent x (go q u)) (h : FirstSent x s) :
    FirstSent x (numbered r go s) := by
  grind [numbered, firstSent_modMem]

theorem firstSent_park (r : Req) (w : Wait) (h : FirstSent x s) : FirstSent x (park r w s) :=
  firstSent_numbered _ _ (fun _ _ hu => hu) h

theorem firstSent_admitTo (goal : Wait) (r : Req) (go : Req → State → State) (hgo : ∀ (q : Req) {u : State}, FirstSent x u → FirstSent x (go q u))
    (h : FirstSent x s) : FirstSent x (admitTo goal r go s) := by
  grind [admitTo, firstSent_park, firstSent_modMem]

/-! ### Records and wakings -/

theorem firstSent_forwardHead (h : FirstSent x s) : FirstSent x (forwardHead s) := by
  grind [forwardHead, firstSent_emit]

theorem firstSent_toMgmt (r : Rec) (h : FirstSent x s) : FirstSent x (toMgmt r s) :=
  firstSent_whenS _ _ h fun _ => firstSent_forwardHead (firstSent_modBarker _ h)

theorem firstSent_ringDone (p : Nat) (good : Bool) (h : FirstSent x s) : FirstSent x (ringDone p good s) := by
  grind [ringDone, firstSent_modPart, firstSent_eachS, firstSent_toMgmt]

theorem firstSent_pumpRing (fuel : Nat) (p : Nat) (h : FirstSent x s) : FirstSent x (pumpRing fuel p s) := by
  induction fuel generalizing s with
  | zero => exact h
  | succ n ih => grind [pumpRing, firstSent_modPart, firstSent_ringDone, firstSent_park, firstSent_acceptFull_eq, firstSent_holdLine, firstSent_sendMirror,
    firstSent_arrive, whenS]

theorem firstSent_toRing (p : Nat) (r : Rec) (h : FirstSent x s) : FirstSent x (toRing p r s) :=
  firstSent_pumpRing _ _ (firstSent_modPart _ _ h)

theorem firstSent_deliver (r : Rec) (h : FirstSent x s) : FirstSent x (deliver r s) := by
  grind [deliver, firstSent_eachS, firstSent_toRing, firstSent_toMgmt, whenS]

theorem firstSent_post (r : Rec) (h : FirstSent x s) : FirstSent x (post r s) := by
  grind [post, firstSent_deliver, firstSent_modBarker]

theorem firstSent_strike (f : Upset → Bool) (h : FirstSent x s) : FirstSent x (strike f s).2 := by
  unfold strike
  split <;> exact h

theorem firstSent_strike_eq {t : State} {cc} {f : Upset → Bool} (h : FirstSent x s) (eqn : strike f s = (cc, t)) : FirstSent x t := by
  grind [firstSent_strike]

theorem firstSent_doubleCheck (part node n l : Nat) (h : FirstSent x s) : FirstSent x (doubleCheck part node n l s).2 := by
  grind [doubleCheck, firstSent_strike, firstSent_modStack, firstSent_post]

theorem firstSent_acceptMerge (part node n l : Nat) (image : LineData) (good : Status) (h : FirstSent x s) : FirstSent x
    (acceptMerge part node n l image good s).2 := by
  grind [acceptMerge, firstSent_doubleCheck, firstSent_modStack, firstSent_storeLine]

theorem firstSent_acceptMerge_eq {t : State} {cc} {part node n l : Nat} {image : LineData} {good : Status} (h : FirstSent x s)
    (eqn : acceptMerge part node n l image good s = (cc, t)) : FirstSent x t := by
  grind [firstSent_acceptMerge]

theorem firstSent_setPartSt (p : Nat) (st : PartSt) (h : FirstSent x s) : FirstSent x (setPartSt p st s) := by
  grind [setPartSt, firstSent_modPart, firstSent_post]

theorem firstSent_startExit (w : Wake) (h : FirstSent x s) : FirstSent x (startExit w s) := by
  grind [startExit, firstSent_modPart, firstSent_setPartSt, firstSent_modPower]

theorem firstSent_admitQueue (fuel : Nat) (h : FirstSent x s) : FirstSent x (admitQueue fuel s) := by
  induction fuel generalizing s with
  | zero => exact h
  | succ n ih => grind [admitQueue, firstSent_modPower, firstSent_startExit]

theorem firstSent_beginSlot (h : FirstSent x s) : FirstSent x (beginSlot s) := by
  grind [beginSlot, firstSent_modPower]

theorem firstSent_admitWakes (h : FirstSent x s) : FirstSent x (admitWakes s) :=
  firstSent_admitQueue _ (firstSent_beginSlot h)

theorem firstSent_queueWake (w : Wake) (h : FirstSent x s) : FirstSent x (queueWake w s) := by
  grind [queueWake, firstSent_admitWakes, firstSent_modPower]

theorem firstSent_wakePart (p time : Nat) (h : FirstSent x s) : FirstSent x (wakePart p time s) := by
  grind [wakePart, firstSent_queueWake, firstSent_modPart]

/-! ### Answers -/

theorem firstSent_checkFailed (r : Req) (order : Nat) (c : Status) (h : FirstSent x s) : FirstSent x (checkFailed r order c s) := by
  grind [checkFailed, firstSent_post, firstSent_chargeReq, whenS]

theorem firstSent_keyMissingOf (loc qp node l : Nat) (h : FirstSent x s) : FirstSent x (keyMissingOf loc qp node l s) :=
  firstSent_post _ h

theorem firstSent_postKeyMissing (r : Req) (l : Nat) (h : FirstSent x s) : FirstSent x (postKeyMissing r l s) :=
  firstSent_keyMissingOf _ _ _ _ h

theorem firstSent_postLine (l outcome : Nat) (c : Status) (h : FirstSent x s) : FirstSent x (postLine l outcome c s) :=
  firstSent_post _ h

theorem firstSent_fillSiteBuf (k : Nat) (addr : Word) (ds : List LineData) (h : FirstSent x s) : FirstSent x (fillSiteBuf k addr ds s) := by
  cases ds
  · exact h
  · exact firstSent_whenS _ _ h fun _ => h

theorem firstSent_sendAnswer (l : Nat) (r : Req) (p : Packet) (hp : notMirror p.ptype) (h : FirstSent x s) : FirstSent x (sendAnswer l r p s) := by
  grind [sendAnswer, firstSent_sendOn, firstSent_chargeReq]

theorem firstSent_toAsker (r : Req) (k : Nat) (p : Packet) (h : FirstSent x s) : FirstSent x (toAsker r k p s) :=
  firstSent_whenS _ _ h fun _ => firstSent_toSite _ _ h

theorem firstSent_fillBoothBuf (b addr : Nat) (d : LineData) (h : FirstSent x s) : FirstSent x (fillBoothBuf b addr d s) :=
  firstSent_whenS _ _ h fun _ => firstSent_modOrder _ h

theorem firstSent_countRows (q n : Nat) (h : FirstSent x s) : FirstSent x (countRows q n s) := by
  grind [countRows, firstSent_modBooth, firstSent_modCmd]

theorem firstSent_shareLine (c : Cmd) (list va : Nat) (d : LineData) (h : FirstSent x s) : FirstSent x (shareLine c list va d s) := h

theorem firstSent_boothAnswer (q n id : Nat) (a : Answer) (h : FirstSent x s) : FirstSent x (boothAnswer q n id a s) := by
  unfold boothAnswer
  split
  · exact h
  · extract_lets s1
    have h1 : FirstSent x s1 := by
      unfold s1
      split
      · split
        · extract_lets s2
          have h2 : FirstSent x s2 := firstSent_whenS _ _ h fun _ => firstSent_fillBoothBuf _ _ _ h
          split
          · exact firstSent_whenS _ _ h2 fun _ => firstSent_shareLine _ _ _ _ h2
          · exact h2
        · exact h
      · exact h
    exact firstSent_countRows _ _ (firstSent_modCmd _ _ _ h1)

theorem linkAnswer_notMirror (s : State) (r : Req) (nb refused : Bool) (a : Answer) : notMirror (linkAnswer s r nb refused a).ptype := by
  unfold linkAnswer
  grind

theorem firstSent_recordReplay (r : Req) (results : List (BitVec 128)) (a : Answer) (h : FirstSent x s) : FirstSent x (recordReplay r results a s) := by
  refine firstSent_eachS _ _ h fun e u hu => firstSent_eachS _ _ hu fun w v hv => ?_
  split
  · exact firstSent_sendAnswer _ _ _ (linkAnswer_notMirror _ _ _ _ _) hv
  · exact hv

theorem firstSent_finish (r : Req) (a : Answer) (h : FirstSent x s) : FirstSent x (finish r a s) := by
  grind [finish, linkAnswer_notMirror, whenS, firstSent_chargeReq, firstSent_fillSiteBuf, firstSent_toAsker, firstSent_recordReplay, firstSent_sendAnswer,
    firstSent_boothAnswer, firstSent_ringDone, firstSent_pumpRing]

theorem firstSent_refuse (r : Req) (c : Status) (h : FirstSent x s) : FirstSent x (refuse r c s) := by
  grind [refuse, linkAnswer_notMirror, firstSent_sendAnswer, firstSent_toAsker, firstSent_boothAnswer]

theorem firstSent_writeDone (r : Req) (c : Status) (h : FirstSent x s) : FirstSent x (writeDone r c s) := by
  grind [writeDone, firstSent_chargeReq, firstSent_arrive, firstSent_finish, whenS]

/-! ### Reads and writes at the Carousel -/

theorem firstSent_askPartner (l : Nat) (kind : MirrorKind) (reqs : List Req) (cmd : Option (Nat × Nat × Nat)) (h : FirstSent x s) : FirstSent x
    (askPartner l kind reqs cmd s) :=
  firstSent_sendMirror _ _ _ _ _ _ _ h

theorem firstSent_settlePoisoned (l : Nat) (found : BitVec 32) (h : FirstSent x s) : FirstSent x (settlePoisoned l found s) :=
  firstSent_postLine _ _ _ (firstSent_logEntry _ (firstSent_poisonLine _ _ h))

theorem firstSent_noteFound (l : Nat) (found : BitVec 32) (h : FirstSent x s) : FirstSent x (noteFound l found s) := by
  refine h.of_eq rfl ?_
  simp only [noteFound, mirrorTimes, modInteg, List.map_map]
  refine List.map_congr_left fun o _ => ?_
  dsimp only [Function.comp]
  split <;> rfl

theorem firstSent_settleLasting (l : Nat) (found : BitVec 32) (h : FirstSent x s) : FirstSent x (settleLasting l found s) := by
  grind [settleLasting, firstSent_modInteg, firstSent_holdLine, firstSent_noteFound, firstSent_askPartner, firstSent_settlePoisoned]

theorem firstSent_lineTransient (l : Nat) (found : BitVec 32) (h : FirstSent x s) : FirstSent x (lineTransient l found s) := h

theorem firstSent_settleRead (ls : List Nat) (fix : Bool) (lasting : Nat → BitVec 32 → State → State)
    (hlasting : ∀ (l : Nat) (found : BitVec 32) {u : State}, FirstSent x u → FirstSent x (lasting l found u)) (h : FirstSent x s) : FirstSent x
      (settleRead ls fix lasting s) := by
  unfold settleRead
  extract_lets found s1 bad good s2
  have h1 : FirstSent x s1 := h
  have h2 : FirstSent x s2 := by grind [firstSent_plainBlock]
  exact firstSent_eachS _ _ h2 fun e u hu => by grind [firstSent_lineTransient]

theorem firstSent_settleBad (l : Nat) (h : FirstSent x s) : FirstSent x (settleBad l s) := by
  grind [settleBad, firstSent_settleRead, firstSent_settleLasting]

theorem firstSent_lastingLeft (l : Nat) (found : BitVec 32) (h : FirstSent x s) : FirstSent x (lastingLeft l found s) :=
  firstSent_postLine _ _ _ (firstSent_logEntry _ h)

theorem firstSent_settleOthers (l : Nat) (h : FirstSent x s) : FirstSent x (settleOthers l s) := by
  refine firstSent_whenS _ _ h fun _ => firstSent_settleRead _ _ _ (fun n found u hu => ?_) h
  split
  · exact firstSent_lastingLeft _ _ hu
  · exact firstSent_settleLasting _ _ hu

theorem firstSent_handPass (r : Req) (h : FirstSent x s) : FirstSent x (handPass r s).2 := by
  grind [handPass, firstSent_strike_eq, firstSent_modInteg, firstSent_post, firstSent_logEntry]

theorem firstSent_handPass_eq {t : State} {cc} {r : Req} (h : FirstSent x s) (eqn : handPass r s = (cc, t)) : FirstSent x t := by
  grind [firstSent_handPass]

theorem firstSent_handOver (go : Req → State → State) (r : Req) (hgo : ∀ (q : Req) {u : State}, FirstSent x u → FirstSent x (go q u)) (h : FirstSent x s) :
    FirstSent x (handOver go r s) := by
  grind [handOver, firstSent_handPass, firstSent_finish]

theorem firstSent_noteKey (r : Req) (ls : List Nat) (c : Status) (h : FirstSent x s) : FirstSent x (noteKey r ls c s) := by
  grind [noteKey, firstSent_postKeyMissing, whenS]

theorem firstSent_entryStatuses (r : Req) (cs : List Status) (h : FirstSent x s) : FirstSent x (entryStatuses r cs s) := by
  grind [entryStatuses, firstSent_modCmd]

theorem firstSent_serveRead (fuel : Nat) (r : Req) (h : FirstSent x s) : FirstSent x (serveRead fuel r s) := by
  induction fuel generalizing r s with
  | zero => exact h
  | succ n ih => grind [serveRead, firstSent_settleBad, firstSent_park, firstSent_askPartner, firstSent_noteKey, firstSent_entryStatuses, firstSent_finish]

theorem firstSent_mirrorWrite (rs : List Req) (c : Status) (l : Nat) (h : FirstSent x s) : FirstSent x (mirrorWrite rs c l s) :=
  firstSent_holdLine _ _ (firstSent_sendMirror _ _ _ _ _ _ _ h)

theorem firstSent_eachS_writeDone (rs : List Req) (c : Status) (h : FirstSent x s) : FirstSent x (eachS rs (fun r s => writeDone r c s) s) :=
  firstSent_eachS _ _ h fun _ _ hu => firstSent_writeDone _ _ hu

theorem firstSent_afterAccept (rs : List Req) (c : Status) (ls : List Nat) (h : FirstSent x s) : FirstSent x (afterAccept rs c ls s) := by
  grind [afterAccept, firstSent_eachS, firstSent_mirrorWrite, firstSent_writeDone]

theorem firstSent_serveFull (r : Req) (h : FirstSent x s) : FirstSent x (serveFull r s) := by
  grind [serveFull, firstSent_writeDone, firstSent_noteKey, firstSent_storeLine, firstSent_settleOthers, firstSent_eachS, firstSent_storeBurst,
    firstSent_afterAccept]

theorem firstSent_parkLine (r : Req) (h : FirstSent x s) : FirstSent x (parkLine r s) := by
  grind [parkLine, firstSent_park, firstSent_modStack]

theorem firstSent_mergeDone (c : Status) (r : Req) (h : FirstSent x s) : FirstSent x (mergeDone c r s) := by
  grind [mergeDone, firstSent_finish, firstSent_chargeReq, firstSent_writeDone]

theorem firstSent_mergeInto (rs : List Req) (l : Nat) (base : LineData) (c : Status) (h : FirstSent x s) : FirstSent x (mergeInto rs l base c s) := by
  grind [mergeInto, firstSent_eachS, firstSent_mergeDone, firstSent_acceptMerge, firstSent_settleOthers, firstSent_mirrorWrite]

theorem firstSent_serveNarrow (fuel : Nat) (r : Req) (h : FirstSent x s) : FirstSent x (serveNarrow fuel r s) := by
  induction fuel generalizing r s with
  | zero => exact h
  | succ n ih =>
    unfold serveNarrow
    extract_lets l c all leave
    split
    · exact firstSent_eachS _ _ h fun _ _ hu => firstSent_writeDone _ _ (firstSent_noteKey _ _ _ hu)
    split
    · exact firstSent_park _ _ h
    split
    · have h1 := firstSent_settleBad l h
      split
      · exact firstSent_park _ _ h1
      · exact ih _ h1
    · exact firstSent_eachS_writeDone _ _ h
    · split
      · exact firstSent_eachS_writeDone _ _ h
      · exact firstSent_mergeInto _ _ _ _ h

theorem firstSent_serveCommit (fuel : Nat) (r : Req) (h : FirstSent x s) : FirstSent x (serveCommit fuel r s) := by
  induction fuel generalizing r s with
  | zero => exact h
  | succ n ih => grind [serveCommit, firstSent_writeDone, firstSent_noteKey, firstSent_finish, firstSent_settleBad, firstSent_park, firstSent_acceptFull,
    firstSent_settleOthers, firstSent_afterAccept]

theorem firstSent_perform (r : Req) (h : FirstSent x s) : FirstSent x (perform r s) := by
  grind [perform, firstSent_serveRead, firstSent_serveNarrow, firstSent_serveCommit, firstSent_serveFull]

/-! ### The home -/

theorem firstSent_writeDir (l : Nat) (d : BitVec 12) (h : FirstSent x s) : FirstSent x (writeDir l d s) :=
  firstSent_whenS _ _ h fun _ => firstSent_putLine _ _ h

theorem firstSent_setDir (l : Nat) (d : Dir) (h : FirstSent x s) : FirstSent x (setDir l d s) := by
  grind [setDir, firstSent_modHome, firstSent_writeDir, whenS]

theorem firstSent_allocEnt (l : Nat) (h : FirstSent x s) : FirstSent x (allocEnt l s) := by
  grind [allocEnt, firstSent_modHome, firstSent_writeDir]

theorem firstSent_pinEnt (l : Nat) (b : Bool) (h : FirstSent x s) : FirstSent x (pinEnt l b s) := h

theorem firstSent_toAgent (a : Nat) (p : Packet) (hp : p.ptype.toNat < 0x30) (h : FirstSent x s) : FirstSent x (toAgent a p s) := by
  grind [toAgent, firstSent_toSite, firstSent_sendOn]

theorem firstSent_toRequester (r : Req) (p : Packet) (hp : p.ptype.toNat < 0x30) (h : FirstSent x s) : FirstSent x (toRequester r p s) := by
  grind [toRequester, firstSent_toAsker, firstSent_sendOn]

theorem ptype_ofNat_lt {t : Nat} (ht : t < 0x30) : (BitVec.ofNat 8 t).toNat < 0x30 := by
  rw [BitVec.toNat_ofNat]
  omega

theorem firstSent_cohError (r : Req) (c : Status) (h : FirstSent x s) : FirstSent x (cohError r c s) :=
  firstSent_toRequester _ _ (ptype_ofNat_lt (by decide)) h

theorem firstSent_modTxn (l : Nat) (f : Txn → Txn) (h : FirstSent x s) : FirstSent x (modTxn l f s) := h

theorem firstSent_sendProbes (t : Nat) (addr : Word) (req : Option Nat) (tag : BitVec 32) (masked : Nat) (ps : List Probe) (ht : t < 0x30)
    (h : FirstSent x s) : FirstSent x (sendProbes t addr req tag masked ps s) :=
  firstSent_eachS _ _ h fun _ _ hu => firstSent_toAgent _ _ (ptype_ofNat_lt ht) hu

theorem firstSent_openTxn (l : Nat) (coh : Coh) (agent : Option Nat) (r : Req) (probe : Nat) (agents : List Nat) (after : Dir) (owner : Option Nat)
    (ht : probe < 0x30) (h : FirstSent x s) : FirstSent x (openTxn l coh agent r probe agents after owner s) := by
  grind [openTxn, firstSent_modHome, firstSent_pinEnt, firstSent_writeDir, firstSent_sendProbes, whenS]

theorem firstSent_recordWaiter (l : Nat) (w : Waiter) (h : FirstSent x s) : FirstSent x (recordWaiter l w s) := h

theorem firstSent_noteResend (r : Req) (h : FirstSent x s) : FirstSent x (noteResend r s) := h

theorem firstSent_asRetry (go : Req → State → State) (r : Req) (hgo : ∀ (q : Req) {u : State}, FirstSent x u → FirstSent x (go q u)) (h : FirstSent x s) :
    FirstSent x (asRetry go r s) := by
  grind [asRetry, firstSent_modHome]

theorem firstSent_meetRetry (l : Nat) (r : Req) (h : FirstSent x s) : FirstSent x (meetRetry l r s) := by
  unfold meetRetry
  extract_lets s1 s2 t
  have h2 : FirstSent x s2 := firstSent_recordWaiter _ _ h
  split
  · exact firstSent_toRequester _ _ (ptype_ofNat_lt (by decide)) (firstSent_noteResend _ h2)
  · split
    · exact firstSent_toAsker _ _ _ (firstSent_noteResend _ h2)
    · exact firstSent_park _ _ h2

theorem firstSent_passReserve (l : Nat) (w : Waiter) (h : FirstSent x s) : FirstSent x (passReserve l w s) := h

theorem firstSent_closeTxn (l : Nat) (h : FirstSent x s) : FirstSent x (closeTxn l s) := by
  unfold closeTxn
  split
  · exact h
  · extract_lets s1 s2 s3
    have h3 : FirstSent x s3 := firstSent_setDir _ _ (firstSent_pinEnt _ _ h)
    split
    · exact h3
    · exact h3

theorem firstSent_ownerLost (l : Nat) (h : FirstSent x s) : FirstSent x (ownerLost l s) :=
  firstSent_setDir _ _ (firstSent_poisonLine _ _ (firstSent_modHome _ h))

theorem firstSent_ownerCheck (l : Nat) (h : FirstSent x s) : FirstSent x (ownerCheck l s) := by
  grind [ownerCheck, firstSent_ownerLost, whenS]

theorem firstSent_hotStore (l : Nat) (r : Req) (h : FirstSent x s) : FirstSent x (hotStore l r s) := by
  grind [hotStore, firstSent_writeDone, firstSent_noteKey, firstSent_modHome]

theorem firstSent_hotMerge (fuel : Nat) (l : Nat) (h : FirstSent x s) : FirstSent x (hotMerge fuel l s) := by
  induction fuel generalizing l s with
  | zero => exact h
  | succ n ih =>
    unfold hotMerge
    split
    · exact h
    split
    · exact h
    extract_lets r clear leave
    split
    · exact firstSent_eachS_writeDone _ _ h
    split
    next u hfail =>
      have hpass := firstSent_handPass_eq h hfail
      exact firstSent_eachS_writeDone _ _ (firstSent_modHome _ hpass)
    have hpass := firstSent_handPass_eq h ‹_›
    split
    · exact ih _ (firstSent_settleBad _ hpass)
    · exact firstSent_eachS_writeDone _ _ hpass
    split
    · exact firstSent_eachS_writeDone _ _ (firstSent_whenS _ _ hpass fun _ => firstSent_postKeyMissing _ _ hpass)
    split
    have hmerge := firstSent_acceptMerge_eq (firstSent_settleOthers _ hpass) ‹_›
    split
    · exact firstSent_mirrorWrite _ _ _ hmerge
    · exact firstSent_eachS_writeDone _ _ hmerge

theorem firstSent_hotFlush (l : Nat) (h : FirstSent x s) : FirstSent x (hotFlush l s) := by
  grind [hotFlush, firstSent_under, firstSent_hotMerge]

theorem firstSent_hotClose (l : Nat) (h : FirstSent x s) : FirstSent x (hotClose l s) :=
  firstSent_modHome _ (firstSent_hotFlush _ h)

theorem gateProbe_lt {u : State} {rd : Bool} {l t : Nat} {as : List Nat} {after : Dir} {own : Option Nat}
    (hprobe : gateProbe u rd l = some (t, as, after, own)) : t < 0x30 := by
  unfold gateProbe at hprobe
  split at hprobe
  · cases hprobe
  · simp only [Option.map_eq_some_iff, Prod.mk.injEq] at hprobe
    omega
  all_goals
    simp only [Option.some.injEq, Prod.mk.injEq] at hprobe
    omega

theorem firstSent_openGate (rd : Bool) (r : Req) (ls : List Nat) (h : FirstSent x s) : FirstSent x (openGate rd r ls s) := by
  refine firstSent_eachS _ _ h fun l u hu => ?_
  dsimp only
  generalize (if rd then Coh.ncRead else Coh.ncWrite) = coh
  cases hprobe : gateProbe u rd l with
  | none => exact firstSent_openTxn _ _ _ _ _ _ _ _ (by decide) hu
  | some e => exact firstSent_openTxn _ _ _ _ _ _ _ _ (gateProbe_lt hprobe) hu

theorem firstSent_comeTo (goal : Wait) (r : Req) (go : Req → State → State) (hgo : ∀ (q : Req) {u : State}, FirstSent x u → FirstSent x (go q u))
    (h : FirstSent x s) : FirstSent x (comeTo goal r go s) := by
  grind [comeTo, firstSent_park, firstSent_admitTo]

theorem firstSent_applyNow (r : Req) (h : FirstSent x s) : FirstSent x (applyNow r s) := by
  grind [applyNow, firstSent_eachS, firstSent_passReserve, firstSent_hotStore, firstSent_admitTo, firstSent_perform, firstSent_hotClose, firstSent_parkLine]

theorem firstSent_atHome (r : Req) (go : Req → State → State) (hgo : ∀ (q : Req) {u : State}, FirstSent x u → FirstSent x (go q u)) (h : FirstSent x s) :
    FirstSent x (atHome r go s) := by
  grind [atHome, firstSent_finish, firstSent_admitTo, firstSent_parkLine, firstSent_park, firstSent_wakePart]

theorem firstSent_homeTurn (r : Req) (h : FirstSent x s) : FirstSent x (homeTurn r s) := by
  unfold homeTurn
  extract_lets ls rd w s1 r1 gates s2
  have h1 : FirstSent x s1 := firstSent_eachS _ _ h fun _ _ hu => firstSent_ownerCheck _ hu
  have h2 : FirstSent x s2 := firstSent_eachS _ _ h1 fun _ _ hu => firstSent_hotClose _ hu
  split
  · exact firstSent_perform _ h1
  split
  · exact firstSent_meetRetry _ _ h1
  split
  · exact firstSent_meetRetry _ _ h1
  split
  · exact firstSent_applyNow _ h1
  split
  · exact firstSent_meetRetry _ _ h1
  split
  · exact firstSent_admitTo _ _ _ (fun _ _ hu => firstSent_park _ _ hu) h2
  · exact firstSent_openGate _ _ _ h2

theorem firstSent_directTurn (r : Req) (h : FirstSent x s) : FirstSent x (directTurn r s) := by
  grind [directTurn, firstSent_applyNow, firstSent_comeTo, firstSent_atHome, firstSent_homeTurn]

theorem firstSent_serveHome (r : Req) (h : FirstSent x s) : FirstSent x (serveHome r s) := by
  grind [serveHome, firstSent_finish, firstSent_comeTo, firstSent_atHome, firstSent_directTurn, firstSent_homeTurn]

theorem firstSent_serve (r : Req) (h : FirstSent x s) : FirstSent x (serve r s) := by
  grind [serve, firstSent_numbered, firstSent_under, firstSent_handOver, firstSent_serveHome]

/-! ### Coherence -/

theorem firstSent_cohRead (n : Nat) (r : Req) (l : Nat) (h : FirstSent x s) : FirstSent x (cohRead n r l s).2 := by
  induction n generalizing r s with
  | zero => exact h
  | succ n ih => grind [cohRead, firstSent_park, firstSent_modTxn, firstSent_settleBad, firstSent_askPartner, whenS]

theorem firstSent_cohRead_eq {t : State} {cc} {n : Nat} {r : Req} {l : Nat} (h : FirstSent x s) (eqn : cohRead n r l s = (cc, t)) :
 FirstSent x t := by
  grind [firstSent_cohRead]

theorem firstSent_grantTo (l : Nat) (after : Dir) (r : Req) (p : Packet) (hp : p.ptype.toNat < 0x30) (h : FirstSent x s) : FirstSent x
    (grantTo l after r p s) := by
  grind [grantTo, firstSent_modTxn, firstSent_toRequester, firstSent_setDir, whenS]

theorem firstSent_refuseCoherent (r : Req) (h : FirstSent x s) : FirstSent x (refuseCoherent r s) :=
  firstSent_cohError _ _ (firstSent_post _ h)

theorem firstSent_fromMemory (coh : Coh) (y t : Nat) (after : Dir) (r : Req) (ht : t < 0x30) (h : FirstSent x s) : FirstSent x
    (fromMemory coh y t after r s) := by
  refine firstSent_admitTo _ _ _ (fun q u hu => ?_) h
  split
  · exact firstSent_cohRead_eq hu ‹_›
  · have hread := firstSent_cohRead_eq hu ‹_›
    split
    · exact firstSent_cohError _ _ (firstSent_passReserve _ _ (firstSent_noteKey _ _ _ hread))
    · exact firstSent_grantTo _ _ _ _ (ptype_ofNat_lt ht) (firstSent_openTxn _ _ _ _ _ _ _ _ (by decide) hread)

theorem firstSent_cohTurn (coh : Coh) (y : Nat) (r : Req) (h : FirstSent x s) : FirstSent x (cohTurn coh y r s) := by
  unfold cohTurn
  extract_lets l w s1
  have h1 : FirstSent x s1 := firstSent_ownerCheck _ h
  split
  · exact firstSent_meetRetry _ _ h1
  rename_i s2 s3 _
  have h2 : FirstSent x s2 := firstSent_hotClose _ h1
  split
  · exact firstSent_admitTo _ _ _ (fun _ _ hu => firstSent_park _ _ hu) h2
  have h3 : FirstSent x s3 := firstSent_allocEnt _ h2
  clear_value s3
  grind [cohMsg, firstSent_fromMemory, firstSent_openTxn, firstSent_grantTo, firstSent_refuseCoherent]

theorem firstSent_cohHome (coh : Coh) (r : Req) (h : FirstSent x s) : FirstSent x (cohHome coh r s) := by
  grind [cohHome, firstSent_refuseCoherent, firstSent_cohError, firstSent_comeTo, firstSent_atHome, firstSent_cohTurn]

theorem firstSent_serveCoherent (coh : Coh) (r : Req) (h : FirstSent x s) : FirstSent x (serveCoherent coh r s) := by
  grind [serveCoherent, firstSent_numbered, firstSent_under, firstSent_handOver, firstSent_cohHome]

theorem firstSent_settleFences (h : FirstSent x s) : FirstSent x (settleFences s) :=
  firstSent_eachS _ _ h fun _ _ hu => firstSent_toSite _ _ hu

theorem firstSent_endTxns (c : Status) (mine : List Txn) (r : Req) (h : FirstSent x s) : FirstSent x (endTxns c mine r s) := by
  grind [endTxns, firstSent_eachS, firstSent_closeTxn, firstSent_cohError, firstSent_finish]

theorem firstSent_ncProceed (t : Txn) (h : FirstSent x s) : FirstSent x (ncProceed t s) := by
  grind [ncProceed, firstSent_modTxn, firstSent_endTxns, firstSent_eachS, firstSent_under, firstSent_admitTo, firstSent_perform, firstSent_closeTxn]

theorem firstSent_grantSent (l : Nat) (t : Txn) (h : FirstSent x s) : FirstSent x (grantSent l t s) := by
  grind [grantSent, firstSent_modTxn, firstSent_setDir, firstSent_closeTxn, whenS]

theorem ptype_data_lt (b : Prop) [Decidable b] : (BitVec.ofNat 8 (if b then 0x28 else 0x29)).toNat < 0x30 := by
  split <;> decide

theorem firstSent_cohProceed (l : Nat) (t : Txn) (h : FirstSent x s) : FirstSent x (cohProceed l t s) := by
  unfold cohProceed
  split
  · split
    · exact firstSent_closeTxn _ h
    · exact h
  split
  · exact firstSent_endTxns _ _ _ h
  split
  · exact firstSent_grantSent _ _ h
  split
  · exact firstSent_endTxns _ _ _ h
  split
  · exact firstSent_grantTo _ _ _ _ (ptype_data_lt _) h
  · exact firstSent_grantTo _ _ _ _ (ptype_ofNat_lt (by decide)) h
  · extract_lets q
    split
    · exact h
    rename_i s1 _
    have h1 : FirstSent x s1 := firstSent_modTxn _ _ h
    split
    · exact firstSent_cohRead_eq h1 ‹_›
    have hread := firstSent_cohRead_eq h1 ‹_›
    split
    · exact firstSent_grantTo _ _ _ _ (ptype_data_lt _) hread
    · exact firstSent_endTxns _ _ _ (firstSent_noteKey _ _ _ hread)

theorem firstSent_txnProceed (l : Nat) (data : Option LineData) (h : FirstSent x s) : FirstSent x (txnProceed l data s) := by
  unfold txnProceed
  extract_lets s1
  have h1 : FirstSent x s1 := by cases data <;> exact h
  clear_value s1
  split
  · exact h1
  split
  · exact h1
  split
  · exact firstSent_ncProceed _ h1
  · exact firstSent_ncProceed _ h1
  · exact firstSent_under _ _ h1 fun _ hu => firstSent_cohProceed _ _ hu

theorem firstSent_driveTxns (h : FirstSent x s) : FirstSent x (driveTxns s) :=
  firstSent_eachS _ _ h fun _ _ hu => firstSent_txnProceed _ _ hu

theorem firstSent_answerProbe (l member : Nat) (agents : List Nat) (h : FirstSent x s) : FirstSent x (answerProbe l member agents s) := h

/-! ### The partner and the Roustabout -/

theorem firstSent_writeOwnerData (rs : List Req) (l : Nat) (d : LineData) (h : FirstSent x s) : FirstSent x (writeOwnerData rs l d s) := by
  grind [writeOwnerData, firstSent_acceptFull, firstSent_settleOthers, firstSent_eachS, firstSent_noteKey, firstSent_mirrorWrite, firstSent_writeDone]

theorem firstSent_reply (l : Nat) (p q : Packet) (hq : notMirror q.ptype) (h : FirstSent x s) : FirstSent x (reply l p q s) := by
  grind [reply, firstSent_sendOn]

theorem firstSent_mirrorAnswer (l : Nat) (p : Packet) (c : Status) (h : FirstSent x s) : FirstSent x (mirrorAnswer l p c s) := by
  grind [mirrorAnswer, firstSent_reply]

theorem firstSent_learnState (g n : Nat) (p : Packet) (h : FirstSent x s) : FirstSent x (learnState g n p s) := h

theorem firstSent_rewriteLine (n : Nat) (d : LineData) (check : BitVec 32) (seq : BitVec 12) (a : Word) (h : FirstSent x s) : FirstSent x
    (rewriteLine n d check seq a s) :=
  firstSent_whenS _ _ h fun _ => firstSent_rewriteBlock _ (firstSent_putLine _ _ h)

theorem firstSent_partnerRead (n : Nat) (h : FirstSent x s) : FirstSent x (partnerRead n s) := by
  grind [partnerRead, firstSent_settleRead, firstSent_lastingLeft]

theorem firstSent_softPoison (r : Req) (h : FirstSent x s) : FirstSent x (softPoison r s) := by
  grind [softPoison, firstSent_postKeyMissing, firstSent_poisonLine]

theorem firstSent_inspectEnd (result : Nat) (h : FirstSent x s) : FirstSent x (inspectEnd result s) :=
  firstSent_whenS _ _ h fun _ => h

theorem firstSent_inspectTurn (r : Req) (h : FirstSent x s) : FirstSent x (inspectTurn r s) := by
  grind [inspectTurn, firstSent_askPartner, firstSent_holdLine, firstSent_inspectEnd]

theorem mirrorData_ptype (u : State) (n : Nat) : (mirrorData u n).ptype = 0x39 := rfl

theorem firstSent_mirrorTurn (r : Req) (h : FirstSent x s) : FirstSent x (mirrorTurn r s) := by
  unfold mirrorTurn
  split
  · extract_lets p n g
    split
    · exact firstSent_mirrorAnswer _ _ _ h
    split
    · exact firstSent_mirrorAnswer _ _ _ (firstSent_postKeyMissing _ _ h)
    split
    · split
      · exact firstSent_mirrorAnswer _ _ _ h
      · exact firstSent_mirrorAnswer _ _ _ (firstSent_learnState _ _ _ (firstSent_putLine _ _ (firstSent_rewriteLine _ _ _ _ _ (firstSent_settleOthers _ h))))
    · split
      · exact firstSent_mirrorAnswer _ _ _ h
      · exact firstSent_mirrorAnswer _ _ _ (firstSent_learnState _ _ _ (firstSent_putLine _ _ h))
    · exact firstSent_reply _ _ _ (by rw [mirrorData_ptype]; decide) (firstSent_learnState _ _ _ (firstSent_partnerRead _ h))
  · split
    · exact firstSent_inspectTurn _ h
    · exact firstSent_softPoison _ h
  · exact h

theorem firstSent_mirrorServe (r : Req) (h : FirstSent x s) : FirstSent x (mirrorServe r s) := by
  grind [mirrorServe, firstSent_park, firstSent_wakePart, firstSent_numbered, firstSent_comeTo, firstSent_mirrorTurn]

/-! ### Requests for another node -/

theorem firstSent_siteBufWrite (k : Nat) (p : Packet) (h : FirstSent x s) : FirstSent x (siteBufWrite k p s) := by
  grind [siteBufWrite, firstSent_modFab, firstSent_eachS, firstSent_modOrder]

/-- A request for another node leaves where windows exist, and brings no fewer mirror packets (R79). -/
theorem firstSent_launch (o : Outst) (l : Nat) (h : Blurred s) : FirstSent x (launch o l s) :=
  .inl (Blurred.sendOn _ _ (blurred_of_forall fun _ => firstSent_charge _ _ _ _ _ (.inl h)))

theorem firstSent_sendRemote (r : Req) (win : Nat) (e : BitVec 128) (h : Blurred s) : FirstSent x (sendRemote r win e s) := by
  unfold sendRemote
  extract_lets tag p s1
  split
  · exact firstSent_refuse _ _ (.inl h)
  · have h1 : Blurred s1 := by
      unfold s1
      split
      · exact blurred_of_forall fun _ => firstSent_siteBufWrite _ _ (.inl h)
      · exact h
    exact firstSent_whenS _ _ (.inl h1) fun _ => firstSent_launch _ _ h1

theorem firstSent_siteRoute (go : Req → State → State) (r : Req)
 (hgo : ∀ (q : Req) {u : State}, FirstSent x u → FirstSent x (go q u)) (h : FirstSent x s) : FirstSent x (siteRoute go r s) := by
  unfold siteRoute
  extract_lets m a home
  split
  · exact firstSent_refuse _ _ (firstSent_checkFailed _ _ _ h)
  next i e hfind =>
  have hwin : Blurred s := .inl ⟨_, _, _, _, _, by rw [hfind]; exact Option.some_ne_none _⟩
  split
  split
  · exact firstSent_refuse _ _ (firstSent_checkFailed _ _ _ h)
  split
  · exact firstSent_cohError _ _ (firstSent_post _ h)
  split
  · split
    · exact firstSent_cohError _ _ h
    · exact firstSent_finish _ _ h
  split
  · exact firstSent_finish _ _ h
  split
  · exact firstSent_refuse _ _ (firstSent_checkFailed _ _ _ h)
  split
  · exact firstSent_park _ _ (firstSent_wakePart _ _ (firstSent_whenS _ _ h fun _ => firstSent_siteBufWrite _ _ h))
  split
  · exact firstSent_asRetry _ _ hgo (firstSent_siteBufWrite _ _ h)
  unfold handOver
  split
  · exact firstSent_sendRemote _ _ _ (blurred_of_forall fun _ => firstSent_handPass_eq (.inl hwin) ‹_›)
  · exact firstSent_finish _ _ (firstSent_handPass_eq h ‹_›)

theorem firstSent_sitePacket (k t n : Nat) (f : State → State) (hf : ∀ {u : State}, FirstSent x u → FirstSent x (f u)) (h : FirstSent x s) : FirstSent x
    (sitePacket k t n f s) := by
  grind [sitePacket, firstSent_oweSite]

theorem firstSent_siteTake (k : Nat) (p : Packet) (go : Req → State → State) (hgo : ∀ (q : Req) {u : State}, FirstSent x u → FirstSent x (go q u))
    (h : FirstSent x s) : FirstSent x (siteTake k p go s) := by
  grind [siteTake, firstSent_oweSite, firstSent_refuse, firstSent_checkFailed, firstSent_siteRoute]

theorem firstSent_replayConflict (r : Req) (h : FirstSent x s) : FirstSent x (replayConflict r s) :=
  firstSent_post _ h

theorem firstSent_decideWith (go : Req → State → State) (r : Req) (hgo : ∀ (q : Req) {u : State}, FirstSent x u → FirstSent x (go q u)) (h : FirstSent x s) :
    FirstSent x (decideWith go r s) := by
  unfold decideWith
  split
  · extract_lets keys found
    split
    · split
      · exact firstSent_park _ _ h
      · exact hgo _ h
    · exact firstSent_refuse _ _ h
    · exact firstSent_refuse _ _ (firstSent_replayConflict _ h)
    · split
      · exact firstSent_refuse _ _ (firstSent_replayConflict _ h)
      · split
        · exact h
        · have hcharge := firstSent_chargeReq r 9 1 (firstSent_modOrder (fun x => { x with replayed := satInc 32 x.replayed }) h)
          exact firstSent_sendAnswer _ _ _ (linkAnswer_notMirror _ _ _ _ _) hcharge
  · exact hgo _ h

theorem firstSent_atomicDecide (r : Req) (h : FirstSent x s) : FirstSent x (atomicDecide r s) := by
  grind [atomicDecide, firstSent_numbered, firstSent_decideWith, firstSent_serve]

theorem firstSent_refuseLate (order : Nat) (r : Req) (h : FirstSent x s) : FirstSent x (refuseLate order r s) := by
  grind [refuseLate, firstSent_decideWith, firstSent_finish, firstSent_checkFailed, firstSent_refuse]

/-! ### A settling -/

theorem firstSent_openHot (h : FirstSent x s) : FirstSent x (openHot s) := by
  grind [openHot, firstSent_eachS, firstSent_modHome, whenS]

theorem firstSent_wbTurn (y : Nat) (r : Req) (h : FirstSent x s) : FirstSent x (wbTurn y r s) := by
  grind [wbTurn, firstSent_finish, firstSent_post, firstSent_writeOwnerData, firstSent_answerProbe, firstSent_modTxn, firstSent_txnProceed,
    firstSent_meetRetry, firstSent_hotClose, firstSent_admitTo, firstSent_park, firstSent_allocEnt, firstSent_setDir, whenS]

theorem firstSent_wbHome (r : Req) (h : FirstSent x s) : FirstSent x (wbHome r s) := by
  grind [wbHome, firstSent_finish, firstSent_post, firstSent_comeTo, firstSent_atHome, firstSent_admitTo, firstSent_wbTurn]

theorem firstSent_serveWriteback (r : Req) (h : FirstSent x s) : FirstSent x (serveWriteback r s) := by
  grind [serveWriteback, firstSent_numbered, firstSent_under, firstSent_handOver, firstSent_wbHome]

theorem firstSent_cohAgain (c : Coh) (r : Req) (h : FirstSent x s) : FirstSent x (cohAgain c r s) := by
  grind [cohAgain, firstSent_txnProceed, firstSent_modTxn, firstSent_serveCoherent]

theorem firstSent_atomicAgain (r : Req) (h : FirstSent x s) : FirstSent x (atomicAgain r s) := by
  grind [atomicAgain, firstSent_refuseLate, firstSent_atomicDecide]

theorem firstSent_serveAgain (r : Req) (h : FirstSent x s) : FirstSent x (serveAgain r s) := by
  grind [serveAgain, firstSent_mirrorServe, firstSent_siteRoute, firstSent_serve, firstSent_serveWriteback, firstSent_cohAgain, firstSent_atomicAgain,
    firstSent_finish]

theorem firstSent_serveParked (p : Parked) (h : FirstSent x s) : FirstSent x (serveParked p s) := by
  grind [serveParked, firstSent_park, firstSent_serveAgain]

theorem firstSent_releaseOne (order : Nat) (h : FirstSent x s) : FirstSent x (releaseOne order s) := by
  grind [releaseOne, firstSent_serveParked, firstSent_modMem]

theorem firstSent_releaseParked (h : FirstSent x s) : FirstSent x (releaseParked s) :=
  firstSent_eachS _ _ (firstSent_openHot h) fun _ _ hu => firstSent_releaseOne _ hu

theorem firstSent_releaseRings (h : FirstSent x s) : FirstSent x (releaseRings s) := by
  grind [releaseRings, firstSent_eachS, firstSent_releaseOne]

theorem firstSent_restartClocks (h : FirstSent x s) : FirstSent x (restartClocks s) :=
  firstSent_whenS _ _ h fun _ => firstSent_modPower _ h

theorem firstSent_settleOnce (h : FirstSent x s) : FirstSent x (settleOnce s) :=
  firstSent_settleFences (firstSent_driveTxns (firstSent_releaseRings (firstSent_releaseParked (firstSent_driveTxns (firstSent_restartClocks h)))))

theorem firstSent_siteWait (k : Nat) (p : Packet) (ok : Bool) (f : Req → State → State) (hf : ∀ (q : Req) {u : State}, FirstSent x u → FirstSent x (f q u))
    (h : FirstSent x s) : FirstSent x (siteWait k p ok f s) := by
  grind [siteWait, firstSent_sitePacket, firstSent_refuse, firstSent_checkFailed]

theorem firstSent_takeFence (k : Nat) (p : Packet) (h : FirstSent x s) : FirstSent x (takeFence k p s) :=
  firstSent_siteWait _ _ _ _ (fun _ _ hu => firstSent_settleFences hu) h

theorem firstSent_takeCtrWait (k : Nat) (p : Packet) (h : FirstSent x s) : FirstSent x (takeCtrWait k p s) := by
  grind [takeCtrWait, firstSent_siteWait, firstSent_refuse, firstSent_settleCtr, firstSent_modOrder]

theorem firstSent_siteServe (t : Nat) (r : Req) (h : FirstSent x s) : FirstSent x (siteServe t r s) := by
  unfold siteServe
  split
  · exact firstSent_atomicDecide _ h
  · cases cohOf t with
    | none => exact firstSent_serve _ h
    | some c => exact firstSent_serveCoherent _ _ h

theorem firstSent_takeHeld (k : Nat) (p : Packet) (h : FirstSent x s) : FirstSent x (takeHeld k p s) := by
  grind [takeHeld, firstSent_takeFence, firstSent_takeCtrWait, firstSent_siteTake, firstSent_siteServe]

theorem firstSent_releaseHeld (h : FirstSent x s) : FirstSent x (releaseHeld s) := by
  grind [releaseHeld, firstSent_eachS, firstSent_wakePart, firstSent_takeHeld, firstSent_modSite]

theorem firstSent_settle (h : FirstSent x s) : FirstSent x (settle s) := by
  grind [settle, firstSent_eachS, firstSent_settleOnce, firstSent_releaseHeld]

end Sys2Proof.Machine
end


section
/-! O40. INTEG_POISON where every tag is in use (R79, R155). -/

set_option Elab.async false

namespace Sys2Proof.Safety

open Sys2Proof.Machine

/-- Refutes O40: where every tag is in use, the mirror packet of the poisoned line takes tag 0 a second time, and its leaving sets the timers of the older
packet of that tag anew, so that the list of what is awaited is not the old list with one more. -/
theorem not_poisonAndInspect : ¬ Obligations.PoisonAndInspect := by
  unfold Obligations.PoisonAndInspect
  intro h
  obtain ⟨hpoison, -⟩ := h .ringmaster 0x40 { granules := [] } 0 0 crowded rfl
  obtain ⟨hwritten, -⟩ := hpoison (by decide +kernel) (by decide) ⟨crowded_open, by decide +kernel⟩
  obtain ⟨u, hsettles, -, -, -, -, -, -, -, hmirrored⟩ := hwritten (by decide +kernel) (by decide +kernel) (by decide +kernel)
  obtain ⟨o, hops, -⟩ := hmirrored (by decide +kernel)
  have hsame : settle u = settle crowdedPoisoned := by
    have hnext := hsettles.symm.trans crowded_settles
    injection hnext
  have holder : FirstSent 3 u := .inr ⟨o.sentAt, congrArg (List.map MirrorOp.sentAt) hops⟩
  exact not_firstSent_settle_crowdedPoisoned (hsame ▸ firstSent_settle holder)

end Sys2Proof.Safety
end

section
/-! SUPPORT. The registers of a queue pair (R249, R250): the way of a write to its register, and what each doorbell does there (R246, R247). -/

namespace Sys2Proof.Machine

/-! ### The way of a write to a queue pair's register -/

section Routing

variable (w : Writer) {q o : Nat} (s : State) (hq : q < 4096) (ho : o < 64)
include hq ho

/-- The registers of queue pair `q` (R249). -/
theorem writeBlock_qp (v : Nat) (haligned : o % 8 = 0) : writeBlock w (qpAddr q o) v s = writeQp w q o v s := by
  have ha : qpAddr q o = 0xA0000 + 64 * q + o := rfl
  have hformed : regFormed (qpAddr q o) = true := regFormed_of_aligned (by omega) (by omega)
  have hinst : (qpAddr q o - 0xA0000) / 64 = q := by omega
  have hoff : (qpAddr q o - 0xA0000) % 64 = o := by omega
  simp (disch := omega) only [writeBlock, hformed, hinst, hoff, Bool.not_true, Bool.false_eq_true, if_false, if_pos, if_neg]

/-- A write to a queue pair's register waits for no partition while the queue pair's own is awake (Table 15.4). -/
theorem waitsFor_qp_of_awake (v : Nat) (hawake : sleeping s (qpPart s q) = false) : waitsFor s (qpAddr q o) v = none := by
  have ha : qpAddr q o = 0xA0000 + 64 * q + o := rfl
  have hinst : (qpAddr q o - 0xA0000) / 64 = q := by omega
  have hrec : qpRecOf s.rig.cur q = qpRec s q := rfl
  simp (disch := omega) only [waitsFor, ← Bool.decide_and, decide_eq_true_eq, hinst, hrec, if_pos, if_neg]
  cases hr : qpRec s q with
  | none => rfl
  | some r =>
    have hasleep : sleeping s r.part = false := by simpa only [qpPart, hr] using hawake
    simp [hasleep]

/-- A register command on a queue pair whose partition is awake ends as the write at the QP block does, whatever its status. -/
theorem regCmd_qp_of_awake {v : Word} {c : Status} {u : State} (haligned : o % 8 = 0) (hlive : writerLive s w = true)
    (hawake : sleeping s (qpPart s q) = false) (hwrite : writeQp w q o v.toNat s = (c, u)) : regCmd w (qpAddr q o) v s = .next (settle u) := by
  rw [regCmd, if_pos hlive, regWrite, waitsFor_qp_of_awake s hq ho _ hawake, writeBlock_qp w s hq ho _ haligned, hwrite]
  rfl

end Routing

/-- A writer with authority passes the guard of the queue pair's registers (R249, Table 8.5). -/
theorem qpGuard_of_authority {s : State} {w : Writer} {q : Nat} (o v : Nat) (f : State → Wrote) (hassigned : (qpRec s q).isSome = true)
    (hauth : Safety.QpAuthority s w q) : qpGuard w q o v f s = f s := by
  cases w with
  | ringmaster => rfl
  | site k =>
    simp only [Safety.QpAuthority] at hauth
    simp [qpGuard, hassigned, hauth]
  | fabric l node part =>
    obtain ⟨r, hr, hpart, hremote, howner⟩ := hauth
    simp [qpGuard, hr, hpart, hremote, howner]

/-- A doorbell of an assigned queue pair, rung by a writer with authority, comes to its ring. -/
theorem qpBell_of_authority {s : State} {w : Writer} {q : Nat} (sq : Bool) (v : Nat) (hassigned : (qpRec s q).isSome = true)
    (hauth : Safety.QpAuthority s w q) :
    qpBell w q sq v s = if sq then sqDoorbell w q (BitVec.ofNat 32 v) s else cqDoorbell w q (BitVec.ofNat 32 v) s := by
  have hnone : ¬ (qpRec s q).isNone = true := by simpa using Option.isSome_iff_ne_none.mp hassigned
  rw [qpBell, if_neg hnone, qpGuard_of_authority _ _ _ hassigned hauth]

/-! ### The doorbells (R246, R247, R433) -/

section Doorbells

variable (w : Writer) {q : Nat} {t : BitVec 32} {s : State}

/-- What an accepted tail leaves: unless it is the tail already, it is the tail now, and its ringer the last one (R246, R251, log 19). -/
def sqRung (w : Writer) (q : Nat) (t : BitVec 32) (s : State) : State :=
  if t = (getQp s q).sqTail then s else modQp q (fun x => { x with sqTail := t, ringer := ringerOf w }) s

theorem getQp_sqRung : getQp (sqRung w q t s) q =
    { getQp s q with sqTail := t, ringer := if t = (getQp s q).sqTail then (getQp s q).ringer else ringerOf w } := by
  by_cases hsame : t = (getQp s q).sqTail
  · simp [sqRung, hsame]
  · simp [sqRung, hsame]

@[simp] theorem sqRung_cmds : (sqRung w q t s).cmds = s.cmds := by
  rw [sqRung, apply_ite State.cmds, modQp_cmds, ite_self]

@[simp] theorem sqRung_outbox : (sqRung w q t s).outbox = s.outbox := by
  rw [sqRung, apply_ite State.outbox, modQp_outbox, ite_self]

/-- A tail within the ring, offered to a queue pair that takes doorbells, is accepted; it stands where the tail stands exactly when it is the tail (R246). -/
theorem sqDoorbell_of_within (hlive : qpLive s q = true)
    (hst : (getQp s q).st = .running ∨ (getQp s q).st = .stopping ∨ (getQp s q).st = .stopped)
    (hpast : ((getQp s q).sqTail - (getQp s q).sqHead).toNat ≤ (t - (getQp s q).sqHead).toNat)
    (hfits : (t - (getQp s q).sqHead).toNat ≤ 2 ^ (getQp s q).sqLog) : sqDoorbell w q t s = (.ok, sqRung w q t s) := by
  have hsame : ((getQp s q).sqTail - (getQp s q).sqHead).toNat = (t - (getQp s q).sqHead).toNat ↔ t = (getQp s q).sqTail := by
    rw [BitVec.toNat_inj]
    constructor
    · intro h
      bv_omega
    · exact fun h => h ▸ rfl
  simp [-BitVec.toNat_sub, sqDoorbell, sqRung, hlive, hst, or_assoc, hpast, hfits, hsame]

/-- A tail offered to a partition that does not run, to a queue pair in RESET or ERROR, or outside the ring is refused (R246, R433). -/
theorem sqDoorbell_of_outside
    (hout : qpLive s q = false ∨ (getQp s q).st = .reset ∨ (getQp s q).st = .error ∨
      (t - (getQp s q).sqHead).toNat < ((getQp s q).sqTail - (getQp s q).sqHead).toNat ∨
      2 ^ (getQp s q).sqLog < (t - (getQp s q).sqHead).toNat) :
    sqDoorbell w q t s = (if (getQp s q).st = .reset || (getQp s q).st = .error then .qpAborted else .malformed,
      doorbellRefused w q 0x18 t.toNat s) := by
  refine if_neg ?_
  simp only [Bool.and_eq_true, Bool.or_eq_true, decide_eq_true_eq]
  rintro ⟨⟨⟨hlive, hst⟩, hpast⟩, hfits⟩
  rcases hout with hdead | hreset | herror | hbefore | hbeyond
  · simp [hdead] at hlive
  · simp [hreset] at hst
  · simp [herror] at hst
  · exact Nat.not_le_of_lt hbefore hpast
  · exact Nat.not_le_of_lt hbeyond hfits

/-- A completion head up to the tail is accepted (R247). -/
theorem cqDoorbell_of_within (hlive : qpLive s q = true)
    (hupto : (t - (getQp s q).cqHead).toNat ≤ ((getQp s q).cqTail - (getQp s q).cqHead).toNat) :
    cqDoorbell w q t s = (.ok, modQp q (fun x => { x with cqHead := t }) s) := by
  simp [-BitVec.toNat_sub, cqDoorbell, hlive, hupto]

/-- A completion head offered to a partition that does not run, or past the tail, is refused (R247, R433). -/
theorem cqDoorbell_of_outside
    (hout : qpLive s q = false ∨ ((getQp s q).cqTail - (getQp s q).cqHead).toNat < (t - (getQp s q).cqHead).toNat) :
    cqDoorbell w q t s = (.malformed, doorbellRefused w q 0x20 t.toNat s) := by
  rcases hout with hdead | hpast
  · simp [cqDoorbell, hdead]
  · simp [-BitVec.toNat_sub, cqDoorbell, Nat.not_le_of_lt hpast]

end Doorbells

end Sys2Proof.Machine
end

section
/-! O33. The doorbells of a queue pair (R246, R247). -/

namespace Sys2Proof.Safety

open Sys2Proof.Machine

section Bell

variable {s u : State} {w : Writer} {q : Fin 4096} {v : Word} {c : Status} (hwrites : QpWrites s w q.val)
include hwrites

/-- QP_SQ_DOORBELL ends as the submission doorbell does. -/
theorem qpSqDoorbell_settles (hring : sqDoorbell w q.val (BitVec.ofNat 32 v.toNat) s = (c, u)) : Settles (.qpSqDoorbell w q v) s u := by
  have hbell : writeQp w q.val 0x18 v.toNat s = (c, u) := (qpBell_of_authority true v.toNat hwrites.assigned hwrites.authority).trans hring
  exact regCmd_qp_of_awake w s q.isLt (by decide) rfl hwrites.live hwrites.awake hbell

/-- QP_CQ_DOORBELL ends as the completion doorbell does. -/
theorem qpCqDoorbell_settles (hring : cqDoorbell w q.val (BitVec.ofNat 32 v.toNat) s = (c, u)) : Settles (.qpCqDoorbell w q v) s u := by
  have hbell : writeQp w q.val 0x20 v.toNat s = (c, u) := (qpBell_of_authority false v.toNat hwrites.assigned hwrites.authority).trans hring
  exact regCmd_qp_of_awake w s q.isLt (by decide) rfl hwrites.live hwrites.awake hbell

end Bell

/-- Settles O33: a doorbell of a writer with authority comes to its ring, which accepts what lies within it and refuses the rest. -/
theorem doorbells : Obligations.Doorbells := by
  unfold Obligations.Doorbells
  intro w q v s hwrites
  refine ⟨fun hlive hst hpast hfits => ?_, fun hout => ?_, fun hlive hupto => ?_, fun hout => ?_⟩
  · exact ⟨_, qpSqDoorbell_settles hwrites (sqDoorbell_of_within w hlive hst hpast hfits), getQp_sqRung w, sqRung_cmds w, sqRung_outbox w⟩
  · exact qpSqDoorbell_settles hwrites (sqDoorbell_of_outside w hout)
  · exact ⟨_, qpCqDoorbell_settles hwrites (cqDoorbell_of_within w hlive hupto), getQp_modQp_self _ _ _, rfl, rfl⟩
  · exact qpCqDoorbell_settles hwrites (cqDoorbell_of_outside w hout)

end Sys2Proof.Safety
end


section
/-! SUPPORT. What training has set of a link (R374 to R376) and what leaves it so: the traffic of the links, and every operation that a link's change of
state can come to, in the order of the model. -/

set_option Elab.async false

namespace Sys2Proof.Machine

/-- What training has set of a link, without what its traffic changes; the sizes of its peer's classes while it is ACTIVE. -/
def Link.trained (x : Link) : Link :=
  { st := x.st, active := x.active, peerNode := x.peerNode, peerPort := x.peerPort, peerKind := x.peerKind, peerStepping := x.peerStepping,
    peerCompatA := x.peerCompatA, phase := x.phase, attempts := x.attempts, fast := x.fast, downAt := x.downAt,
    sizes := if x.st = .active then x.sizes else [] }

/-- What training has set of each link. -/
def linkView (s : State) (k : Nat) : Link := (getLink s k).trained

variable {s : State}

/-! ### Updates -/

-- Proved `by rfl` and not by the term `rfl`: `simp` then rewrites with them inside the side conditions of the lemmas on lists of updates.

@[simp] theorem linkView_modMem (f : Mem → Mem) : linkView (modMem f s) = linkView s := by rfl
@[simp] theorem linkView_modInteg (f : Integ → Integ) : linkView (modInteg f s) = linkView s := by rfl
@[simp] theorem linkView_modHome (f : Home → Home) : linkView (modHome f s) = linkView s := by rfl
@[simp] theorem linkView_modOrder (f : Order → Order) : linkView (modOrder f s) = linkView s := by rfl
@[simp] theorem linkView_modUcie (f : Ucie → Ucie) : linkView (modUcie f s) = linkView s := by rfl
@[simp] theorem linkView_modBarker (f : Barker → Barker) : linkView (modBarker f s) = linkView s := by rfl
@[simp] theorem linkView_modCmds (f : List Cmd → List Cmd) : linkView (modCmds f s) = linkView s := by rfl
@[simp] theorem linkView_modQp (q : Nat) (f : Qp → Qp) : linkView (modQp q f s) = linkView s := by rfl
@[simp] theorem linkView_modPart (p : Nat) (f : Part → Part) : linkView (modPart p f s) = linkView s := by rfl
@[simp] theorem linkView_modBooth (b : Nat) (f : BoothSt → BoothSt) : linkView (modBooth b f s) = linkView s := by rfl
@[simp] theorem linkView_modSite (k : Nat) (f : Site → Site) : linkView (modSite k f s) = linkView s := by rfl
@[simp] theorem linkView_modBank (n : Nat) (f : Bank → Bank) : linkView (modBank n f s) = linkView s := by rfl
@[simp] theorem linkView_modStack (k : Nat) (f : MemStack → MemStack) : linkView (modStack k f s) = linkView s := by rfl
@[simp] theorem linkView_setCtr (n : Nat) (v : Word) : linkView (setCtr n v s) = linkView s := by rfl
@[simp] theorem linkView_emit (o : Out) : linkView (emit o s) = linkView s := by rfl
@[simp] theorem linkView_drawFree : linkView (drawFree s).2 = linkView s := by rfl

@[simp] theorem linkView_modFab (f : Fab → Fab) (hf : ∀ x, (f x).links = x.links) : linkView (modFab f s) = linkView s := by
  funext k
  simp only [linkView, getLink, modFab, hf]

theorem linkView_modLink_of (l : Nat) (f : Link → Link) (hf : (f (getLink s l)).trained = (getLink s l).trained) :
    linkView (modLink l f s) = linkView s := by
  funext k
  by_cases hk : k = l
  · subst hk; simp [linkView, hf]
  · simp [linkView, hk]

theorem linkView_modLink (l : Nat) (f : Link → Link) (hf : ∀ x, (f x).trained = x.trained) : linkView (modLink l f s) = linkView s :=
  linkView_modLink_of l f (hf _)

@[simp] theorem linkView_ite (c : Prop) [Decidable c] (t : State) : linkView (if c then s else t) = if c then linkView s else linkView t :=
  apply_ite linkView c s t

@[simp] theorem linkView_whenS (b : Bool) (f : State → State) (hf : ∀ u, linkView (f u) = linkView u) : linkView (whenS b f s) = linkView s :=
  whenS_keeps linkView b f hf s

@[simp] theorem linkView_eachS {α : Type} (l : List α) (f : α → State → State) (hf : ∀ a u, linkView (f a u) = linkView u) :
    linkView (eachS l f s) = linkView s := eachS_keeps linkView l f hf s

/-! ### Links and sites -/

@[simp] theorem linkView_charge (p epoch e amount time : Nat) : linkView (charge p epoch e amount time s) = linkView s := by
  unfold charge
  split <;> simp

@[simp] theorem linkView_chargeReq (r : Req) (e amount : Nat) : linkView (chargeReq r e amount s) = linkView s := by
  simp [chargeReq]

@[simp] theorem linkView_putFlit (l : Nat) (f : Nat × List Byte) : linkView (putFlit l f s) = linkView s :=
  (linkView_emit _).trans (linkView_modLink l _ fun _ => rfl)

@[simp] theorem linkView_sendFlit (l : Nat) (payload : List Byte) : linkView (sendFlit l payload s) = linkView s :=
  (linkView_whenS _ (putFlit l _) fun _ => linkView_putFlit l _).trans (linkView_modLink l _ fun _ => rfl)

@[simp] theorem linkView_markSent (p : Packet) : linkView (markSent p s) = linkView s := by
  simp [markSent]

@[simp] theorem linkView_transmit (l : Nat) (p : Packet) : linkView (transmit l p s) = linkView s :=
  calc linkView (transmit l p s)
    _ = linkView (eachS (payloads (packetBytes p)) (sendFlit l) (markSent p (emit (.link l p) s))) :=
      linkView_whenS _ (modLink l _) fun _ => linkView_modLink l _ fun _ => rfl
    _ = linkView s := by simp

theorem spendCredit_trained {x y : Link} {p : Packet} {res : Bool} (hspend : spendCredit x p res = some y) : y.trained = x.trained := by
  unfold spendCredit at hspend
  dsimp only at hspend
  split at hspend
  · cases hspend
  · split at hspend
    · cases hspend; rfl
    · split at hspend <;> cases hspend
      rfl

@[simp] theorem linkView_sendOn (l : Nat) (p : Packet) : linkView (sendOn l p s) = linkView s := by
  unfold sendOn
  dsimp only
  generalize BitVec.ofNat 16 _ = n
  split
  · exact linkView_modLink l _ fun _ => rfl
  · split
    next y hspend => exact (linkView_transmit l _).trans (linkView_modLink_of l _ (spendCredit_trained hspend))
    next => exact linkView_modLink l _ fun _ => rfl

@[simp] theorem linkView_leaveSite (k : Nat) (p : Packet) : linkView (leaveSite k p s) = linkView s := by rfl

@[simp] theorem linkView_toSite (k : Nat) (p : Packet) : linkView (toSite k p s) = linkView s := by
  unfold toSite
  dsimp only
  repeat' split
  all_goals simp

/-! ### The store and the commands -/

@[simp] theorem linkView_putLine (l : Nat) (v : Line) : linkView (putLine l v s) = linkView s := by rfl

@[simp] theorem linkView_under (epoch : Nat) (f : State → State) (hf : ∀ u, linkView (f u) = linkView u) :
    linkView (under epoch f s) = linkView s :=
  hf (modRig (fun x => { x with view := some epoch }) s)

@[simp] theorem linkView_rewriteBlock (l : Nat) : linkView (rewriteBlock l s) = linkView s := by
  unfold rewriteBlock
  dsimp only
  repeat' split
  all_goals simp

@[simp] theorem linkView_plainBlock (l : Nat) : linkView (plainBlock l s) = linkView s := by
  simp [plainBlock]

@[simp] theorem linkView_storeLine (l : Nat) (d : LineData) : linkView (storeLine l d s) = linkView s := by
  simp [storeLine]

@[simp] theorem linkView_storeBurst (l : Nat) (ds : List LineData) : linkView (storeBurst l ds s) = linkView s := by
  simp [storeBurst]

@[simp] theorem linkView_setPoison (l reason : Nat) : linkView (setPoison l reason s) = linkView s := by
  simp [setPoison]

@[simp] theorem linkView_acceptFull (l : Nat) (d : LineData) : linkView (acceptFull l d s).2 = linkView s := by
  unfold acceptFull
  split
  · exact linkView_storeLine l d
  · rfl

theorem linkView_of_acceptFull {l : Nat} {d : LineData} {c : Status} {u : State} (haccept : acceptFull l d s = (c, u)) : linkView u = linkView s := by
  simpa only [haccept] using linkView_acceptFull (s := s) l d

@[simp] theorem linkView_sendMirror (g : Nat) (kind : MirrorKind) (lines : List Nat) (p : Packet) (reqs : List Req) (status : Status)
    (cmd : Option (Nat × Nat × Nat)) : linkView (sendMirror g kind lines p reqs status cmd s) = linkView s := by
  unfold sendMirror
  dsimp only
  split <;> simp

@[simp] theorem linkView_holdLine (l : Nat) (h : Hold) : linkView (holdLine l h s) = linkView s := by rfl

@[simp] theorem linkView_mirrorPoison (l : Nat) : linkView (mirrorPoison l s) = linkView s := by
  simp [mirrorPoison]

@[simp] theorem linkView_poisonLine (l reason : Nat) : linkView (poisonLine l reason s) = linkView s := by
  simp [poisonLine]

@[simp] theorem linkView_emptyBoothBuf (b : Nat) : linkView (emptyBoothBuf b s) = linkView s := by rfl

@[simp] theorem linkView_emptySiteBuf (k : Nat) : linkView (emptySiteBuf k s) = linkView s := by rfl

@[simp] theorem linkView_pushCompl (q : Nat) (c : Compl) : linkView (pushCompl q c s) = linkView s := by
  unfold pushCompl
  dsimp only
  repeat' split
  all_goals simp

@[simp] theorem linkView_modCmd (q n : Nat) (f : Cmd → Cmd) : linkView (modCmd q n f s) = linkView s := by rfl

@[simp] theorem linkView_releaseCmd (c : Cmd) : linkView (releaseCmd c s) = linkView s := by rfl

@[simp] theorem linkView_endCmd (c : Cmd) (d : Done) : linkView (endCmd c d s) = linkView s := by
  simp [endCmd]

@[simp] theorem linkView_endWait (c : Cmd) : linkView (endWait c s) = linkView s := by
  simp [endWait]

@[simp] theorem linkView_waitDone (w : CtrWait) : linkView (waitDone w s) = linkView s := by
  unfold waitDone
  split
  · split <;> simp
  · simp

@[simp] theorem linkView_settleWaits (fuel : Nat) : linkView (settleWaits fuel s) = linkView s := by
  induction fuel generalizing s with
  | zero => rfl
  | succ n ih =>
    unfold settleWaits
    split
    · rfl
    · simp [ih]

@[simp] theorem linkView_settleDue : linkView (settleDue s) = linkView s := by rfl

@[simp] theorem linkView_settleCtr : linkView (settleCtr s) = linkView s := by
  simp [settleCtr]

@[simp] theorem linkView_arrive (n bytes : Nat) : linkView (arrive n bytes s) = linkView s := by
  simp [arrive]

@[simp] theorem linkView_logEntry (e : LogEntry) : linkView (logEntry e s) = linkView s := by rfl

@[simp] theorem linkView_numbered (r : Req) (go : Req → State → State) (hgo : ∀ a u, linkView (go a u) = linkView u) :
    linkView (numbered r go s) = linkView s := by
  unfold numbered
  split <;> simp [hgo]

@[simp] theorem linkView_park (r : Req) (w : Wait) : linkView (park r w s) = linkView s := by
  unfold park
  exact linkView_numbered _ _ fun _ _ => rfl

@[simp] theorem linkView_admitTo (goal : Wait) (r : Req) (go : Req → State → State) (hgo : ∀ a u, linkView (go a u) = linkView u) :
    linkView (admitTo goal r go s) = linkView s := by
  unfold admitTo
  dsimp only
  split
  · exact linkView_park _ _
  · split <;> simp [hgo]

/-! ### Records -/

@[simp] theorem linkView_forwardHead : linkView (forwardHead s) = linkView s := by
  unfold forwardHead
  dsimp only
  repeat' split
  all_goals simp

@[simp] theorem linkView_toMgmt (r : Rec) : linkView (toMgmt r s) = linkView s := by
  simp [toMgmt]

@[simp] theorem linkView_ringDone (p : Nat) (good : Bool) : linkView (ringDone p good s) = linkView s := by
  simp [ringDone]

@[simp] theorem linkView_pumpRing (fuel p : Nat) : linkView (pumpRing fuel p s) = linkView s := by
  induction fuel generalizing s with
  | zero => rfl
  | succ n ih =>
    unfold pumpRing
    dsimp only
    split
    · rfl
    split
    · rfl
    split
    · simp [ih]
    split
    · simp [ih]
    split
    · simp
    split
    next u hgood =>
      have hu := linkView_of_acceptFull hgood
      split <;> simp [ih, hu]
    next u _ hbad =>
      have hu := linkView_of_acceptFull hbad
      simp [ih, hu]

@[simp] theorem linkView_toRing (p : Nat) (r : Rec) : linkView (toRing p r s) = linkView s := by
  simp [toRing]

@[simp] theorem linkView_deliver (r : Rec) : linkView (deliver r s) = linkView s := by
  simp [deliver]

@[simp] theorem linkView_post (r : Rec) : linkView (post r s) = linkView s := by
  simp [post]

@[simp] theorem linkView_strike (f : Upset → Bool) : linkView (strike f s).2 = linkView s := by
  unfold strike
  split <;> rfl

@[simp] theorem linkView_doubleCheck (part node n l : Nat) : linkView (doubleCheck part node n l s).2 = linkView s := by
  unfold doubleCheck
  have hstrike : linkView (strike (strikesMerge l) s).2 = linkView s := linkView_strike _
  split
  next again u hstruck =>
    rw [hstruck] at hstrike
    split <;> simpa using hstrike
  next u _ hstruck =>
    rw [hstruck] at hstrike
    exact hstrike

@[simp] theorem linkView_acceptMerge (part node n l : Nat) (image : LineData) (good : Status) :
    linkView (acceptMerge part node n l image good s).2 = linkView s := by
  unfold acceptMerge
  have hcheck : linkView (doubleCheck part node n l s).2 = linkView s := linkView_doubleCheck part node n l
  split
  next u hfails =>
    rw [hfails] at hcheck
    exact hcheck
  next u hstands =>
    rw [hstands] at hcheck
    simpa using hcheck

/-! ### Answers -/

@[simp] theorem linkView_keyMissingOf (loc qp node l : Nat) : linkView (keyMissingOf loc qp node l s) = linkView s := by
  simp [keyMissingOf]

@[simp] theorem linkView_postKeyMissing (r : Req) (l : Nat) : linkView (postKeyMissing r l s) = linkView s := by
  simp [postKeyMissing]

@[simp] theorem linkView_postLine (l outcome : Nat) (c : Status) : linkView (postLine l outcome c s) = linkView s := by
  simp [postLine]

@[simp] theorem linkView_fillSiteBuf (k : Nat) (addr : Word) (ds : List LineData) : linkView (fillSiteBuf k addr ds s) = linkView s := by
  cases ds <;> simp [fillSiteBuf]

@[simp] theorem linkView_sendAnswer (l : Nat) (r : Req) (p : Packet) : linkView (sendAnswer l r p s) = linkView s := by
  unfold sendAnswer
  split <;> simp

@[simp] theorem linkView_toAsker (r : Req) (k : Nat) (p : Packet) : linkView (toAsker r k p s) = linkView s := by
  simp [toAsker]

@[simp] theorem linkView_fillBoothBuf (b addr : Nat) (d : LineData) : linkView (fillBoothBuf b addr d s) = linkView s := by
  simp [fillBoothBuf]

@[simp] theorem linkView_countRows (q n : Nat) : linkView (countRows q n s) = linkView s := by
  unfold countRows
  dsimp only
  split <;> simp

@[simp] theorem linkView_shareLine (c : Cmd) (list va : Nat) (d : LineData) : linkView (shareLine c list va d s) = linkView s := by rfl

@[simp] theorem linkView_boothAnswer (q n id : Nat) (a : Answer) : linkView (boothAnswer q n id a s) = linkView s := by
  unfold boothAnswer
  dsimp only
  repeat' split
  all_goals simp

@[simp] theorem linkView_recordReplay (r : Req) (results : List (BitVec 128)) (a : Answer) : linkView (recordReplay r results a s) = linkView s := by
  refine (linkView_eachS _ _ fun e u => linkView_eachS _ _ fun w v => ?_).trans (linkView_modOrder _)
  split <;> simp

@[simp] theorem linkView_finish (r : Req) (a : Answer) : linkView (finish r a s) = linkView s := by
  unfold finish
  dsimp only
  split <;> simp

@[simp] theorem linkView_writeDone (r : Req) (c : Status) : linkView (writeDone r c s) = linkView s := by
  simp [writeDone]

/-! ### Reads and writes at the Carousel -/

@[simp] theorem linkView_askPartner (l : Nat) (kind : MirrorKind) (reqs : List Req) (cmd : Option (Nat × Nat × Nat)) :
    linkView (askPartner l kind reqs cmd s) = linkView s := by
  simp [askPartner]

@[simp] theorem linkView_settlePoisoned (l : Nat) (found : BitVec 32) : linkView (settlePoisoned l found s) = linkView s := by
  simp [settlePoisoned]

@[simp] theorem linkView_noteFound (l : Nat) (found : BitVec 32) : linkView (noteFound l found s) = linkView s := by rfl

@[simp] theorem linkView_settleLasting (l : Nat) (found : BitVec 32) : linkView (settleLasting l found s) = linkView s := by
  simp [settleLasting]

@[simp] theorem linkView_lineTransient (l : Nat) (found : BitVec 32) : linkView (lineTransient l found s) = linkView s := by rfl

@[simp] theorem linkView_settleRead (ls : List Nat) (fix : Bool) (lasting : Nat → BitVec 32 → State → State)
    (hlasting : ∀ a b u, linkView (lasting a b u) = linkView u) : linkView (settleRead ls fix lasting s) = linkView s := by
  unfold settleRead
  extract_lets found s1 bad good s2
  have h1 : linkView s1 = linkView s := rfl
  have h2 : linkView s2 = linkView s := by simp [s2, h1]
  clear_value s2
  simp [hlasting, h2]

@[simp] theorem linkView_settleBad (l : Nat) : linkView (settleBad l s) = linkView s := by
  simp [settleBad]

@[simp] theorem linkView_lastingLeft (l : Nat) (found : BitVec 32) : linkView (lastingLeft l found s) = linkView s := by
  simp [lastingLeft]

@[simp] theorem linkView_settleOthers (l : Nat) : linkView (settleOthers l s) = linkView s := by
  simp [settleOthers]

@[simp] theorem linkView_noteKey (r : Req) (ls : List Nat) (c : Status) : linkView (noteKey r ls c s) = linkView s := by
  unfold noteKey
  split <;> simp

@[simp] theorem linkView_entryStatuses (r : Req) (cs : List Status) : linkView (entryStatuses r cs s) = linkView s := by
  unfold entryStatuses
  split <;> simp

@[simp] theorem linkView_serveRead (fuel : Nat) (r : Req) : linkView (serveRead fuel r s) = linkView s := by
  induction fuel generalizing r s with
  | zero => rfl
  | succ n ih =>
    unfold serveRead
    dsimp only
    split
    · simp [ih]
    · split <;> simp

@[simp] theorem linkView_mirrorWrite (rs : List Req) (c : Status) (l : Nat) : linkView (mirrorWrite rs c l s) = linkView s := by
  simp [mirrorWrite]

@[simp] theorem linkView_afterAccept (rs : List Req) (c : Status) (ls : List Nat) : linkView (afterAccept rs c ls s) = linkView s := by
  simp [afterAccept]

@[simp] theorem linkView_serveFull (r : Req) : linkView (serveFull r s) = linkView s := by
  simp [serveFull]

@[simp] theorem linkView_mergeDone (c : Status) (r : Req) : linkView (mergeDone c r s) = linkView s := by
  simp [mergeDone]

@[simp] theorem linkView_mergeInto (rs : List Req) (l : Nat) (base : LineData) (c : Status) : linkView (mergeInto rs l base c s) = linkView s := by
  simp [mergeInto]

@[simp] theorem linkView_serveNarrow (fuel : Nat) (r : Req) : linkView (serveNarrow fuel r s) = linkView s := by
  induction fuel generalizing r s with
  | zero => rfl
  | succ n ih =>
    unfold serveNarrow
    dsimp only
    repeat' split
    all_goals simp [ih]

@[simp] theorem linkView_serveCommit (fuel : Nat) (r : Req) : linkView (serveCommit fuel r s) = linkView s := by
  induction fuel generalizing r s with
  | zero => rfl
  | succ n ih =>
    unfold serveCommit
    dsimp only
    repeat' split
    all_goals simp [ih]

@[simp] theorem linkView_perform (r : Req) : linkView (perform r s) = linkView s := by
  simp [perform]

/-! ### The home -/

@[simp] theorem linkView_writeDir (l : Nat) (d : BitVec 12) : linkView (writeDir l d s) = linkView s := by
  simp [writeDir]

@[simp] theorem linkView_setDir (l : Nat) (d : Dir) : linkView (setDir l d s) = linkView s := by
  unfold setDir
  dsimp only
  split <;> simp

@[simp] theorem linkView_pinEnt (l : Nat) (b : Bool) : linkView (pinEnt l b s) = linkView s := by rfl

@[simp] theorem linkView_toAgent (a : Nat) (p : Packet) : linkView (toAgent a p s) = linkView s := by
  unfold toAgent
  dsimp only
  repeat' split
  all_goals simp

@[simp] theorem linkView_toRequester (r : Req) (p : Packet) : linkView (toRequester r p s) = linkView s := by
  unfold toRequester
  dsimp only
  repeat' split
  all_goals simp

@[simp] theorem linkView_cohError (r : Req) (c : Status) : linkView (cohError r c s) = linkView s := by
  simp [cohError]

@[simp] theorem linkView_modTxn (l : Nat) (f : Txn → Txn) : linkView (modTxn l f s) = linkView s := by rfl

@[simp] theorem linkView_closeTxn (l : Nat) : linkView (closeTxn l s) = linkView s := by
  unfold closeTxn
  dsimp only
  repeat' split
  all_goals simp

@[simp] theorem linkView_ownerLost (l : Nat) : linkView (ownerLost l s) = linkView s := by
  simp [ownerLost]

@[simp] theorem linkView_cohRead (fuel : Nat) (r : Req) (l : Nat) : linkView (cohRead fuel r l s).2 = linkView s := by
  induction fuel generalizing r s with
  | zero => rfl
  | succ n ih =>
    unfold cohRead
    dsimp only
    repeat' split
    all_goals simp [ih]

@[simp] theorem linkView_grantTo (l : Nat) (after : Dir) (r : Req) (p : Packet) : linkView (grantTo l after r p s) = linkView s := by
  simp [grantTo]

@[simp] theorem linkView_settleFences : linkView (settleFences s) = linkView s := by
  simp [settleFences]

@[simp] theorem linkView_endTxns (c : Status) (mine : List Txn) (r : Req) : linkView (endTxns c mine r s) = linkView s := by
  simp [endTxns]

@[simp] theorem linkView_ncProceed (t : Txn) : linkView (ncProceed t s) = linkView s := by
  simp [ncProceed]

@[simp] theorem linkView_grantSent (l : Nat) (t : Txn) : linkView (grantSent l t s) = linkView s := by
  simp [grantSent]

@[simp] theorem linkView_cohProceed (l : Nat) (t : Txn) : linkView (cohProceed l t s) = linkView s := by
  unfold cohProceed
  split
  · split
    · exact linkView_closeTxn l
    · rfl
  split
  · exact linkView_endTxns _ _ _
  split
  · exact linkView_grantSent l t
  split
  · exact linkView_endTxns _ _ _
  split
  · exact linkView_grantTo _ _ _ _
  · exact linkView_grantTo _ _ _ _
  · extract_lets q s1
    have hread : linkView (cohRead (readTries s1 q) q l s1).2 = linkView s := linkView_cohRead _ q l
    split
    · rfl
    split
    next u hwaits => simpa only [hwaits] using hread
    next k d u hdone =>
      have hu : linkView u = linkView s := by simpa only [hdone] using hread
      split <;> simp [hu]

@[simp] theorem linkView_txnProceed (l : Nat) (data : Option LineData) : linkView (txnProceed l data s) = linkView s := by
  unfold txnProceed
  extract_lets s1
  have h1 : linkView s1 = linkView s := by cases data <;> rfl
  clear_value s1
  split
  · exact h1
  split
  · exact h1
  split <;> simp [h1]

@[simp] theorem linkView_answerProbe (l member : Nat) (agents : List Nat) : linkView (answerProbe l member agents s) = linkView s := by rfl

@[simp] theorem linkView_dropFromTxns (z : Nat) : linkView (dropFromTxns z s) = linkView s := by
  refine linkView_eachS _ _ fun t u => ?_
  dsimp only
  split
  · split
    · simp
    · split <;> simp
  · split <;> simp

@[simp] theorem linkView_tellMembers (z : Nat) : linkView (tellMembers z s) = linkView s := by
  simp [tellMembers]

@[simp] theorem linkView_scanCache (z : Nat) : linkView (scanCache z s) = linkView s := by
  simp [scanCache]

@[simp] theorem linkView_reply (l : Nat) (p q : Packet) : linkView (reply l p q s) = linkView s := by
  unfold reply
  split <;> simp

/-! ### Requests for another node -/

@[simp] theorem linkView_modOutst (tag : Nat) (f : Outst → Outst) : linkView (modOutst tag f s) = linkView s := by rfl

@[simp] theorem linkView_handOn (o : Outst) (l : Nat) (p : Packet) : linkView (handOn o l p s) = linkView s := by
  simp [handOn]

@[simp] theorem linkView_launch (o : Outst) (l : Nat) : linkView (launch o l s) = linkView s := by
  simp [launch]

@[simp] theorem linkView_takeOutst (o : Outst) (hold : Option Nat) : linkView (takeOutst o hold s) = linkView s := by rfl

@[simp] theorem linkView_tellOrigin (o : Outst) (a : Answer) (noBuf : Bool) : linkView (tellOrigin o a noBuf s) = linkView s := by
  unfold tellOrigin
  dsimp only
  split <;> simp

@[simp] theorem linkView_pumpOutst : linkView (pumpOutst s) = linkView s := by
  refine linkView_eachS _ _ fun o u => ?_
  split <;> simp

@[simp] theorem linkView_dropOutst (o : Outst) (hold : Option Nat) : linkView (dropOutst o hold s) = linkView s := by
  simp [dropOutst]

@[simp] theorem linkView_endOutst (o : Outst) (a : Answer) (noBuf : Bool) (hold : Option Nat) :
    linkView (endOutst o a noBuf hold s) = linkView s := by
  simp [endOutst]

/-! ### Commands that stop, and agents that are lost -/

@[simp] theorem linkView_closeCmd (q n : Nat) : linkView (closeCmd q n s) = linkView s := by
  unfold closeCmd
  dsimp only
  repeat' split
  all_goals simp

@[simp] theorem linkView_stopCmd (c : Cmd) : linkView (stopCmd c s) = linkView s := by
  simp [stopCmd]

@[simp] theorem linkView_enterError (q cause idx status opcode : Nat) : linkView (enterError q cause idx status opcode s) = linkView s := by
  simp [enterError]

@[simp] theorem linkView_abortQp (q cause : Nat) : linkView (abortQp q cause s) = linkView s := by
  simp [abortQp]

@[simp] theorem linkView_abortRungBy (z : Nat) : linkView (abortRungBy z s) = linkView s := by
  simp [abortRungBy]

@[simp] theorem linkView_answerHome (v : Served) : linkView (answerHome v s) = linkView s := by
  simp [answerHome]

@[simp] theorem linkView_serveLess (k : Nat) : linkView (serveLess k s) = linkView s := by
  simp [serveLess]

@[simp] theorem linkView_declareLost (z loc : Nat) : linkView (declareLost z loc s) = linkView s := by
  simp [declareLost]

@[simp] theorem linkView_endWith (o : Outst) (a : Answer) (noBuf : Bool) : linkView (endWith o a noBuf s) = linkView s := by
  simp [endWith]

@[simp] theorem linkView_sendAgain (o : Outst) (p : Packet) : linkView (sendAgain o p s) = linkView s := by
  unfold sendAgain
  dsimp only
  split <;> simp

@[simp] theorem linkView_checkReach : linkView (checkReach s) = linkView s := by
  simp [checkReach]

/-! ### What the links do for one another -/

@[simp] theorem linkView_takeBack (l : Nat) (ps : List Packet) : linkView (takeBack l ps s) = linkView s := by
  unfold takeBack
  refine (linkView_modLink l _ fun x => ?_).trans (linkView_modFab _ fun x => ?_) <;> rfl

@[simp] theorem linkView_linkEvent (l : Nat) : linkView (linkEvent l s) = linkView s := by
  simp [linkEvent]

@[simp] theorem linkView_resendRead (o : Outst) : linkView (resendRead o s) = linkView s := by
  simp [resendRead]

@[simp] theorem linkView_sendHellos (l : Nat) : linkView (sendHellos l s) = linkView s := by
  unfold sendHellos
  dsimp only
  split <;> simp

end Sys2Proof.Machine
end


section
/-! SUPPORT. The operations of a link that change how it stands: a state entered, a full training, a failed attempt, DOWN, and EXCHANGE (R374 to R376, R379). -/

set_option Elab.async false

namespace Sys2Proof.Machine

variable {s : State}

/-! ### Links that change state (R374, R379) -/

section Fields

variable {t : State} {l : Nat} (h : linkView t l = linkView s l)
include h

theorem st_eq_of_linkView : (getLink t l).st = (getLink s l).st := by
  simpa [linkView, Link.trained] using congrArg Link.st h

theorem phase_eq_of_linkView : (getLink t l).phase = (getLink s l).phase := by
  simpa [linkView, Link.trained] using congrArg Link.phase h

theorem attempts_eq_of_linkView : (getLink t l).attempts = (getLink s l).attempts := by
  simpa [linkView, Link.trained] using congrArg Link.attempts h

theorem downAt_eq_of_linkView : (getLink t l).downAt = (getLink s l).downAt := by
  simpa [linkView, Link.trained] using congrArg Link.downAt h

end Fields

/-- The traffic of a link that is not ACTIVE goes elsewhere; how the links stand does not change (R379). -/
theorem linkView_linkDropped {l : Nat} (hst : (getLink s l).st ≠ .active) : linkView (linkDropped l s) = linkView s := by
  unfold linkDropped
  extract_lets s1 old s2 s3 lost s4
  have h1 : linkView s1 = linkView s := linkView_takeBack _ _
  have h2 : linkView s2 = linkView s1 := by
    have hst1 : (getLink s1 l).st ≠ .active := st_eq_of_linkView (congrFun h1 l) ▸ hst
    refine linkView_modLink_of l _ ?_
    simp [Link.trained, hst1]
  have h3 : linkView s3 = linkView s2 := by
    refine linkView_eachS _ _ fun p u => ?_
    split <;> simp
  have h4 : linkView s4 = linkView s3 := linkView_eachS _ _ fun _ _ => linkView_resendRead _
  simp [h4, h3, h2, h1]

/-- A link that enters a state; out of ACTIVE its lanes carry no traffic (R404). -/
def Link.enter (st : LinkSt) (x : Link) : Link :=
  { x with st := st, active := if x.st = .active ∧ st ≠ .active then 0 else x.active }

theorem Link.enter_active (x : Link) : x.enter .active = { x with st := .active } := by
  simp only [Link.enter, ne_eq, not_true_eq_false, and_false, reduceIte]

theorem getLink_whenS_modLink_ne (b : Bool) {k l : Nat} (f : Link → Link) (hk : k ≠ l) : getLink (whenS b (modLink l f) s) k = getLink s k := by
  cases b <;> simp [hk]

theorem linkView_whenS_linkEvent (b : Bool) (l : Nat) : linkView (whenS b (linkEvent l) s) = linkView s :=
  linkView_whenS b _ fun _ => linkView_linkEvent l

theorem linkView_modLink_self (l : Nat) (f : Link → Link) : linkView (modLink l f s) l = (f (getLink s l)).trained :=
  congrArg Link.trained (getLink_modLink_self l f s)

theorem linkView_modLink_ne {k l : Nat} (f : Link → Link) (hk : k ≠ l) : linkView (modLink l f s) k = linkView s k :=
  congrArg Link.trained (getLink_modLink_ne f s hk)

theorem linkView_setLinkSt_self (l : Nat) (st : LinkSt) : linkView (setLinkSt l st s) l = ((getLink s l).enter st).trained := by
  unfold setLinkSt
  extract_lets old s1 told s2
  have h2 : linkView s2 l = ({ getLink s l with st := st } : Link).trained :=
    (congrFun (linkView_whenS_linkEvent told l) l).trans (linkView_modLink_self l _)
  by_cases hleft : (getLink s l).st = .active ∧ st ≠ .active
  · have hactive := congrArg (fun y : Link => { y with active := 0 }) h2
    simpa [old, hleft, linkView, Link.enter, Link.trained] using hactive
  · have hstays : (decide (old = .active) && decide (st ≠ .active)) = false := by simpa [old] using hleft
    rw [hstays]
    simpa [hleft, Link.enter] using h2

theorem linkView_setLinkSt_ne {k l : Nat} (st : LinkSt) (hk : k ≠ l) : linkView (setLinkSt l st s) k = linkView s k := by
  unfold setLinkSt
  extract_lets old s1 told s2
  have h2 : linkView s2 k = linkView s k := (congrFun (linkView_whenS_linkEvent told l) k).trans (linkView_modLink_ne _ hk)
  exact (congrArg Link.trained (getLink_whenS_modLink_ne _ _ hk)).trans h2

theorem setLinkSt_st (l : Nat) (st : LinkSt) : (getLink (setLinkSt l st s) l).st = st := by
  simpa [linkView, Link.trained, Link.enter] using congrArg Link.st (linkView_setLinkSt_self (s := s) l st)

/-- A link that starts a full training (R374). -/
def Link.restart (now : Nat) (x : Link) : Link := { x with phase := .detect, phaseAt := now, attempts := 0, fast := false, fastTries := 0 }

/-- A full training: the link enters TRAINING at DETECT; how any other link stands does not change. -/
theorem linkView_startTraining (l : Nat) :
    linkView (startTraining l s) = linkView (modLink l (Link.restart (setLinkSt l .training s).now) (setLinkSt l .training s)) := by
  unfold startTraining
  extract_lets was s1 s2
  have hst : (getLink s2 l).st ≠ .active := by simp [s2, s1, setLinkSt_st]
  cases was
  · rfl
  · exact linkView_linkDropped hst

/-- A link stands at the start of a full training (R374). -/
def Restarts (s : State) (l : Nat) : Prop := (getLink s l).st = .training ∧ (getLink s l).phase = .detect ∧ (getLink s l).attempts = 0

theorem Restarts.of_linkView {t : State} {l : Nat} (h : linkView t l = linkView s l) (hs : Restarts s l) : Restarts t l := by
  obtain ⟨hst, hphase, hattempts⟩ := hs
  exact ⟨(st_eq_of_linkView h).trans hst, (phase_eq_of_linkView h).trans hphase, (attempts_eq_of_linkView h).trans hattempts⟩

theorem restarts_startTraining (l : Nat) : Restarts (startTraining l s) l := by
  refine Restarts.of_linkView (congrFun (linkView_startTraining l) l) ?_
  simp [Restarts, Link.restart, setLinkSt_st]

theorem Restarts.startTraining {k : Nat} (l : Nat) (hk : Restarts s k) : Restarts (startTraining l s) k := by
  by_cases hkl : k = l
  · subst hkl
    exact restarts_startTraining k
  · refine hk.of_linkView ((congrFun (linkView_startTraining l) k).trans ?_)
    rw [linkView_modLink_ne _ hkl, linkView_setLinkSt_ne _ hkl]

/-- Links that are started one after the other all stand at the start of a full training. -/
theorem restarts_eachS_startTraining {l : Nat} {ls : List Nat} (h : Restarts s l ∨ l ∈ ls) : Restarts (eachS ls startTraining s) l := by
  induction ls generalizing s with
  | nil => exact h.resolve_right List.not_mem_nil
  | cons k ls ih =>
    rw [eachS_cons]
    obtain hdone | hmem := h
    · exact ih (.inl (hdone.startTraining k))
    · obtain rfl | hmem := List.mem_cons.mp hmem
      · exact ih (.inl (restarts_startTraining l))
      · exact ih (.inr hmem)

/-- A link that goes DOWN stands DOWN from this cycle on (R374). -/
theorem linkView_goDown (l : Nat) : linkView (goDown l s) = linkView (modLink l (fun x => { x with downAt := s.now }) (setLinkSt l .down s)) := by
  unfold goDown
  extract_lets s1 t
  have hst : (getLink s1 l).st ≠ .active := by simp [s1, setLinkSt_st]
  have ht : linkView t = linkView s1 := linkView_linkDropped hst
  rw [linkView_eachS _ _ fun _ _ => linkView_post _, ht]

theorem goDown_stands (l : Nat) : (getLink (goDown l s) l).st = .down ∧ (getLink (goDown l s) l).downAt = s.now := by
  have hdown := congrFun (linkView_goDown (s := s) l) l
  rw [st_eq_of_linkView hdown, downAt_eq_of_linkView hdown, getLink_modLink_self]
  exact ⟨setLinkSt_st l .down, rfl⟩

/-! ### Attempts (R374) -/

/-- A link whose attempt has failed, once more at DETECT (R374). -/
def Link.retry (now : Nat) (x : Link) : Link := { x with attempts := x.attempts + 1, phase := .detect, phaseAt := now }

section Attempts

variable {l : Nat} (hfast : (getLink s l).fast = false)
include hfast

theorem attemptFailed_of_lt (hfew : (getLink s l).attempts < 2) : attemptFailed l s = modLink l (Link.retry s.now) s := by
  unfold attemptFailed
  simp only [hfast, Bool.false_eq_true, if_false]
  exact if_neg (by omega)

theorem attemptFailed_of_le (hmany : 2 ≤ (getLink s l).attempts) :
    attemptFailed l s = goDown l (modLink l (fun x => { x with attempts := x.attempts + 1 }) s) := by
  unfold attemptFailed
  simp only [hfast, Bool.false_eq_true, if_false]
  exact if_pos (by omega)

/-- An attempt that is not the third to fail leaves the link in its state, at DETECT. -/
theorem attemptFailed_stands_of_lt (hfew : (getLink s l).attempts < 2) :
    (getLink (attemptFailed l s) l).st = (getLink s l).st ∧ (getLink (attemptFailed l s) l).phase = .detect ∧
      (getLink (attemptFailed l s) l).attempts = (getLink s l).attempts + 1 := by
  rw [attemptFailed_of_lt hfast hfew, getLink_modLink_self]
  exact ⟨rfl, rfl, rfl⟩

/-- The third attempt that fails takes the link DOWN. -/
theorem attemptFailed_stands_of_le (hmany : 2 ≤ (getLink s l).attempts) :
    (getLink (attemptFailed l s) l).st = .down ∧ (getLink (attemptFailed l s) l).downAt = s.now := by
  rw [attemptFailed_of_le hfast hmany]
  exact goDown_stands l

end Attempts

/-! ### EXCHANGE (R375, R376) -/

/-- A link on the lanes that pass, with what its peer sent, before it enters ACTIVE (R375, R376). -/
def Link.exchanged (x : Exchange) (lanes : Nat) (y : Link) : Link :=
  { keepPeer x y with
    passing := BitVec.ofNat 8 lanes, usable := BitVec.ofNat 8 lanes, active := BitVec.ofNat 8 (chooseLanes lanes)
    lfsr := seeds (chooseLanes lanes), tx := seeds (chooseLanes lanes), attempts := 0, fastTries := 0
    txSeq := 0, rxNext := 0, rxAck := 0, acked := 0, unacked := [], tries := [], credits := x.credits, sizes := x.credits }

section Exchange

variable {l : Nat} {x : Exchange}

theorem exchangeDone_of_lanes (hlanes : x.lanes.toNat &&& linkLanes s l ≠ 0) (hpeer : ¬ (x.device = true ∧ x.node.toNat = thisNode s)) :
    exchangeDone l x s =
      pumpOutst (sendHellos l (setLinkSt l .active (modLink l (Link.exchanged x (x.lanes.toNat &&& linkLanes s l)) s))) := by
  unfold exchangeDone
  dsimp only
  rw [if_neg hlanes, if_neg (by simpa using hpeer)]
  rfl

theorem exchangeDone_of_no_lane (hnone : x.lanes.toNat &&& linkLanes s l = 0) :
    exchangeDone l x s = attemptFailed l (modLink l (fun y => { y with passing := 0 }) s) := by
  unfold exchangeDone
  exact if_pos hnone

/-- EXCHANGE with a lane that passes and another node: the link stands ACTIVE on the chosen lanes, with what its peer sent. -/
theorem linkView_exchangeDone (hlanes : x.lanes.toNat &&& linkLanes s l ≠ 0) (hpeer : ¬ (x.device = true ∧ x.node.toNat = thisNode s)) :
    linkView (exchangeDone l x s) l = (((getLink s l).exchanged x (x.lanes.toNat &&& linkLanes s l)).enter .active).trained := by
  rw [exchangeDone_of_lanes hlanes hpeer, linkView_pumpOutst, linkView_sendHellos, linkView_setLinkSt_self, getLink_modLink_self]

theorem exchangeDone_stands (hlanes : x.lanes.toNat &&& linkLanes s l ≠ 0) (hpeer : ¬ (x.device = true ∧ x.node.toNat = thisNode s)) :
    let y := getLink (exchangeDone l x s) l
    y.st = .active ∧ y.active = BitVec.ofNat 8 (chooseLanes (x.lanes.toNat &&& linkLanes s l)) ∧ y.peerNode = x.node.toNat ∧
      y.peerKind = (if x.device then 1 else 2) ∧ y.peerPort = x.port.toNat ∧ y.peerStepping = x.stepping.toNat ∧ y.peerCompatA = x.compatA ∧
      y.sizes = x.credits := by
  have hview := linkView_exchangeDone hlanes hpeer
  simp only [Link.enter_active, Link.exchanged, keepPeer, linkView, Link.trained, reduceIte] at hview
  have hst : (getLink (exchangeDone l x s) l).st = .active := by simpa only using congrArg Link.st hview
  simp only [hst, reduceIte] at hview
  refine ⟨hst, ?_, ?_, ?_, ?_, ?_, ?_, ?_⟩
  · simpa only using congrArg Link.active hview
  · simpa only using congrArg Link.peerNode hview
  · simpa only using congrArg Link.peerKind hview
  · simpa only using congrArg Link.peerPort hview
  · simpa only using congrArg Link.peerStepping hview
  · simpa only using congrArg Link.peerCompatA hview
  · simpa only using congrArg Link.sizes hview

/-- EXCHANGE without a lane is a failed attempt; one that is not the third leaves the link at DETECT (R374). -/
theorem exchangeDone_stands_of_no_lane (hfast : (getLink s l).fast = false) (hnone : x.lanes.toNat &&& linkLanes s l = 0)
    (hfew : (getLink s l).attempts < 2) :
    (getLink (exchangeDone l x s) l).st = (getLink s l).st ∧ (getLink (exchangeDone l x s) l).phase = .detect ∧
      (getLink (exchangeDone l x s) l).attempts = (getLink s l).attempts + 1 := by
  have hmarked : getLink (modLink l (fun y => { y with passing := 0 }) s) l = { getLink s l with passing := 0 } := getLink_modLink_self l _ s
  have hstands := attemptFailed_stands_of_lt (s := modLink l (fun y => { y with passing := 0 }) s) (l := l) (by rw [hmarked]; exact hfast)
    (by rw [hmarked]; exact hfew)
  rwa [hmarked, ← exchangeDone_of_no_lane hnone] at hstands

end Exchange

end Sys2Proof.Machine
end


section
/-! SUPPORT. The lanes a link takes: the groups of lanes in the order in which it prefers them (R375). -/

set_option Elab.async false

namespace Sys2Proof.Machine

/-- The lanes of the aligned group of width `w` and index `i`. -/
def laneGroup (w i : Nat) : Nat := (2 ^ w - 1) <<< (w * i)

/-- The aligned groups by width and index, in the order in which a link prefers them. -/
def laneGroups : List (Nat × Nat) := [8, 4, 2, 1].flatMap fun w => (List.range (8 / w)).map fun i => (w, i)

/-- Whether all lanes of a group pass. -/
def groupPasses (lanes : Nat) (g : Nat × Nat) : Bool := laneGroup g.1 g.2 &&& lanes = laneGroup g.1 g.2

/-- A group that a link prefers to another: it is wider, or as wide and lower. -/
def Preferred (g h : Nat × Nat) : Prop := h.1 ≤ g.1 ∧ (h.1 = g.1 → g.2 ≤ h.2)

theorem mem_laneGroups {w i : Nat} : (w, i) ∈ laneGroups ↔ w ∈ [1, 2, 4, 8] ∧ i < 8 / w := by
  have hwidth : w ∈ [8, 4, 2, 1] ↔ w ∈ [1, 2, 4, 8] := by
    simp only [List.mem_cons, List.not_mem_nil, or_false]
    omega
  rw [← hwidth]
  simp only [laneGroups, List.mem_flatMap, List.mem_map, List.mem_range, Prod.mk.injEq]
  constructor
  · rintro ⟨v, hv, j, hj, rfl, rfl⟩
    exact ⟨hv, hj⟩
  · rintro ⟨hw, hi⟩
    exact ⟨w, hw, i, hi, rfl, rfl⟩

theorem laneGroups_preferred : laneGroups.Pairwise Preferred := by
  unfold Preferred
  decide

/-- The lanes chosen are those of the first group in the order of preference that passes. -/
theorem chooseLanes_eq (lanes : Nat) : chooseLanes lanes = ((laneGroups.find? (groupPasses lanes)).map fun g => laneGroup g.1 g.2).getD 0 := by
  have hgroups : ([8, 4, 2, 1].flatMap fun w => (List.range (8 / w)).map fun i => (2 ^ w - 1) <<< (w * i)) =
      laneGroups.map fun g => laneGroup g.1 g.2 := by
    decide
  have hpasses : ((fun g => decide (g &&& lanes = g)) ∘ fun g : Nat × Nat => laneGroup g.1 g.2) = groupPasses lanes := rfl
  unfold chooseLanes
  dsimp only
  rw [hgroups, List.find?_map, hpasses]
  cases laneGroups.find? (groupPasses lanes) <;> rfl

theorem two_pow_and_of_testBit {lanes i : Nat} (hi : lanes.testBit i = true) : 2 ^ i &&& lanes = 2 ^ i := by
  refine Nat.eq_of_testBit_eq fun j => ?_
  rw [Nat.testBit_and, Nat.testBit_two_pow]
  by_cases hij : i = j
  · rw [← hij, hi, Bool.and_true]
  · rw [decide_eq_false hij, Bool.false_and]

/-- Where a lane passes, some group passes: that of the lane alone. -/
theorem exists_groupPasses {lanes : Nat} (hsize : lanes < 256) (hlanes : lanes ≠ 0) : ∃ g ∈ laneGroups, groupPasses lanes g = true := by
  obtain ⟨i, hi⟩ := Nat.exists_testBit_of_ne_zero hlanes
  have hi8 : i < 8 := Nat.lt_of_not_le fun hge => by
    have hsmall : lanes < 2 ^ i := Nat.lt_of_lt_of_le (show lanes < 2 ^ 8 from hsize) (Nat.pow_le_pow_right Nat.two_pos hge)
    exact Bool.false_ne_true ((Nat.testBit_lt_two_pow hsmall).symm.trans hi)
  refine ⟨(1, i), mem_laneGroups.mpr ⟨by decide, by simpa using hi8⟩, ?_⟩
  have hgroup : laneGroup 1 i = 2 ^ i := by rw [laneGroup, Nat.one_mul]; exact Nat.one_shiftLeft i
  simp only [groupPasses, hgroup, two_pow_and_of_testBit hi, decide_true]

/-- Where a lane passes, the lanes chosen are those of the passing group that a link prefers to every other. -/
theorem chooseLanes_preferred {lanes : Nat} (hsize : lanes < 256) (hlanes : lanes ≠ 0) :
    ∃ g ∈ laneGroups, groupPasses lanes g = true ∧ chooseLanes lanes = laneGroup g.1 g.2 ∧
      ∀ h ∈ laneGroups, groupPasses lanes h = true → Preferred g h := by
  obtain ⟨g, hfind⟩ := Option.isSome_iff_exists.mp (List.find?_isSome.mpr (exists_groupPasses hsize hlanes))
  obtain ⟨hpass, before, after, hsplit, hbefore⟩ := List.find?_eq_some_iff_append.mp hfind
  refine ⟨g, List.mem_of_find?_eq_some hfind, hpass, by simp [chooseLanes_eq, hfind], fun h hmem hh => ?_⟩
  have hsorted := laneGroups_preferred
  rw [hsplit] at hmem hsorted
  obtain ⟨-, hgafter, -⟩ := List.pairwise_append.mp hsorted
  obtain hin | hin := List.mem_append.mp hmem
  · exact absurd hh (by simpa using hbefore h hin)
  · obtain rfl | hin := List.mem_cons.mp hin
    · exact ⟨Nat.le_refl _, fun _ => Nat.le_refl _⟩
    · exact (List.pairwise_cons.mp hgafter).1 h hin

theorem groupPasses_iff {lanes w i : Nat} :
    (w ∈ [1, 2, 4, 8] ∧ i < 8 / w ∧ laneGroup w i &&& lanes = laneGroup w i) ↔ (w, i) ∈ laneGroups ∧ groupPasses lanes (w, i) = true := by
  rw [mem_laneGroups, groupPasses, decide_eq_true_iff, and_assoc]

/-- No lane passes, and none is taken. -/
theorem chooseLanes_zero : chooseLanes 0 = 0 := by decide

end Sys2Proof.Machine
end


section
/-! SUPPORT. The commands of training: LINK_TRAINING_PHASE_DONE, its timers, and FAB_TRAIN (R374, R376, R403, R406). -/

set_option Elab.async false

namespace Sys2Proof.Machine

/-! ### FAB_TRAIN (R403, R406) -/

/-- A register command whose write waits for no partition ends as the write at its block does, whatever its status. -/
theorem regCmd_of_waitsFor_none {w : Writer} {a : Nat} {v : Word} {s : State} (hlive : writerLive s w = true) (hwait : waitsFor s a v.toNat = none) :
    regCmd w a v s = .next (settle (writeBlock w a v.toNat s).2) := by
  rw [regCmd, if_pos hlive, regWrite, hwait]
  rfl

/-- The links of a port that a value written to FAB_TRAIN names and that exist (R406). -/
def trainedLinks (s : State) (k v : Nat) : List Nat := [2 * k, 2 * k + 1].filter fun l => v.testBit (l % 2) && linkExists s l

section FabTrain

variable (w : Writer) (k v : Nat) {s : State}

theorem writeFab_train (hpriv : writerPriv s w = true) :
    writeFab w k 0x18 v s = wrote (eachS (trainedLinks s k v) startTraining s) := by
  simp [writeFab, trainedLinks, hpriv]

theorem writeFab_train_denied (hpriv : writerPriv s w = false) : writeFab w k 0x18 v s = denyWrite w (0x140018 + 0x1000 * k) v .protection s := by
  have ha : 0x140000 + 0x1000 * k + 0x18 = 0x140018 + 0x1000 * k := by omega
  simp [writeFab, hpriv, ha]

end FabTrain

end Sys2Proof.Machine

namespace Sys2Proof.Safety

open Sys2Proof.Machine

/-- FAB_TRAIN ends as the write at the block of its port does (R403). -/
theorem fabTrain_settles {w : Writer} {v : Word} {s : State} (pt : Fin 8) (hlive : writerLive s w = true) :
    Settles (.fabTrain w pt v) s (writeFab w pt.val 0x18 v.toNat s).2 := by
  have hblock : writeBlock w (0x140018 + 0x1000 * pt.val) v.toNat s = writeFab w pt.val 0x18 v.toNat s :=
    writeBlock_fab w _ s rfl pt.isLt (by decide) (by omega)
  exact hblock ▸ regCmd_of_waitsFor_none hlive (waitsFor_eq_none_of_unowned s _ (by omega))

theorem fabTrain_settles_of_priv {w : Writer} {v : Word} {s : State} (pt : Fin 8) (hlive : writerLive s w = true) (hpriv : writerPriv s w = true) :
    Settles (.fabTrain w pt v) s (eachS (trainedLinks s pt.val v.toNat) startTraining s) := by
  have hwrite := fabTrain_settles (v := v) pt hlive
  rwa [writeFab_train w pt.val v.toNat hpriv] at hwrite

theorem fabTrain_settles_of_not_priv {w : Writer} {v : Word} {s : State} (pt : Fin 8) (hlive : writerLive s w = true)
    (hpriv : writerPriv s w = false) : Settles (.fabTrain w pt v) s (accessViolation w (writerNo s w) (0x140018 + 0x1000 * pt.val) v.toNat s) := by
  have hwrite := fabTrain_settles (v := v) pt hlive
  rwa [writeFab_train_denied w pt.val v.toNat hpriv] at hwrite

/-! ### LINK_TRAINING_PHASE_DONE (R374) -/

/-- The phase that a link of a training comes to, and when (R374). -/
def inPhase (ph : Phase) (now : Nat) (y : Link) : Link := { y with phase := ph, phaseAt := now }

section PhaseDone

variable {l : Fin 16} {x : Exchange} {s : State} (hst : (getLink s l.val).st = .training)
include hst

theorem phaseDone_detect (hphase : (getLink s l.val).phase = .detect) :
    Gives (.linkTrainingPhaseDone l x) s (modLink l.val (inPhase .equalise s.now) s) := by
  change execLinkTrainingPhaseDone l x s = _
  simp only [execLinkTrainingPhaseDone, hst, hphase]
  rfl

theorem phaseDone_equalise (hphase : (getLink s l.val).phase = .equalise) :
    Gives (.linkTrainingPhaseDone l x) s (modLink l.val (inPhase .lock s.now) s) := by
  change execLinkTrainingPhaseDone l x s = _
  simp only [execLinkTrainingPhaseDone, hst, hphase]
  rfl

theorem phaseDone_lock (hphase : (getLink s l.val).phase = .lock) : Gives (.linkTrainingPhaseDone l x) s (lockDone l.val x s) := by
  change execLinkTrainingPhaseDone l x s = _
  simp only [execLinkTrainingPhaseDone, hst, hphase]
  rfl

theorem phaseDone_exchange (hfast : (getLink s l.val).fast = false) (hphase : (getLink s l.val).phase = .exchange) :
    Settles (.linkTrainingPhaseDone l x) s (exchangeDone l.val x s) := by
  change execLinkTrainingPhaseDone l x s = _
  simp only [execLinkTrainingPhaseDone, hst, hphase, hfast]
  rfl

theorem trainingPhaseTimeout_settles (hpast : (getLink s l.val).phaseAt + phaseLimit (getLink s l.val).phase ≤ s.now) :
    Settles (.trainingPhaseTimeout l) s (attemptFailed l.val s) := by
  change execTrainingPhaseTimeout l s = _
  simp [execTrainingPhaseTimeout, hst, hpast]

end PhaseDone

theorem linkDownRetry_gives {l : Fin 16} {s : State} (hst : (getLink s l.val).st = .down) (hpast : (getLink s l.val).downAt + 50000000 ≤ s.now) :
    Gives (.linkDownRetry l) s (startTraining l.val s) := by
  change execLinkDownRetry l s = _
  simp [execLinkDownRetry, hst, hpast]

/-- With a lock within the limit the link comes to EXCHANGE, what the lock found is kept, and the device's own fields leave (R370, R376). -/
theorem lockDone_of_le {l : Nat} {x : Exchange} {s : State} (hskew : x.skew ≤ skewLimit) :
    lockDone l x s = sendExchange l (x.lanes.toNat &&& trainLanes s l) (modLink l (inPhase .exchange s.now) (keepLock l x s)) :=
  if_neg (Nat.not_lt.mpr hskew)

/-- A skew past the limit fails the attempt (log 54). -/
theorem lockDone_of_lt {l : Nat} {x : Exchange} {s : State} (hskew : skewLimit < x.skew) : lockDone l x s = attemptFailed l s := if_pos hskew

/-- What the device sends of its own in EXCHANGE (R376). -/
def ownExchange (s : State) (l lanes : Nat) : Exchange :=
  { lanes := BitVec.ofNat 8 lanes, node := BitVec.ofNat 16 (thisNode s), port := BitVec.ofNat 8 (l / 2), device := true,
    stepping := 0x00B0, compatA := s.power.compatA, credits := ingressSizes s l, inverted := 0, reversed := false, skew := 0 }

theorem ownExchange_port (l : Fin 16) (s : State) (lanes : Nat) : (ownExchange s l.val lanes).port.toNat = l.val / 2 :=
  Nat.mod_eq_of_lt (by omega)

theorem lockDone_outbox {l : Nat} {x : Exchange} {s : State} (hskew : x.skew ≤ skewLimit) :
    (lockDone l x s).outbox = s.outbox ++ [.exchange l (ownExchange s l (x.lanes.toNat &&& trainLanes s l))] := by
  rw [lockDone_of_le hskew]
  rfl

theorem lockDone_link {l : Nat} {x : Exchange} {s : State} (hskew : x.skew ≤ skewLimit) :
    getLink (lockDone l x s) l = inPhase .exchange s.now { getLink s l with inverted := x.inverted, reversed := x.reversed } := by
  rw [lockDone_of_le hskew]
  simp [sendExchange, keepLock]

theorem toNat_ofNat_and (a : BitVec 8) (b : Nat) : (BitVec.ofNat 8 (a.toNat &&& b)).toNat = a.toNat &&& b :=
  Nat.mod_eq_of_lt (Nat.lt_of_le_of_lt Nat.and_le_left a.isLt)

end Sys2Proof.Safety
end


section
/-! O24. How a link trains and which lanes it takes (R374 to R376, R403, R406). -/

set_option Elab.async false

namespace Sys2Proof.Safety

open Sys2Proof.Machine

/-- Settles O24: only a link's own operations change how it stands, and what each sets is read off; the lanes chosen are those of the first group that
passes in the order of preference. -/
theorem linkTraining : Obligations.LinkTraining := by
  unfold Obligations.LinkTraining
  refine ⟨fun l x s => ?_, fun lanes hsize => ?_, fun w pt v s hlive => ?_⟩
  · refine ⟨fun hst hphase => ⟨_, phaseDone_detect hst hphase, ?_⟩, fun hst hphase => ⟨_, phaseDone_equalise hst hphase, ?_⟩,
      fun hst hphase hskew => ⟨_, ownExchange s l.val (x.lanes.toNat &&& trainLanes s l.val), phaseDone_lock hst hphase, ?_⟩,
      fun hst hfast hphase hskew hfew => ⟨_, phaseDone_lock hst hphase, ?_⟩,
      fun hst hfast hphase hlanes hpeer => ⟨_, phaseDone_exchange hst hfast hphase, exchangeDone_stands hlanes hpeer⟩,
      fun hst hfast hphase hnone hfew => ⟨_, phaseDone_exchange hst hfast hphase, ?_⟩,
      fun hst hfast hpast hfew => ⟨_, trainingPhaseTimeout_settles hst hpast, ?_⟩,
      fun hst hfast hpast hmany => ⟨_, trainingPhaseTimeout_settles hst hpast, attemptFailed_stands_of_le hfast hmany⟩,
      fun hst hpast => ⟨_, linkDownRetry_gives hst hpast, restarts_startTraining l.val⟩⟩
    · simp [inPhase]
    · simp [inPhase]
    · rw [lockDone_link hskew]
      exact ⟨rfl, rfl, lockDone_outbox hskew, BitVec.toNat_ofNat _ _, ownExchange_port l s _, rfl, rfl, rfl, toNat_ofNat_and _ _⟩
    · rw [lockDone_of_lt hskew]
      exact (attemptFailed_stands_of_lt hfast hfew).2
    · obtain ⟨hkept, hfailed⟩ := exchangeDone_stands_of_no_lane hfast hnone hfew
      exact ⟨hkept.trans hst, hfailed⟩
    · obtain ⟨hkept, hfailed⟩ := attemptFailed_stands_of_lt hfast hfew
      exact ⟨hkept.trans hst, hfailed⟩
  · refine ⟨fun hnone => hnone ▸ chooseLanes_zero, fun hlanes => ?_⟩
    obtain ⟨⟨w, i⟩, hmem, hpass, hchosen, hpreferred⟩ := chooseLanes_preferred hsize hlanes
    refine ⟨w, i, groupPasses_iff.mpr ⟨hmem, hpass⟩, hchosen, fun v j hvj => ?_, fun j hwj => ?_⟩
    · obtain ⟨hmem', hpass'⟩ := groupPasses_iff.mp hvj
      exact (hpreferred (v, j) hmem' hpass').1
    · obtain ⟨hmem', hpass'⟩ := groupPasses_iff.mp hwj
      exact (hpreferred (w, j) hmem' hpass').2 rfl
  · refine ⟨fun hpriv => ⟨_, fabTrain_settles_of_priv pt hlive hpriv, fun l hport hnamed hexists => ?_⟩,
      fabTrain_settles_of_not_priv pt hlive⟩
    have hstarted : l ∈ trainedLinks s pt.val v.toNat := List.mem_filter.mpr ⟨by simpa using hport, by simp [hnamed, hexists]⟩
    obtain ⟨hst, hphase, -⟩ := restarts_eachS_startTraining (s := s) (.inr hstarted)
    exact ⟨hst, hphase⟩

end Sys2Proof.Safety
end
